-- ==== Sys2Proof/Word.lean ====
section
/-! DEFINITION. The machine's words: bytes, sectors, the 96-bit instruction word's named fields
(R65, Table 3.4), its guard (R68) and the four register forms (R66, R73). Lookup tables of plain
data keyed by a number. -/

namespace Sys2Proof

/-- A byte of memory or scratchpad. -/
abbrev Byte := BitVec 8

/-- One lane-register or scratchpad word (R178, R184). -/
abbrev Word := BitVec 32

/-- One scalar register, special register or token status word (R31, R190). -/
abbrev Word64 := BitVec 64

/-- One instruction word (R65). -/
abbrev Word96 := BitVec 96

/-- A finite table of records under numeric names (cores, groups, registers). -/
abbrev Tab (α : Type) := List (Nat × α)

/-- The guard of an instruction word: bits [12], [13] and [18:14] (Table 3.4, R68). -/
structure Guard where
  ge : Bool
  gi : Bool
  gp : BitVec 5
  deriving DecidableEq, Repr, Inhabited

/-- The operand fields of an instruction word, under the manual's names (Table 3.4). -/
structure Fields where
  d : BitVec 8
  a : BitVec 8
  ap : BitVec 4
  b : BitVec 8
  bp : BitVec 4
  c : BitVec 8
  cp : BitVec 4
  x : BitVec 32
  deriving DecidableEq, Repr, Inhabited

/-- The four formats that share the VR opcodes (R66, R73). -/
inductive Form where
  | vr | vi | sr | si
  deriving DecidableEq, Repr, Inhabited

end Sys2Proof
end

