-- ==== Sys2Proof/Machine/Bits.lean ====
section
/-! DEFINITION. Bit fields, bytes in little-endian order (R2), exact integers kept to a width (R6, R89),
and lookup in finite tables. -/

namespace Sys2Proof

/-- Bits `[lo+n-1:lo]` of a number (R4's slice). -/
def bitsOf (x lo n : Nat) : Nat := x / 2 ^ lo % 2 ^ n

/-- One bit of a number. -/
def bitOf (x i : Nat) : Bool := bitsOf x i 1 == 1

/-- `sext(x, n)` of R6: the low `n` bits read as two's complement. -/
def sextN (x n : Nat) : Int :=
  let y := x % 2 ^ n
  if 2 * y < 2 ^ n then (y : Int) else (y : Int) - (2 ^ n : Nat)

/-- An exact integer kept to its low `n` bits (R89). -/
def wrapN (i : Int) (n : Nat) : Nat := (i % ((2 ^ n : Nat) : Int)).toNat

/-- `x` with bits `[lo+n-1:lo]` replaced by the low bits of `v`. -/
def setBits (x lo n v : Nat) : Nat :=
  x - bitsOf x lo n * 2 ^ lo + v % 2 ^ n * 2 ^ lo

/-- Number of one bits among the low `n`. -/
def popCount (x : Nat) : Nat → Nat
  | 0 => 0
  | n + 1 => popCount x n + bitsOf x n 1

/-- The little-endian bytes of a number, lowest first (R2). -/
def leBytes (x : Nat) : Nat → List Byte
  | 0 => []
  | n + 1 => BitVec.ofNat 8 x :: leBytes (x / 256) n

/-- The number a little-endian byte list holds (R2). -/
def ofLeBytes : List Byte → Nat
  | [] => 0
  | b :: bs => b.toNat + 256 * ofLeBytes bs

/-- The value a table holds at a key. -/
def Tab.get? {α : Type} (t : Tab α) (k : Nat) : Option α :=
  match t with
  | [] => none
  | (j, v) :: r => if j == k then some v else Tab.get? r k

/-- A table's value at a key, or a default. -/
def Tab.getD {α : Type} (t : Tab α) (k : Nat) (d : α) : α := (Tab.get? t k).getD d

/-- A table with one key's value replaced, keys kept rising. -/
def Tab.set {α : Type} (t : Tab α) (k : Nat) (v : α) : Tab α :=
  match t with
  | [] => [(k, v)]
  | (j, w) :: r =>
    if j == k then (k, v) :: r
    else if k < j then (k, v) :: (j, w) :: r
    else (j, w) :: Tab.set r k v

/-- A table without a key. -/
def Tab.erase {α : Type} (t : Tab α) (k : Nat) : Tab α := List.filter (fun p => p.1 != k) t

/-- A table with one present entry changed. -/
def Tab.modify {α : Type} (t : Tab α) (k : Nat) (f : α → α) : Tab α :=
  List.map (fun p => if p.1 == k then (p.1, f p.2) else p) t

/-- The values of a table in key order. -/
def Tab.vals {α : Type} (t : Tab α) : List α := List.map Prod.snd t

/-- A key above every key of the table. -/
def Tab.fresh {α : Type} (t : Tab α) : Nat := List.foldl (fun m p => if m ≤ p.1 then p.1 + 1 else m) 0 t

end Sys2Proof
end

