-- ==== Sys2Proof/Machine/Types.lean ====
section
/-! DEFINITION. The type codes of Table 3.8 (R71, R87) and what an instruction's lists of types are made of. -/

namespace Sys2Proof

/-- The types of Table 3.8. -/
inductive Ty where
  | none
  | i8 | i16 | i32 | i64
  | n8 | n16 | n32 | n64
  | f32 | f16 | bf16 | e4m3 | e5m2
  | mx8e4 | mx8e5
  | bx2 | bx3 | bx4 | bx5 | bx6 | bx7 | bx8
  | b8 | b16 | b32 | b64
  deriving DecidableEq, Repr, Inhabited

/-- Table 3.8: the type of a code. Every code not listed is reserved (R71). -/
def tyOfCode (c : Nat) : Option Ty :=
  match c with
  | 0x00 => some .none
  | 0x01 => some .i8 | 0x02 => some .i16 | 0x03 => some .i32 | 0x04 => some .i64
  | 0x05 => some .n8 | 0x06 => some .n16 | 0x07 => some .n32 | 0x08 => some .n64
  | 0x09 => some .f32 | 0x0A => some .f16 | 0x0B => some .bf16
  | 0x0C => some .e4m3 | 0x0D => some .e5m2
  | 0x0E => some .mx8e4 | 0x0F => some .mx8e5
  | 0x12 => some .bx2 | 0x13 => some .bx3 | 0x14 => some .bx4 | 0x15 => some .bx5
  | 0x16 => some .bx6 | 0x17 => some .bx7 | 0x18 => some .bx8
  | 0x20 => some .b8 | 0x21 => some .b16 | 0x22 => some .b32 | 0x23 => some .b64
  | _ => Option.none

/-- Table 3.8: the code of a type. -/
def tyCode (t : Ty) : Nat :=
  match t with
  | .none => 0x00
  | .i8 => 0x01 | .i16 => 0x02 | .i32 => 0x03 | .i64 => 0x04
  | .n8 => 0x05 | .n16 => 0x06 | .n32 => 0x07 | .n64 => 0x08
  | .f32 => 0x09 | .f16 => 0x0A | .bf16 => 0x0B | .e4m3 => 0x0C | .e5m2 => 0x0D
  | .mx8e4 => 0x0E | .mx8e5 => 0x0F
  | .bx2 => 0x12 | .bx3 => 0x13 | .bx4 => 0x14 | .bx5 => 0x15
  | .bx6 => 0x16 | .bx7 => 0x17 | .bx8 => 0x18
  | .b8 => 0x20 | .b16 => 0x21 | .b32 => 0x22 | .b64 => 0x23

/-- Width of one value in bits (Table 4.1). For a BX format it is the mantissa width w. -/
def tyWidth (t : Ty) : Nat :=
  match t with
  | .none => 0
  | .i8 | .n8 | .b8 | .e4m3 | .e5m2 | .mx8e4 | .mx8e5 => 8
  | .i16 | .n16 | .b16 | .f16 | .bf16 => 16
  | .i32 | .n32 | .b32 | .f32 => 32
  | .i64 | .n64 | .b64 => 64
  | .bx2 => 2 | .bx3 => 3 | .bx4 => 4 | .bx5 => 5 | .bx6 => 6 | .bx7 => 7 | .bx8 => 8

def tySigned (t : Ty) : Bool := match t with | .i8 | .i16 | .i32 | .i64 => true | _ => false
def tyUnsigned (t : Ty) : Bool := match t with | .n8 | .n16 | .n32 | .n64 => true | _ => false
def tyBits (t : Ty) : Bool := match t with | .b8 | .b16 | .b32 | .b64 => true | _ => false
def tyInt (t : Ty) : Bool := tySigned t || tyUnsigned t
def tyIntOrBits (t : Ty) : Bool := tyInt t || tyBits t
/-- The floating types vector arithmetic is defined on (Table 4.1). -/
def tyFloat (t : Ty) : Bool := match t with | .f32 | .f16 | .bf16 => true | _ => false
/-- The scalar floating types, storage formats included (R162). -/
def tyFloat5 (t : Ty) : Bool := tyFloat t || t == .e4m3 || t == .e5m2
def tyMx (t : Ty) : Bool := t == .mx8e4 || t == .mx8e5
def tyBx (t : Ty) : Bool :=
  match t with | .bx2 | .bx3 | .bx4 | .bx5 | .bx6 | .bx7 | .bx8 => true | _ => false
/-- Every code of Table 3.8 except 0x00, 0x0E, 0x0F and 0x12–0x18: what MOV, ISEL and LDS accept. -/
def tyMoves (t : Ty) : Bool := tyIntOrBits t || tyFloat5 t
/-- 64-bit types, whose vector operands are even-odd pairs (R70). -/
def ty64 (t : Ty) : Bool := tyWidth t == 64

/-- Container width of a BX format (Table 4.4). -/
def bxContainer (t : Ty) : Nat :=
  match t with | .bx2 => 2 | .bx3 | .bx4 => 4 | _ => 8

/-- Elements of one block (Table 4.4). -/
def bxElems (t : Ty) : Nat := 512 / bxContainer t

end Sys2Proof
end

