-- ==== Sys2Proof/Syntax.lean ====
section
/-! DEFINITION. The instruction set: one constructor for every row of the opcode table. An encoded
instruction carries its guard and its fields (R65, R66); the rows that are steps of a unit other than a
group's issue carry what names that unit and, where the manual leaves a choice to it, the choice. -/

namespace Sys2Proof

/-- Every row of the opcode table, in the table's order. -/
inductive Instr where
  /-- NOP (R127). Changes no state but the PC, whatever its guard fields hold. -/
  | nop (g : Guard) (f : Fields)
  /-- MOV (R119). Copies the (possibly permuted) source to the destination in each active lane, or to a scalar. -/
  | mov (m : Form) (g : Guard) (f : Fields)
  /-- ISEL (R119). Selects A or B per lane by a predicate bit. -/
  | isel (m : Form) (g : Guard) (f : Fields)
  /-- PPACK (R119). Packs eight predicate bits into one byte of a vector register, leaving the other bytes unchanged. -/
  | ppack (g : Guard) (f : Fields)
  /-- PUNPK (R119). Unpacks one byte of a vector register into eight predicate bits. -/
  | punpk (g : Guard) (f : Fields)
  /-- PSET (R119). Writes a predicate from a 4-entry lookup table of two predicates. -/
  | pset (g : Guard) (f : Fields)
  /-- PMOV (R119). Moves the whole predicate word to or from a register. -/
  | pmov (m : Form) (g : Guard) (f : Fields)
  /-- ICMP (R120). Writes a predicate from an integer or bitwise comparison of A and B. -/
  | icmp (m : Form) (g : Guard) (f : Fields)
  /-- AADD (R125). Adds an extended offset to a 57-bit address. -/
  | aadd (m : Form) (g : Guard) (f : Fields)
  /-- ALEA (R125). Adds a scaled extended index to a 57-bit address. -/
  | alea (m : Form) (g : Guard) (f : Fields)
  /-- ACHK (R126). Writes a predicate telling whether an address lies in a region. -/
  | achk (m : Form) (g : Guard) (f : Fields)
  /-- IADD (R121). Integer addition kept to w bits. -/
  | iadd (m : Form) (g : Guard) (f : Fields)
  /-- ISUB (R121). Integer subtraction kept to w bits. -/
  | isub (m : Form) (g : Guard) (f : Fields)
  /-- IMUL (R121). Integer multiplication, low w bits. -/
  | imul (m : Form) (g : Guard) (f : Fields)
  /-- IMULH (R121). Integer multiplication, high w bits. -/
  | imulh (m : Form) (g : Guard) (f : Fields)
  /-- IMULW (R121). Widening integer multiplication to 2w bits. -/
  | imulw (m : Form) (g : Guard) (f : Fields)
  /-- IMAD (R121). Integer multiply-add kept to w bits. -/
  | imad (m : Form) (g : Guard) (f : Fields)
  /-- IDIV (R122). Truncating integer division with defined divide-by-zero result and DZ. -/
  | idiv (m : Form) (g : Guard) (f : Fields)
  /-- IREM (R122). Integer remainder with defined divide-by-zero result and DZ. -/
  | irem (m : Form) (g : Guard) (f : Fields)
  /-- IMIN (R121). Integer minimum. -/
  | imin (m : Form) (g : Guard) (f : Fields)
  /-- IMAX (R121). Integer maximum. -/
  | imax (m : Form) (g : Guard) (f : Fields)
  /-- IABS (R121). Signed integer absolute value. -/
  | iabs (m : Form) (g : Guard) (f : Fields)
  /-- INEG (R121). Integer negation. -/
  | ineg (m : Form) (g : Guard) (f : Fields)
  /-- IADDS (R121). Saturating integer addition, setting SAT when it clamps. -/
  | iadds (m : Form) (g : Guard) (f : Fields)
  /-- ISUBS (R121). Saturating integer subtraction, setting SAT when it clamps. -/
  | isubs (m : Form) (g : Guard) (f : Fields)
  /-- ISAD (R121). Absolute difference plus C. -/
  | isad (m : Form) (g : Guard) (f : Fields)
  /-- IDOT4 (R121). Four-byte dot product accumulated into C. -/
  | idot4 (g : Guard) (f : Fields)
  /-- AND (R123). Bitwise AND. -/
  | and_ (m : Form) (g : Guard) (f : Fields)
  /-- OR (R123). Bitwise OR. -/
  | or_ (m : Form) (g : Guard) (f : Fields)
  /-- XOR (R123). Bitwise XOR. -/
  | xor_ (m : Form) (g : Guard) (f : Fields)
  /-- NOT (R123). Bitwise NOT. -/
  | not_ (m : Form) (g : Guard) (f : Fields)
  /-- ANDN (R123). A AND NOT B. -/
  | andn (m : Form) (g : Guard) (f : Fields)
  /-- SHL (R124). Logical left shift by an 8-bit count. -/
  | shl (m : Form) (g : Guard) (f : Fields)
  /-- SHR (R124). Logical right shift. -/
  | shr (m : Form) (g : Guard) (f : Fields)
  /-- SAR (R124). Arithmetic right shift. -/
  | sar (m : Form) (g : Guard) (f : Fields)
  /-- ROT (R124). Rotate left by count mod w. -/
  | rot (m : Form) (g : Guard) (f : Fields)
  /-- BFX (R124). Bit-field extract, sign-extended for .i types. -/
  | bfx (m : Form) (g : Guard) (f : Fields)
  /-- BFI (R124). Bit-field insert. -/
  | bfi (m : Form) (g : Guard) (f : Fields)
  /-- POPC (R123). Population count. -/
  | popc (m : Form) (g : Guard) (f : Fields)
  /-- CLZ (R123). Count leading zeros. -/
  | clz (m : Form) (g : Guard) (f : Fields)
  /-- CTZ (R123). Count trailing zeros. -/
  | ctz (m : Form) (g : Guard) (f : Fields)
  /-- BREV (R123). Bit reversal. -/
  | brev (m : Form) (g : Guard) (f : Fields)
  /-- BSWAP (R123). Byte swap. -/
  | bswap (m : Form) (g : Guard) (f : Fields)
  /-- FADD (R153). Floating addition rounded once to T. -/
  | fadd (m : Form) (g : Guard) (f : Fields)
  /-- FSUB (R153). Floating subtraction rounded once. -/
  | fsub (m : Form) (g : Guard) (f : Fields)
  /-- FMUL (R153). Floating multiplication rounded once. -/
  | fmul (m : Form) (g : Guard) (f : Fields)
  /-- FFMA (R153). Fused multiply-add A×B+C. -/
  | ffma (m : Form) (g : Guard) (f : Fields)
  /-- FFMS (R153). Fused multiply-subtract A×B−C. -/
  | ffms (m : Form) (g : Guard) (f : Fields)
  /-- FNMA (R153). Fused C−A×B. -/
  | fnma (m : Form) (g : Guard) (f : Fields)
  /-- FMIN (R154). Floating minimum with NaN handling, no rounding or flags. -/
  | fmin (m : Form) (g : Guard) (f : Fields)
  /-- FMAX (R154). Floating maximum with NaN handling. -/
  | fmax (m : Form) (g : Guard) (f : Fields)
  /-- FABS (R155). Clears the sign bit. -/
  | fabs (g : Guard) (f : Fields)
  /-- FNEG (R155). Inverts the sign bit. -/
  | fneg (g : Guard) (f : Fields)
  /-- FCPYS (R155). Copies the sign of B onto A. -/
  | fcpys (g : Guard) (f : Fields)
  /-- FCMP (R156). Writes a predicate from a floating comparison. -/
  | fcmp (m : Form) (g : Guard) (f : Fields)
  /-- FCLASS (R157). Writes a predicate from the class of A against a mask. -/
  | fclass (g : Guard) (f : Fields)
  /-- FRND (R158). Rounds A to an integral value in the chosen mode. -/
  | frnd (g : Guard) (f : Fields)
  /-- FFRAC (R158). Fractional part A − trunc(A). -/
  | ffrac (g : Guard) (f : Fields)
  /-- FSCALE (R153). Multiplies A by 2 to a signed integer power. -/
  | fscale (m : Form) (g : Guard) (f : Fields)
  /-- FDIV (R153). Correctly rounded division. -/
  | fdiv (g : Guard) (f : Fields)
  /-- FSQRT (R153). Correctly rounded square root. -/
  | fsqrt (g : Guard) (f : Fields)
  /-- FRCP (R153). Correctly rounded reciprocal. -/
  | frcp (g : Guard) (f : Fields)
  /-- FRSQ (R160). Approximate reciprocal square root. -/
  | frsq (g : Guard) (f : Fields)
  /-- FEXP2 (R160). Approximate 2^A. -/
  | fexp2 (g : Guard) (f : Fields)
  /-- FLOG2 (R160). Approximate log2 A. -/
  | flog2 (g : Guard) (f : Fields)
  /-- FSIN (R160). Approximate sin of A turns. -/
  | fsin (g : Guard) (f : Fields)
  /-- FCOS (R160). Approximate cos of A turns. -/
  | fcos (g : Guard) (f : Fields)
  /-- FTANH (R160). Approximate tanh. -/
  | ftanh (g : Guard) (f : Fields)
  /-- FSIGM (R160). Approximate logistic sigmoid. -/
  | fsigm (g : Guard) (f : Fields)
  /-- FRELU (R154). Rectified linear unit. -/
  | frelu (g : Guard) (f : Fields)
  /-- FCLMP (R154). Clamps A between B and C. -/
  | fclmp (m : Form) (g : Guard) (f : Fields)
  /-- FMAXA (R154). Maximum by magnitude. -/
  | fmaxa (g : Guard) (f : Fields)
  /-- FLERP (R153). Linear interpolation A + C×(B−A), rounded once. -/
  | flerp (g : Guard) (f : Fields)
  /-- FDOT2 (R153). Two-element 16-bit dot product into an FP32 accumulator. -/
  | fdot2 (g : Guard) (f : Fields)
  /-- FGETE (R159). Extracts the exponent as a signed integer. -/
  | fgete (g : Guard) (f : Fields)
  /-- FGETM (R159). Extracts the mantissa in [1,2). -/
  | fgetm (g : Guard) (f : Fields)
  /-- FCVT (R163). Converts between floating types or between floating and integer. -/
  | fcvt (g : Guard) (f : Fields)
  /-- ICVT (R163). Converts between integer types with saturation. -/
  | icvt (g : Guard) (f : Fields)
  /-- QNT (R165). Quantises a block of register elements into a BX payload and descriptor. -/
  | qnt (g : Guard) (f : Fields)
  /-- DQNT (R165). Decodes a BX payload into register elements. -/
  | dqnt (g : Guard) (f : Fields)
  /-- VSPK (R167). Keeps the n largest-magnitude values of each run of m lanes. -/
  | vspk (g : Guard) (f : Fields)
  /-- SHFL (R169). Lane shuffle with a per-lane register control. -/
  | shfl (g : Guard) (f : Fields)
  /-- SHFLI (R169). Lane shuffle with an immediate control. -/
  | shfli (m : Form) (g : Guard) (f : Fields)
  /-- VRED (R171). Reduces over the active lanes in a fixed tree order. -/
  | vred (g : Guard) (f : Fields)
  /-- VSCAN (R172). Inclusive or exclusive prefix scan across lanes. -/
  | vscan (g : Guard) (f : Fields)
  /-- VSEGS (R173). Segmented prefix scan across lanes. -/
  | vsegs (g : Guard) (f : Fields)
  /-- VBAL (R174). Forms a predicate ballot mask, count or prefix count. -/
  | vbal (g : Guard) (f : Fields)
  /-- VVOTE (R174). Writes one any/all/uniform/equivalent vote to a predicate. -/
  | vvote (g : Guard) (f : Fields)
  /-- VCMPX (R175). One compare-exchange step of a sorting network. -/
  | vcmpx (g : Guard) (f : Fields)
  /-- VMATCH (R176). Finds the first lane holding each value. -/
  | vmatch (g : Guard) (f : Fields)
  /-- VCOMP (R176). Compacts selected values into the lowest active lanes. -/
  | vcomp (g : Guard) (f : Fields)
  /-- XACQ (R205). Requests extended register blocks up to a target, waiting for a grant. -/
  | xacq (m : Form) (g : Guard) (f : Fields)
  /-- XREL (R207). Releases extended register blocks down to a target. -/
  | xrel (m : Form) (g : Guard) (f : Fields)
  /-- WINSET (R208). Sets the extended block count without waiting and reports success in a predicate. -/
  | winset (m : Form) (g : Guard) (f : Fields)
  /-- XQRY (R209). Reads the extended-register state and free pool size. -/
  | xqry (g : Guard) (f : Fields)
  /-- LDS (R199). Loads from the team's scratchpad window. -/
  | lds (g : Guard) (f : Fields)
  /-- STS (R199). Stores to the team's scratchpad window. -/
  | sts (g : Guard) (f : Fields)
  /-- ATS (R203). Scratchpad atomic read-modify-write returning the old value. -/
  | ats (g : Guard) (f : Fields)
  /-- LDSB (R199). Loads k consecutive slot words into k registers. -/
  | ldsb (g : Guard) (f : Fields)
  /-- LDSS (R199). Loads a scalar from the window. -/
  | ldss (g : Guard) (f : Fields)
  /-- STSS (R199). Stores a scalar to the window. -/
  | stss (g : Guard) (f : Fields)
  /-- LDSL (R199). Loads a stack slot. -/
  | ldsl (g : Guard) (f : Fields)
  /-- STSL (R199). Stores a stack slot. -/
  | stsl (g : Guard) (f : Fields)
  /-- LDA (R199). Loads through the on-chip region of the own core, including the register aperture. -/
  | lda (g : Guard) (f : Fields)
  /-- STA (R199). Stores through the on-chip region of the own core. -/
  | sta (g : Guard) (f : Fields)
  /-- ATA (R203). 32-bit atomic through the on-chip region of the own core. -/
  | ata (g : Guard) (f : Fields)
  /-- LDC (R199). Loads from the team's window on another team core. -/
  | ldc (g : Guard) (f : Fields)
  /-- STC (R199). Stores to the team's window on another team core. -/
  | stc (g : Guard) (f : Fields)
  /-- ATC (R203). Atomic on the team's window on a team core. -/
  | atc (g : Guard) (f : Fields)
  /-- MZRO (R262). Collectively zeroes accumulator tiles. -/
  | mzro (g : Guard) (f : Fields)
  /-- MLDB (R263). Collectively loads a B operand into macros, plain, split or pre-added. -/
  | mldb (g : Guard) (f : Fields)
  /-- MMA (R265). Collectively accumulates A·B into tiles in chain or quad shape. -/
  | mma (g : Guard) (f : Fields)
  /-- MMAT (R267). Matrix product with A formed through the transposer. -/
  | mmat (g : Guard) (f : Fields)
  /-- MDRN (R268). Drains a tile to a window image, optionally transposed and zeroing. -/
  | mdrn (g : Guard) (f : Fields)
  /-- MXPOSE (R270). Transposes one image between formats through the transposer. -/
  | mxpose (g : Guard) (f : Fields)
  /-- MQEF (R269). Quantises a gradient tile with error feedback. -/
  | mqef (g : Guard) (f : Fields)
  /-- MSTSH (R272). Puts window bytes into an activation stash entry. -/
  | mstsh (g : Guard) (f : Fields)
  /-- MLDSH (R273). Gets a stash entry into the window, optionally releasing it. -/
  | mldsh (g : Guard) (f : Fields)
  /-- MRDA (R274). Reads tile rows to the window. -/
  | mrda (g : Guard) (f : Fields)
  /-- MWRA (R274). Writes window words into tile rows. -/
  | mwra (g : Guard) (f : Fields)
  /-- MSEQ (R276). Reads the engine sequence number and pending count. -/
  | mseq (g : Guard) (f : Fields)
  /-- MADDT (R275). Elementwise tile addition or subtraction. -/
  | maddt (g : Guard) (f : Fields)
  /-- MSCL (R275). Elementwise tile scaling by an FP32 factor. -/
  | mscl (g : Guard) (f : Fields)
  /-- CPG (R215). Copies device rows into the window or on-chip memory. -/
  | cpg (g : Guard) (f : Fields)
  /-- CPS (R215). Copies window or on-chip rows to device memory. -/
  | cps (g : Guard) (f : Fields)
  /-- CPT (R215). Copies between windows or on-chip memory of cores of the package. -/
  | cpt (g : Guard) (f : Fields)
  /-- CPR (R215). Copies device to device. -/
  | cpr (g : Guard) (f : Fields)
  /-- CPA (R219). Performs one atomic at a device or on-chip target exactly once. -/
  | cpa (g : Guard) (f : Fields)
  /-- CPQ (R218). Converting copy between element formats. -/
  | cpq (g : Guard) (f : Fields)
  /-- CPF (R215). Fills rows with an 8-byte pattern. -/
  | cpf (g : Guard) (f : Fields)
  /-- CPGX (R215). Gathers indexed device rows. -/
  | cpgx (g : Guard) (f : Fields)
  /-- CPSX (R215). Scatters rows to indexed device rows. -/
  | cpsx (g : Guard) (f : Fields)
  /-- CPM (R217). Moves sector descriptors without payload. -/
  | cpm (g : Guard) (f : Fields)
  /-- TEX (R312). Filtered texture sample. -/
  | tex (g : Guard) (f : Fields)
  /-- TEXN (R314). Filters a latent texture and runs the neural material network. -/
  | texn (g : Guard) (f : Fields)
  /-- TXQ (R312). Queries texture level dimensions. -/
  | txq (g : Guard) (f : Fields)
  /-- TEXG (R312). Gathers one channel of four bilinear taps. -/
  | texg (g : Guard) (f : Fields)
  /-- RBOX (R318). Tests a ray against the four child boxes of a BVH4 node. -/
  | rbox (g : Guard) (f : Fields)
  /-- RTRI (R319). Tests a ray against the triangles of a leaf. -/
  | rtri (g : Guard) (f : Fields)
  /-- RPUSH (R321). Pushes a reference onto the short traversal stack, spilling to the ring. -/
  | rpush (g : Guard) (f : Fields)
  /-- RPOP (R321). Pops a reference from the short stack, refilling from the ring. -/
  | rpop (g : Guard) (f : Fields)
  /-- HCFG (R346). Configures a hash-grid slot owned by the team. -/
  | hcfg (g : Guard) (f : Fields)
  /-- HGATH (R348). Hash-grid encoding gather with trilinear interpolation. -/
  | hgath (g : Guard) (f : Fields)
  /-- HSCAT (R349). Scatters weighted gradients into the FP32 shadow table. -/
  | hscat (g : Guard) (f : Fields)
  /-- TSPAWN (R373). Writes a launch record into a queue and advances TAIL. -/
  | tspawn (g : Guard) (f : Fields)
  /-- TRANGE (R373). Enters a range task into a range node's pool. -/
  | trange (g : Guard) (f : Fields)
  /-- TSEND (R373). Sends a record into a graph edge, waiting for a free slot. -/
  | tsend (g : Guard) (f : Fields)
  /-- TDONE (R373). Frees held records of an edge. -/
  | tdone (g : Guard) (f : Fields)
  /-- TRECV (R373). Receives up to n records of an edge into the window. -/
  | trecv (g : Guard) (f : Fields)
  /-- TQRY (R373). Reads an edge's counters. -/
  | tqry (g : Guard) (f : Fields)
  /-- TCLOSE (R373). Closes the team as a producer of an edge. -/
  | tclose (g : Guard) (f : Fields)
  /-- TGRAIN (R373). Claims the next grain of the team's range interval. -/
  | tgrain (g : Guard) (f : Fields)
  /-- NMADD (R440). Delivers row additions to root units at their banks. -/
  | nmadd (g : Guard) (f : Fields)
  /-- NMRED (R444). Pooled lookup: exact sums of bags of table rows into the window. -/
  | nmred (g : Guard) (f : Fields)
  /-- NMSCL (R440). Delivers row scale or scale-and-add updates to root units. -/
  | nmscl (g : Guard) (f : Fields)
  /-- NMOPT (R441). Delivers Adam-style optimiser updates to double-slotted records. -/
  | nmopt (g : Guard) (f : Fields)
  /-- NMFENCE (R445). Fences delivered near-memory updates on covered banks and collects their records. -/
  | nmfence (g : Guard) (f : Fields)
  /-- NMQ (R446). Reports outstanding near-memory work at issue. -/
  | nmq (g : Guard) (f : Fields)
  /-- ARED (R467). Contributes a buffer to an all-reduce generation. -/
  | ared (g : Guard) (f : Fields)
  /-- ARWAIT (R468). Waits for an all-reduce slot to reach a generation. -/
  | arwait (g : Guard) (f : Fields)
  /-- ARCFG (R466). Configures or frees an all-reduce slot in all four units. -/
  | arcfg (g : Guard) (f : Fields)
  /-- ARQRY (R468). Queries an all-reduce slot. -/
  | arqry (g : Guard) (f : Fields)
  /-- BRA (R132). Unconditional branch. -/
  | bra (g : Guard) (f : Fields)
  /-- BRC (R131). Branch on a 64-bit scalar comparison. -/
  | brc (g : Guard) (f : Fields)
  /-- BRANY (R132). Branch if the predicate holds in any active fibre. -/
  | brany (g : Guard) (f : Fields)
  /-- BRALL (R132). Branch if the predicate holds in every active fibre. -/
  | brall (g : Guard) (f : Fields)
  /-- BRNONE (R132). Branch if the predicate holds in no active fibre. -/
  | brnone (g : Guard) (f : Fields)
  /-- BRZ (R133). Per-fibre branch when a value is zero. -/
  | brz (g : Guard) (f : Fields)
  /-- BRNZ (R133). Per-fibre branch when a value is non-zero. -/
  | brnz (g : Guard) (f : Fields)
  /-- LOOP (R132). Decrements a scalar and branches while it is non-zero. -/
  | loop (g : Guard) (f : Fields)
  /-- JMP (R133). Per-fibre indirect jump. -/
  | jmp (g : Guard) (f : Fields)
  /-- JMPT (R133). Jump through a table of lines by index. -/
  | jmpt (g : Guard) (f : Fields)
  /-- CALL (R134). Direct call raising the call level and writing the link. -/
  | call (g : Guard) (f : Fields)
  /-- CALLR (R134). Indirect call. -/
  | callr (g : Guard) (f : Fields)
  /-- RET (R135). Return lowering the call level. -/
  | ret (g : Guard) (f : Fields)
  /-- ENTER (R137). Moves sp down by n frame slots with alignment and limit checks. -/
  | enter (g : Guard) (f : Fields)
  /-- LEAVE (R137). Moves sp up by n frame slots. -/
  | leave (g : Guard) (f : Fields)
  /-- FSPAWN (R139). Creates child fibres at a target in vacant lanes. -/
  | fspawn (g : Guard) (f : Fields)
  /-- FSPAWNR (R139). Creates child fibres at per-fibre register targets. -/
  | fspawnr (g : Guard) (f : Fields)
  /-- FEND (R140). Ends every active fibre. -/
  | fend (g : Guard) (f : Fields)
  /-- YIELD (R141). Defers the issued entry or dissolves the stream batch. -/
  | yield (g : Guard) (f : Fields)
  /-- WAITC (R142). Stalls until the class counters fall to thresholds. -/
  | waitc (g : Guard) (f : Fields)
  /-- PCRD (R136). Writes a PC-relative code address to a scalar. -/
  | pcrd (g : Guard) (f : Fields)
  /-- SRRD (R301). Reads a special register. -/
  | srrd (g : Guard) (f : Fields)
  /-- SRWR (R301). Writes a special register under its access codes. -/
  | srwr (g : Guard) (f : Fields)
  /-- GTCRD (R302). Reads the GTC. -/
  | gtcrd (g : Guard) (f : Fields)
  /-- TRAPI (R302). Raises user trap 0x16. -/
  | trapi (g : Guard) (f : Fields)
  /-- ERET (R294). Returns from a fault handler, replaying, skipping or redirecting the stop. -/
  | eret (g : Guard) (f : Fields)
  /-- EMRET (R77). Returns from the emulation handler. -/
  | emret (g : Guard) (f : Fields)
  /-- BKPT (R302). Raises breakpoint cause 0x50. -/
  | bkpt (g : Guard) (f : Fields)
  /-- IFENCE (R303). Waits for earlier instructions and discards fetched lines. -/
  | ifence (g : Guard) (f : Fields)
  /-- EVLOG (R304). Writes an event-log record with a tag and a scalar. -/
  | evlog (g : Guard) (f : Fields)
  /-- CFLSH (R303). Invalidates the whole line cache. -/
  | cflsh (g : Guard) (f : Fields)
  /-- CINV (R303). Invalidates line-cache lines of an address range. -/
  | cinv (g : Guard) (f : Fields)
  /-- CTXRD (R304). Reads context number, walk count or class budgets. -/
  | ctxrd (g : Guard) (f : Fields)
  /-- BAR (R333). Arrives at a barrier and waits for the phase. -/
  | bar (g : Guard) (f : Fields)
  /-- ARRIVE (R333). Arrives at a barrier and returns the phase in a predicate. -/
  | arrive (g : Guard) (f : Fields)
  /-- WAITB (R333). Waits until the barrier phase differs from a predicate. -/
  | waitb (g : Guard) (f : Fields)
  /-- PSEND_RSV (R339). Reserves the next free pod slot, parking until it is free. -/
  | psendRsv (g : Guard) (f : Fields)
  /-- PSEND_CMT (R339). Commits a reserved pod slot as full. -/
  | psendCmt (g : Guard) (f : Fields)
  /-- PRECV (R339). Receives the oldest full pod slot, parking until it is full. -/
  | precv (g : Guard) (f : Fields)
  /-- PFREE (R339). Frees a held pod slot. -/
  | pfree (g : Guard) (f : Fields)
  /-- PQRY (R341). Reads a pod's counters and heads. -/
  | pqry (g : Guard) (f : Fields)
  /-- MON (R143). Arms a watch on a 64-byte span. -/
  | mon (g : Guard) (f : Fields)
  /-- MWAIT (R145). Parks until the watch triggers or a deadline passes. -/
  | mwait (g : Guard) (f : Fields)
  /-- TRDY (R399). Sets a tile ready flag generation as a release. -/
  | trdy (g : Guard) (f : Fields)
  /-- TWAIT (R400). Waits for a tile ready flag generation as an acquire. -/
  | twait (g : Guard) (f : Fields)
  /-- TCLR (R399). Clears a tile ready flag by a posted write. -/
  | tclr (g : Guard) (f : Fields)
  /-- VPUB (R402). Publishes a version and flips the current slot. -/
  | vpub (g : Guard) (f : Fields)
  /-- VACQ (R403). Acquires the current version slot as reader or waits for the shadow as writer. -/
  | vacq (g : Guard) (f : Fields)
  /-- VREL (R404). Releases a reader's hold on a version slot. -/
  | vrel (g : Guard) (f : Fields)
  /-- FENCE (R397). Waits for earlier accesses and, at wide scope, the posted-write horizon. -/
  | fence (g : Guard) (f : Fields)
  /-- ILLEGAL_INSTRUCTION (R75). Issue of an OP 0xFF word raises cause 0x10. -/
  | illegalInstruction (w : BitVec 96)
  /-- EMULATION_TRAP (R76). Issue of an unassigned or reserved encoding vectors to the emulation handler or raises 0x11. -/
  | emulationTrap (reason : BitVec 2) (w : BitVec 96)
  /-- LINE_REFETCH (R59). A fetch line failing parity is fetched again from the home cache and used or faulted. -/
  | lineRefetch (gid : Nat)
  /-- ENTRY_AGE_DUE (R49). A frontier entry's age reaches 4,096 and it becomes due. -/
  | entryAgeDue (gid : Nat)
  /-- FREE_FIBRE_AGED (R54). A free fibre ready 4,096 cycles without issuing is aged and served first. -/
  | freeFibreAged (gid : Nat)
  /-- STARVATION_BOOST (R363). A group unissued for 65,536 cycles ranks at 63 for its next issue. -/
  | starvationBoost (gid : Nat)
  /-- XACQ_GRANT (R206). A waiting XACQ request is granted from the pool or the reserve. -/
  | xacqGrant (core : Nat)
  /-- CONTAINMENT_WALK (R286). Walks the containment policies from a stop and performs ignore, retry or kill. -/
  | containmentWalk (gid : Nat)
  /-- DEBUG_RESUME (R297). A RESUME write continues a halted group, single-stepping if SS is set. -/
  | debugResume (gid : Nat) (drop : Bool)
  /-- GROUP_RETIRE (R43). A group with no fibres and no pending engine work retires and frees its resources. -/
  | groupRetire (gid : Nat)
  /-- COPY_OPERATION_COMPLETE (R221). A copy operation writes its token and decrements its class counter. -/
  | copyOperationComplete (op : Nat)
  /-- MATRIX_OPERATION_COMPLETE (R238). A matrix operation completes, writing every member's token and flags. -/
  | matrixOperationComplete (op : Nat)
  /-- RENDER_OPERATION_COMPLETE (R307). A render operation writes its result registers, token and counter in one cycle. -/
  | renderOperationComplete (op : Nat)
  /-- HASH_GRID_OPERATION_COMPLETE (R343). A hash-grid operation completes with its results and token. -/
  | hashGridOperationComplete (op : Nat)
  /-- TASK_COMMAND_COMPLETE (R373). A task-system command writes its status word. -/
  | taskCommandComplete (op : Nat)
  /-- TSEND_PERFORM (R373). A waiting TSEND finds a free slot and is performed at the edge. -/
  | tsendPerform (op slot : Nat)
  /-- NEAR_MEMORY_DELIVERY_COMPLETE (R439). An update command's rows are all delivered or refused and its token is written. -/
  | nearMemoryDeliveryComplete (op : Nat)
  /-- ROOT_UNIT_UPDATE (R440). A root unit performs one delivered add or scale row at its bank. -/
  | rootUnitUpdate (bank agent : Nat)
  /-- ROOT_UNIT_OPT_UPDATE (R441). A root unit performs one optimiser record update into the other slot. -/
  | rootUnitOptUpdate (bank agent : Nat)
  /-- NMRED_COMPLETE (R444). All bags are written to the window and the NMRED token is written. -/
  | nmredComplete (op : Nat)
  /-- NMFENCE_COMPLETE (R445). All covered updates are performed and past their GWCT; the fence token is written. -/
  | nmfenceComplete (op : Nat)
  /-- ALLREDUCE_GENERATION_COMPLETE (R467). The last contribution arrives, sums are written to every DST and all tokens are written. -/
  | allreduceGenerationComplete (slot : Nat)
  /-- ARCFG_COMPLETE (R466). ARCFG completes once all four units hold the configuration. -/
  | arcfgComplete (op : Nat)
  /-- SYNC_OPERATION_PERFORM (R331). A barrier or pod operation is performed at the sync state after its group's earlier accesses. -/
  | syncOperationPerform (gid : Nat)
  /-- POSTED_WRITE_PERFORM (R394). A posted write of TRDY, TCLR, VPUB, VACQ or VREL is performed at its home and returns a GWCT. -/
  | postedWritePerform (gid : Nat)
  /-- TWAIT_DEADLINE (R400). The TWAIT deadline passes and it ends with result 1. -/
  | twaitDeadline (gid : Nat)
  /-- MWAIT_DEADLINE (R145). The MWAIT deadline passes with no trigger and it ends with reason 1. -/
  | mwaitDeadline (gid : Nat)
  /-- DEVICE_WRITE_PERFORM (R386). A write is performed at its home slice and returns its global write completion time. -/
  | deviceWritePerform (op : Nat)
  /-- DEVICE_READ_SERVE (R385). A read is served by a leased cache or at the home, which grants a lease. -/
  | deviceReadServe (op : Nat)
  /-- LEASE_EXPIRY (R385). A line-cache lease end passes and the copy stops serving reads. -/
  | leaseExpiry (cache line : Nat)
  /-- PAGE_WALK (R426). A TLB miss is walked by a die walker and the access checked. -/
  | pageWalk (core ctx va : Nat)
  /-- COPY_ON_WRITE (R428). A write to a COW page copies the frame, rewrites the leaf and invalidates. -/
  | copyOnWrite (ctx va : Nat)
  /-- SECTOR_WAIT_RESUME (R419). A write waiting for free sectors is performed once sectors become free. -/
  | sectorWaitResume (die : Nat)
  /-- FREE_FRAME_PUSH (R418). A PUSH write adds an unbacked frame to the copy-on-write pool or is ignored. -/
  | freeFramePush (die la : Nat) (psz pflat : Bool)
  /-- LAUNCH_QUEUE_DOORBELL (R355). A TAIL write advances a launch queue or is ignored with an overrun record. -/
  | launchQueueDoorbell (die queue tail : Nat)
  /-- LAUNCH_RECORD_TAKE (R356). The scheduler reads a queue record, assigns a GSEQ and advances HEAD. -/
  | launchRecordTake (die queue : Nat)
  /-- TEAM_PLACEMENT (R361). The scheduler places a waiting team once room and any tile flag permit. -/
  | teamPlacement (launch cluster cores : Nat)
  /-- GRAPH_START (R364). EN changing to 1 reads and validates the graph tables and starts the graph. -/
  | graphStart (die slot : Nat)
  /-- GRAPH_DEADLINE_EXPIRY (R364). The graph deadline passes and no new team of the graph is placed. -/
  | graphDeadlineExpiry (die slot : Nat)
  /-- NODE_TEAM_LAUNCH (R366). A node's launch condition holds and a team claims records. -/
  | nodeTeamLaunch (die slot node : Nat)
  /-- COALESCE_TIMER_EXPIRY (R366). The oldest full record of a coalescing node waits MAXWM1+1 ticks. -/
  | coalesceTimerExpiry (die slot node : Nat)
  /-- NODE_LAUNCH_HOLDOFF_EXPIRY (R364). 65,536 ticks after a refused node launch the condition is re-evaluated. -/
  | nodeLaunchHoldoffExpiry (die slot node : Nat)
  /-- RANGE_WORK_REQUEST (R370). A core asks a range node for work, launching a pending task or splitting an interval. -/
  | rangeWorkRequest (die slot node : Nat)
  /-- PREEMPT_ORDER (R377). A GO write starts a spatial or whole-context pre-emption order. -/
  | preemptOrder (die : Nat)
  /-- TEAM_RESTORE (R381). A saved team is reloaded, its mailbox replayed and its groups resumed. -/
  | teamRestore (team cluster cores : Nat)
  /-- CLUSTER_CONFIG_WRITE (R326). A FUSE write requests the private or fused cache mode. -/
  | clusterConfigWrite (cluster : Nat) (fuse : Bool)
  /-- CACHE_MODE_SWITCH (R327). With no team resident, the cluster invalidates its caches and switches mode. -/
  | cacheModeSwitch (cluster : Nat)
  /-- CLONE_CONTEXT (R480). Control command cloning a template context's tables into a new context. -/
  | cloneContext
  /-- TRANSLATION_INVALIDATION (R427). Control command invalidating translations of a context range. -/
  | translationInvalidation
  /-- FRAME_RELEASE (R482). Control command returning a frame's lines to unbacked. -/
  | frameRelease
  /-- LINK_RETRAIN_ORDER (R453). Control command retraining a link module to 64 lanes. -/
  | linkRetrainOrder
  /-- DEBUG_WRITE (R479). Control command writing sr.dbg of a resident group. -/
  | debugWrite
  /-- END_GRID (R382). Control command ending a grid with STATUS 2. -/
  | endGrid
  /-- END_CONTEXT (R482). Control command ending a context and freeing its slots. -/
  | endContext
  /-- UNKNOWN_CONTROL_OP (R479). A GO with an unlisted OP ends at once with STATUS 0xFF. -/
  | unknownControlOp
  /-- REGISTER_WRITE (R3). A write to a control-space register without behaviour of its own stores under its access code. -/
  | registerWrite (die offset : Nat) (v : BitVec 64)
  /-- FLIT_RECEIVE (R452). A flit is accepted, discarded as duplicate, or discarded with a NAK. -/
  | flitReceive (die port module : Nat) (crcOk : Bool)
  /-- ACK_RECEIVE (R452). A cumulative ACK frees replay-buffer flits. -/
  | ackReceive (die port module : Nat)
  /-- NAK_RECEIVE (R452). A NAK makes the transmitter resend from the named flit. -/
  | nakReceive (die port module : Nat)
  /-- REPLAY_TIMEOUT (R452). The oldest unacknowledged flit waits 2,000 ticks and the buffer is resent. -/
  | replayTimeout (die port module : Nat)
  /-- CRC_WINDOW_END (R453). A WIN-tick window ends and the CRC failure count clears. -/
  | crcWindowEnd (die port module : Nat)
  /-- RETRAIN_COMPLETE (R453). A module retrain ends, resending its buffer or taking the module down. -/
  | retrainComplete (die port module : Nat) (ok : Bool)
  /-- EXACTLY_ONCE_REQUEST (R456). An exactly-once request arrives at its home and is performed or answered from the filter. -/
  | exactlyOnceRequest (die index : Nat)
  /-- RESPONSE_RECEIVE (R475). A source takes the first response per TSN and discards later ones. -/
  | responseReceive (source index : Nat)
  /-- GTC_SYNC (R459). Every 1,000 ticks a die disciplines its counter from the master. -/
  | gtcSync (die : Nat)
  /-- HOST_ACCESS (R483). A host PCI Express request to BAR0 or BAR2 is served. -/
  | hostAccess (write : Bool) (bar addr : Nat) (v : BitVec 64)
  /-- REMOTE_PACKAGE_REQUEST (R484). A request to another package is routed through a remote window and Oneza Link. -/
  | remotePackageRequest (write : Bool) (pa : Nat) (v : BitVec 64)
  /-- LIMIT_REGISTER_WRITE (R485). A write of PLIM or CLIM, clamped to floor and ceiling. -/
  | limitRegisterWrite (clim : Bool) (v : BitVec 11)
  /-- LIMIT_IN_FORCE (R23). A new limit takes effect within 20,000 ticks. -/
  | limitInForce
  /-- FIRMWARE_KICK (R487). A KICK write restarts the watchdog. -/
  | firmwareKick
  /-- WATCHDOG_EXPIRY (R487). No KICK for 10^9 ticks enters the safe state and restarts the controller. -/
  | watchdogExpiry
  /-- PATROL_SCRUB (R488). The patrol reads a DRAM sector, correcting or logging errors. -/
  | patrolScrub (sector : Nat)
  /-- SPDM_REQUEST (R486). An SPDM request over MCTP is answered with signed measurements. -/
  | spdmRequest (die : Nat)
  /-- PACKAGE_WAKE (R14). The platform controller wakes the package, reloading the GTC before data-plane work. -/
  | packageWake (reference : Nat) (verified : Bool)
  /-- PACKAGE_SLEEP (R25). The package sleeps as one whole. -/
  | packageSleep
  /-- THERMAL_CLOCK_REDUCTION (R489). A die above 100 °C makes the management plane lower CLIM. -/
  | thermalClockReduction (die tj clim : Nat)
  /-- THERMAL_TRIP (R489). At 115 °C hardware removes data-plane power and the package sleeps. -/
  | thermalTrip (die : Nat)
  /-- MWAIT_OTHER_WAKE (R145). A parked MWAIT ends with reason 3 on a wake for a cause other than trigger, deadline or no watch. -/
  | mwaitOtherWake (gid : Nat)
  /-- NETWORK_SLOT_DROP (R316). The sampler drops one of its network slots of its own accord, to reload it at a later TEXN. -/
  | networkSlotDrop (core slot : Nat)
  deriving DecidableEq, Repr, Inhabited

end Sys2Proof
end

