-- ==== Sys2Proof/Machine/Encoding.lean ====
section
/-! DEFINITION. How each instruction uses the fields of its word (R66, R69-R71, R74, and the encoding table of
its chapter): which fields name registers, of which kind, which bits of X are named, and which values are legal.
One `Row` says it for one instruction; well-formedness, the decoder and the issue checks all read it. -/

namespace Sys2Proof

/-- What a register field of a word names. -/
inductive Opnd where
  /-- The field and its pattern are reserved (R69). -/
  | none
  /-- A vector register with pattern 0-14, or a scalar by pattern 15 (Table 3.6); a pair when wide. -/
  | vs (wide : Bool)
  /-- `n` consecutive vector registers with no pattern; `pair` when the first must be even (R70). -/
  | v (n : Nat) (pair : Bool)
  /-- A scalar number in all eight bits; numbers 64 and above do not exist (R70). -/
  | s
  /-- A scalar number in bits [5:0], bits [7:6] reserved. -/
  | s6
  /-- A scalar base that must carry pattern 15 (R196). -/
  | sP
  /-- A predicate index in bits [4:0], bits [7:5] reserved (R115). -/
  | q
  /-- A predicate index in bits [4:0]; bits [7:5] hold a condition (R115). -/
  | qc
  /-- An accumulator tile in bits [2:0], bits [7:3] reserved (Table 3.6). -/
  | tile
  /-- A literal in all eight bits, its pattern reserved. -/
  | lit
  deriving DecidableEq, Repr, Inhabited

/-- How one instruction uses its word. `x` is the mask of the bits of X it names; `ok` says that every used
field holds a legal value; `xr` and `xw` are the further scalars it reads and writes. -/
structure Row where
  d : Opnd := .none
  a : Opnd := .none
  b : Opnd := .none
  c : Opnd := .none
  x : Nat := 0
  ok : Bool := true
  /-- D names a register the instruction reads, not one it writes. -/
  dRead : Bool := false
  /-- B is written as well as read (LOOP). -/
  bWrite : Bool := false
  /-- B or C names a result or the new token, which the instruction does not read. -/
  bOut : Bool := false
  cOut : Bool := false
  /-- The token scalar of an engine operation (R189). -/
  token : Option Nat := Option.none
  xr : List Nat := []
  xw : List Nat := []
  /-- Scalars that a free fibre must name among its own, s48-s63 (R164). -/
  own : List Nat := []
  deriving DecidableEq, Repr, Inhabited

/-- A field of X (Table 3.4). -/
def Fields.xf (f : Fields) (lo n : Nat) : Nat := bitsOf f.x.toNat lo n

/-- The mask of bits `[lo+n-1:lo]`. -/
def maskOf (lo n : Nat) : Nat := (2 ^ n - 1) * 2 ^ lo

/-- The type code field of a register form: X[5:0] in VR and SR, C[56:51] in VI and SI (R114). -/
def formTy (m : Form) (f : Fields) : Option Ty :=
  match m with
  | .vr | .sr => tyOfCode (f.xf 0 6)
  | .vi | .si => tyOfCode (bitsOf f.c.toNat 0 6)

/-- The type of an instruction's form, `none` for a reserved code. -/
def formTyD (m : Form) (f : Fields) : Ty := (formTy m f).getD .none

/-- The type T of a single-form instruction, in X[5:0]. -/
def xTy (f : Fields) : Ty := (tyOfCode (f.xf 0 6)).getD .none
/-- The second type T2, in X[11:6]. -/
def xTy2 (f : Fields) : Ty := (tyOfCode (f.xf 6 6)).getD .none

def Form.isScalar (m : Form) : Bool := match m with | .sr | .si => true | _ => false
def Form.isImm (m : Form) : Bool := match m with | .vi | .si => true | _ => false

/-- R74: the bits of an immediate that must be zero for its type. -/
def immOk (t : Ty) (f : Fields) : Bool :=
  if tyWidth t == 16 then f.xf 16 16 == 0
  else if tyWidth t == 8 then f.xf 8 24 == 0
  else true

/-- A source operand of width `w`: a vector with pattern or scalar in the vector forms, a scalar number else. -/
def srcOpnd (m : Form) (w : Nat) : Opnd := if m.isScalar then .s else .vs (w == 64)

/-- A destination operand of width `w`. -/
def dstOpnd (m : Form) (w : Nat) : Opnd := if m.isScalar then .s else .v (if w == 64 then 2 else 1) (w == 64)

/-- The row of a register-form instruction: `ws` the widths of its sources in order, the last replaced by the
immediate in VI and SI (R74), `xm` the named bits of X beyond T in VR and SR, `ctl` when the immediate is a
control or count that R74 does not narrow. -/
def aluRow (m : Form) (f : Fields) (acc : Ty → Bool) (d : Opnd) (ws : List Nat)
    (xm : Nat := 0) (ok : Bool := true) (ctl : Bool := false) : Row :=
  let t := formTyD m f
  let tok := (formTy m f).isSome && acc t
  let n := if m.isImm then ws.length - 1 else ws.length
  let src := fun i => if i < n then srcOpnd m (ws.getD i 32) else Opnd.none
  if m.isImm then
    { d := d, a := src 0, b := src 1, c := .lit, x := 0xFFFFFFFF
      ok := ok && tok && bitsOf f.c.toNat 6 2 == 0 && (ctl || immOk t f) }
  else
    { d := d, a := src 0, b := src 1, c := src 2, x := maskOf 0 6 + xm, ok := ok && tok }

/-- A target form's line offset, slot and kind (R67). -/
def tgtX (f : Fields) : Bool := f.xf 30 2 < 2 && f.xf 27 3 < 5

/-- The base operand of a target form: a scalar under kind 1, reserved under kind 0 (R130). -/
def tgtBase (f : Fields) : Opnd := if f.xf 30 2 == 1 then .s else .none

/-- The row of a target form. -/
def brRow (f : Fields) (d b c : Opnd) (ok : Bool := true) : Row :=
  { d := d, a := tgtBase f, b := b, c := c, x := 0xFFFFFFFF, ok := tgtX f && ok }

/-- Table 8.3: whether an atomic operation accepts a type. -/
def atomicOk (op : Nat) (t : Ty) : Bool :=
  let i4 := t == .i32 || t == .n32 || t == .i64 || t == .n64
  let bw := i4 || t == .b32 || t == .b64
  match op with
  | 0 => i4 || t == .f32
  | 1 => i4
  | 2 | 3 => i4 || t == .f32
  | 4 | 5 | 6 => bw
  | 7 | 8 => bw || t == .f32
  | 9 | 10 => t == .n32 || t == .n64
  | _ => false

/-- The type field of MS instructions, X[25:20]. -/
def msTy (f : Fields) : Ty := (tyOfCode (f.xf 20 6)).getD .none
def msTyOk (f : Fields) (acc : Ty → Bool) : Bool := (tyOfCode (f.xf 20 6)).isSome && acc (msTy f)

/-- A row of Table 8.1 with a byte offset in X[19:0] and its type. -/
def msRow (f : Fields) (d a b c : Opnd) (acc : Ty → Bool) (xm : Nat := 0) (ok : Bool := true) : Row :=
  { d := d, a := a, b := b, c := c, x := maskOf 0 26 + xm, ok := msTyOk f acc && ok }

/-- The row of an atomic MS instruction (R202). `aw` is the width of its address operand. -/
def atomRow (f : Fields) (wide : Bool) (acc : Ty → Bool) : Row :=
  let t := msTy f
  let o := Opnd.vs (ty64 t)
  { d := dstOpnd .vr (tyWidth t), a := .vs wide, b := if f.xf 26 4 == 8 then o else .none, c := o
    x := maskOf 0 30, ok := msTyOk f acc && atomicOk (f.xf 26 4) t }

/-- The row of a copy command other than CPA (R211). -/
def cpRow (da dir : Bool) (f : Fields) : Row :=
  { d := .s6, a := .s6, token := some (f.d.toNat % 64)
    x := maskOf 0 4 + (if da then maskOf 4 1 else 0) + (if dir then maskOf 5 1 else 0) +
      (if da && f.xf 4 1 == 1 then maskOf 6 19 else 0)
    ok := f.xf 6 1 == 0 && (da || f.xf 4 1 == 0) }

/-- The row of a conversion: destination type T, source type T2 (R162). -/
def cvtRow (f : Fields) (ok : Ty → Ty → Bool) (xm : Nat) : Row :=
  let t := xTy f
  let t2 := xTy2 f
  { d := dstOpnd .vr (tyWidth t), a := .vs (ty64 t2), x := maskOf 0 12 + xm
    ok := (tyOfCode (f.xf 0 6)).isSome && (tyOfCode (f.xf 6 6)).isSome && ok t t2 }

/-- R162: the legal pairs of FCVT. -/
def fcvtOk (t t2 : Ty) : Bool :=
  (tyFloat5 t && tyFloat5 t2 && t != t2) || (tyFloat5 t && tyInt t2) || (tyInt t && tyFloat5 t2)

/-- Table 6.8: the rows of QNT and DQNT. `w` is the group width; S stands in X[17:12]. -/
def qntRow (w : Nat) (f : Fields) (q : Bool) : Row :=
  let bt := if q then xTy f else xTy2 f
  let ft := if q then xTy2 f else xTy f
  let el := bxElems bt / (if w == 0 then 1 else w)
  let pw := (16 + w - 1) / (if w == 0 then 1 else w)
  { d := .v (if q then pw else el) false, a := .v (if q then el else pw) false
    x := maskOf 0 18
    ok := (tyOfCode (f.xf 0 6)).isSome && (tyOfCode (f.xf 6 6)).isSome && tyBx bt && tyFloat ft
    xr := if q then [] else [f.xf 12 6], xw := if q then [f.xf 12 6] else [], own := [f.xf 12 6] }

/-- A single-form vector instruction with T in X[5:0]. -/
def vRow (f : Fields) (acc : Ty → Bool) (d a b c : Opnd) (xm : Nat := 0) (ok : Bool := true) : Row :=
  { d := d, a := a, b := b, c := c, x := maskOf 0 6 + xm
    ok := ok && (tyOfCode (f.xf 0 6)).isSome && acc (xTy f) }

/-- Table 6.10: whether a combining operation accepts a type. -/
def combOk (op : Nat) (t : Ty) : Bool :=
  match op with
  | 0 | 1 | 2 => tyInt t || tyFloat t
  | 3 | 4 | 5 => tyInt t || tyBits t
  | _ => false

/-- A render command's row (R305): the token in D[5:0], patterns reserved; C is the result range, but a source of
RPUSH (Table 12.1). -/
def renderRow (f : Fields) (a b c : Opnd) (x : Nat) (ok : Bool := true) (cOut : Bool := true) : Row :=
  { d := .s6, a := a, b := b, c := c, x := x, ok := ok, token := some (f.d.toNat % 64), cOut := cOut }

/-- An EC command's row: the token in D[5:0] and scalars in [5:0] of A, B and C. -/
def ecRow (f : Fields) (a b c : Opnd) (x : Nat) (ok : Bool := true) : Row :=
  { d := .s6, a := a, b := b, c := c, x := x, ok := ok, token := some (f.d.toNat % 64) }

/-- X[31] of an MX word: C names the token scalar (R255). -/
def mxTk (f : Fields) : Bool := f.xf 31 1 == 1

/-- An MX row (R255): TK in X[31], the token in C. -/
def mxRow (f : Fields) (d a b : Opnd) (x : Nat) (ok : Bool := true) : Row :=
  { d := d, a := a, b := b, c := if mxTk f then .s else .none, x := maskOf 31 1 + x, ok := ok
    token := if mxTk f then some f.c.toNat else Option.none, cOut := mxTk f }

/-- An MX row whose C names a macro has none of these: a macro stands in B[3:0] (R255). -/
def macroOk (f : Fields) : Bool := bitsOf f.b.toNat 4 4 == 0

/-- Table 10.3: the operand types of MLDB and MMA. -/
def mxOpTy (t : Ty) : Bool := tyBx t || t == .e4m3 || t == .e5m2 || t == .bf16
def mxDrnTy (t : Ty) : Bool := tyFloat5 t || (tyBx t && t != .bx2)
def mxposeTy (t : Ty) : Bool :=
  t == .f32 || t == .bf16 || t == .e4m3 || t == .e5m2 || tyMx t || (tyBx t && t != .bx2)

/-- R263: the legal combinations of MLDB. -/
def mldbOk (f : Fields) : Bool :=
  let t := xTy f
  let b := f.b.toNat % 16
  let g := 2 ^ f.xf 7 3
  (tyOfCode (f.xf 0 6)).isSome && mxOpTy t && macroOk f &&
    if f.xf 6 1 == 1 then f.xf 7 3 == 0 && (b == 0 || (b == 8 && t != .bf16))
    else f.xf 7 3 ≤ 4 && b % g == 0 && (t != .bf16 || (g != 16 && b % (2 * g) == 0)) && (t != .bx2 || g != 1)

/-- R264: the legal combinations of MMA and of MMAT's fields. -/
def mmaOk (f : Fields) (quad : Bool) (acc : Ty → Bool) : Bool :=
  let t := xTy f
  let b := f.b.toNat % 16
  let sh := f.xf 6 3
  let g := 2 ^ sh
  let m := f.xf 10 1 == 1
  (tyOfCode (f.xf 0 6)).isSome && acc t && macroOk f && (m || (f.xf 11 1 == 0 && f.xf 16 15 == 0)) &&
    if sh ≤ 4 then
      b % g == 0 && (t != .bf16 || (g ≤ 8 && b % (2 * g) == 0)) && (t != .bx2 || g != 1)
    else
      quad && sh == 5 && !m && (f.d.toNat == 0 || f.d.toNat == 4) &&
        (b == 0 || (b == 8 && (t != .bf16 || f.xf 9 1 == 1)))

/-- Tables 7.7 and 11.4: the special-register numbers that exist. -/
def srKnown (n : Nat) : Bool := n ≤ 0x01E || n == 0x020 || n == 0x021 || n == 0x022 || n == 0x023
/-- sr.lane and sr.slot are read into a vector register (R194). -/
def srFibre (n : Nat) : Bool := n == 0x010 || n == 0x011

/-- A SY word with scalars in [5:0]. -/
def syRow (d a b c : Opnd) (x : Nat) (ok : Bool := true) : Row :=
  { d := d, a := a, b := b, c := c, x := x, ok := ok }

/-- Every instruction's use of its word, for a group of width `w` (the width enters only QNT, DQNT and VSPK).
Rows that are steps of another unit have no word. VVOTE in mode 3 names no qP, and a bit set there is reserved; so are bits
[7:6] of MON's A and of MWAIT's D and A, for which the manual names no scalar field (DESIGN CHOICE, log entry 42). -/
def Instr.row (w : Nat) (i : Instr) : Row :=
  match i with
  -- Table 5.1
  | .nop _ _ => {}
  | .mov m _ f =>
    let t := formTyD m f
    aluRow m f tyMoves (dstOpnd m (tyWidth t)) [tyWidth t]
  | .isel m _ f =>
    let t := formTyD m f
    aluRow m f tyMoves (dstOpnd m (tyWidth t)) [tyWidth t, tyWidth t] (maskOf 12 5)
  | .ppack _ f => vRow f (· == .none) (.v 1 false) .none .none .none (maskOf 12 7) (f.xf 12 5 ≤ 24)
  | .punpk _ f => vRow f (· == .none) .none (.vs false) .none .none (maskOf 12 7) (f.xf 12 5 ≤ 24)
  | .pset _ f => vRow f (· == .none) .q .none .none .none (maskOf 12 14)
  | .pmov m _ f =>
    let dir := f.xf 12 1
    { d := if dir == 0 then dstOpnd m 32 else .none, a := if dir == 1 then srcOpnd m 32 else .none
      x := maskOf 0 6 + maskOf 12 1, ok := f.xf 0 6 == 0x22 && !m.isImm }
  | .icmp m _ f =>
    let t := formTyD m f
    let cnd := bitsOf f.d.toNat 5 3
    aluRow m f tyIntOrBits .qc [tyWidth t, tyWidth t] 0 (!(tyBits t) || cnd ≤ 1 || 6 ≤ cnd)
  | .aadd m _ f =>
    let t := formTyD m f
    aluRow m f (fun t => t == .i32 || t == .n32 || t == .i64 || t == .n64) (dstOpnd m 64) [64, tyWidth t]
  | .alea m _ f =>
    let t := formTyD m f
    aluRow m f (fun t => t == .i32 || t == .n32 || t == .i64 || t == .n64) (dstOpnd m 64) [64, tyWidth t] (maskOf 12 3)
  | .achk m _ f => aluRow m f (· == .n64) .q [64, 64, 64]
  -- Table 5.3
  | .iadd m _ f | .isub m _ f | .imul m _ f | .imulh m _ f | .idiv m _ f | .irem m _ f
  | .imin m _ f | .imax m _ f | .iadds m _ f | .isubs m _ f =>
    let t := formTyD m f
    aluRow m f tyInt (dstOpnd m (tyWidth t)) [tyWidth t, tyWidth t]
  | .imulw m _ f =>
    let t := formTyD m f
    aluRow m f (fun t => tyInt t && !ty64 t) (dstOpnd m (2 * tyWidth t)) [tyWidth t, tyWidth t]
  | .imad m _ f | .isad m _ f =>
    let t := formTyD m f
    aluRow m f tyInt (dstOpnd m (tyWidth t)) [tyWidth t, tyWidth t, tyWidth t]
  | .iabs m _ f =>
    let t := formTyD m f
    aluRow m f tySigned (dstOpnd m (tyWidth t)) [tyWidth t]
  | .ineg m _ f =>
    let t := formTyD m f
    aluRow m f tyInt (dstOpnd m (tyWidth t)) [tyWidth t]
  | .idot4 _ f => vRow f (fun t => t == .i32 || t == .n32) (.v 1 false) (.vs false) (.vs false) (.vs false)
  -- Table 5.5
  | .and_ m _ f | .or_ m _ f | .xor_ m _ f | .andn m _ f =>
    let t := formTyD m f
    aluRow m f tyIntOrBits (dstOpnd m (tyWidth t)) [tyWidth t, tyWidth t]
  | .not_ m _ f | .popc m _ f | .clz m _ f | .ctz m _ f | .brev m _ f =>
    let t := formTyD m f
    aluRow m f tyIntOrBits (dstOpnd m (tyWidth t)) [tyWidth t]
  | .bswap m _ f =>
    let t := formTyD m f
    aluRow m f (fun t => tyIntOrBits t && tyWidth t != 8) (dstOpnd m (tyWidth t)) [tyWidth t]
  | .shl m _ f | .shr m _ f | .sar m _ f | .rot m _ f | .bfx m _ f =>
    let t := formTyD m f
    aluRow m f tyIntOrBits (dstOpnd m (tyWidth t)) [tyWidth t, 32] 0 true true
  | .bfi m _ f =>
    let t := formTyD m f
    aluRow m f tyIntOrBits (dstOpnd m (tyWidth t)) [tyWidth t, tyWidth t, 32] 0 true true
  -- Table 6.2
  | .fadd m _ f | .fsub m _ f | .fmul m _ f | .fmin m _ f | .fmax m _ f =>
    aluRow m f tyFloat (.v 1 false) [32, 32]
  | .ffma m _ f | .ffms m _ f | .fnma m _ f | .fclmp m _ f => aluRow m f tyFloat (.v 1 false) [32, 32, 32]
  | .fabs _ f | .fneg _ f | .ffrac _ f | .fsqrt _ f | .frcp _ f | .frsq _ f | .fexp2 _ f | .flog2 _ f
  | .fsin _ f | .fcos _ f | .ftanh _ f | .fsigm _ f | .frelu _ f | .fgete _ f | .fgetm _ f =>
    vRow f tyFloat (.v 1 false) (.vs false) .none .none
  | .fcpys _ f | .fdiv _ f | .fmaxa _ f => vRow f tyFloat (.v 1 false) (.vs false) (.vs false) .none
  | .fcmp m _ f => aluRow m f tyFloat .qc [32, 32]
  | .fclass _ f => vRow f tyFloat .q (.vs false) .none .none (maskOf 12 9)
  | .frnd _ f => vRow f tyFloat (.v 1 false) (.vs false) .none .none (maskOf 12 2)
  | .fscale m _ f => aluRow m f tyFloat (.v 1 false) [32, 32] 0 true true
  | .flerp _ f => vRow f tyFloat (.v 1 false) (.vs false) (.vs false) (.vs false)
  | .fdot2 _ f =>
    vRow f (· == .f32) (.v 1 false) (.vs false) (.vs false) (.vs false) (maskOf 6 6)
      ((tyOfCode (f.xf 6 6)).isSome && (xTy2 f == .f16 || xTy2 f == .bf16))
  | .fcvt _ f => cvtRow f fcvtOk (if tyInt (xTy f) then maskOf 12 2 else 0)
  | .icvt _ f => cvtRow f (fun t t2 => tyInt t && tyInt t2 && t != t2) 0
  | .qnt _ f => qntRow w f true
  | .dqnt _ f => qntRow w f false
  | .vspk _ f =>
    let m := 4 * 2 ^ f.xf 12 2
    let n := f.xf 14 5
    vRow f tyFloat5 (.v 1 false) (.vs false) .none .none (maskOf 12 13)
      (f.xf 12 2 != 3 && n != 0 && n ≤ m && m ≤ w)
  -- Table 6.9
  | .shfl _ f =>
    vRow f (fun t => t == .b32 || t == .b64) (dstOpnd .vr (tyWidth (xTy f))) (.vs (ty64 (xTy f))) (.vs false) .none
      (maskOf 12 2)
  | .shfli m _ f =>
    let t := formTyD m f
    { d := .v (if ty64 t then 2 else 1) (ty64 t), a := .vs (ty64 t), c := if m.isImm then .lit else .none
      x := maskOf 12 8 + (if m.isImm then 0 else maskOf 0 6)
      ok := (formTy m f).isSome && (t == .b32 || t == .b64) && !m.isScalar &&
        (!m.isImm || bitsOf f.c.toNat 6 2 == 0) }
  | .vred _ f =>
    let t := xTy f
    vRow f (combOk (f.xf 12 4)) (if f.xf 16 1 == 1 then .s6 else dstOpnd .vr (tyWidth t)) (.vs (ty64 t)) .none .none
      (maskOf 12 5)
  | .vscan _ f =>
    let t := xTy f
    vRow f (combOk (f.xf 12 4)) (dstOpnd .vr (tyWidth t)) (.vs (ty64 t)) .none .none (maskOf 12 4 + maskOf 17 1)
  | .vsegs _ f =>
    let t := xTy f
    vRow f (combOk (f.xf 12 4)) (dstOpnd .vr (tyWidth t)) (.vs (ty64 t)) .none .none (maskOf 12 4 + maskOf 18 5)
      (f.xf 12 4 ≤ 2)
  | .vbal _ f =>
    vRow f (· == .none) (if f.xf 12 2 == 2 then .v 1 false else .s6) .none .none .none (maskOf 12 2 + maskOf 18 5)
      (f.xf 12 2 != 3)
  | .vvote _ f =>
    let t := xTy f
    let eqv := f.xf 12 2 == 3
    vRow f (fun t => if eqv then t == .b32 || t == .b64 else t == .none) .q (if eqv then .vs (ty64 t) else .none)
      .none .none (maskOf 12 2 + (if eqv then 0 else maskOf 18 5))
  | .vcmpx _ f =>
    let t := xTy f
    vRow f (fun t => t == .i32 || t == .n32 || t == .i64 || t == .n64 || t == .f32) (dstOpnd .vr (tyWidth t))
      (.vs (ty64 t)) (.vs (ty64 t)) .none (maskOf 12 4 + maskOf 18 5)
      (f.ap == 0 && 2 ≤ f.bp.toNat && f.bp.toNat ≤ 7)
  | .vmatch _ f =>
    let t := xTy f
    vRow f (fun t => t == .b32 || t == .b64) (.v 1 false) (.vs (ty64 t)) .none .none (maskOf 18 5)
  | .vcomp _ f =>
    let t := xTy f
    vRow f (fun t => t == .b32 || t == .b64) (dstOpnd .vr (tyWidth t)) (.vs (ty64 t)) .none .none (maskOf 18 5)
  -- Table 8.4
  | .xacq m _ f | .xrel m _ f | .winset m _ f =>
    let d := match i with | .winset _ _ _ => Opnd.q | _ => .none
    if m.isImm then { d := d, c := .lit, x := 0xFFFFFFFF, ok := f.c == 0 && m == .si }
    else { d := d, a := .s, x := 0, ok := m == .sr }
  | .xqry _ _ => { d := .s }
  -- Table 8.1
  | .lds _ f => let t := msTy f; msRow f (dstOpnd .vr (tyWidth t)) (.vs false) .none .none tyMoves
  | .sts _ f => let t := msTy f; msRow f .none (.vs false) .none (.vs (ty64 t)) tyMoves
  | .ats _ f => atomRow f false (fun _ => true)
  | .ldsb _ f => msRow f (.v (f.xf 26 4 + 1) false) .sP .none .none (· == .b32) (maskOf 26 4)
  | .ldss _ f => msRow f .s6 .sP .none .none tyMoves
  | .stss _ f => msRow f .none .sP .none .sP tyMoves
  | .ldsl _ f =>
    let t := msTy f
    msRow f (dstOpnd .vr (tyWidth t)) .sP .none .none (fun t => t == .b32 || t == .b64) 0 (f.xf 16 4 == 0)
  | .stsl _ f =>
    let t := msTy f
    msRow f .none .sP .none (.vs (ty64 t)) (fun t => t == .b32 || t == .b64) 0 (f.xf 16 4 == 0)
  | .lda _ f => msRow f (.v 1 false) (.vs true) .none .none (fun t => tyMoves t && !ty64 t)
  | .sta _ f => msRow f .none (.vs true) .none (.vs false) (fun t => tyMoves t && !ty64 t)
  | .ata _ f => atomRow f true (fun t => !ty64 t)
  | .ldc _ f => let t := msTy f; msRow f (dstOpnd .vr (tyWidth t)) (.vs false) .none .none tyMoves
  | .stc _ f => let t := msTy f; msRow f .none (.vs false) .none (.vs (ty64 t)) tyMoves
  | .atc _ f => atomRow f false (fun _ => true)
  -- Tables 10.1 and 10.2
  | .mzro _ f => mxRow f .tile .none .none (maskOf 0 3) (f.d.toNat + f.xf 0 3 + 1 ≤ 8)
  | .mldb _ f => mxRow f .none .s .lit (maskOf 0 10) (mldbOk f)
  | .mma _ f => mxRow f .tile .s .lit (maskOf 0 12 + maskOf 16 15) (mmaOk f true mxOpTy)
  | .mmat _ f =>
    mxRow f .tile .s .lit (maskOf 0 12 + maskOf 16 15)
      (mmaOk f false fun t => t == .e4m3 || t == .e5m2 || tyMx t || (tyBx t && t != .bx2))
  | .mdrn _ f =>
    let tr := f.xf 12 1 == 1
    mxRow f .tile .s (if tr then .s else .none) (maskOf 0 14)
      ((tyOfCode (f.xf 0 6)).isSome && mxDrnTy (xTy f) &&
        if tr then (tyOfCode (f.xf 6 6)).isSome && mxDrnTy (xTy2 f) else f.xf 6 6 == 0)
  | .mxpose _ f =>
    mxRow f .none .s .s (maskOf 0 12)
      ((tyOfCode (f.xf 0 6)).isSome && mxposeTy (xTy f) && (tyOfCode (f.xf 6 6)).isSome && mxposeTy (xTy2 f))
  | .mqef _ f =>
    mxRow f .tile .s .s (maskOf 0 8)
      ((tyOfCode (f.xf 0 6)).isSome && (xTy f == .bx8 || xTy f == .e4m3 || xTy f == .e5m2))
  | .mstsh _ f => mxRow f .none .s .none (maskOf 0 20) (mxTk f && f.xf 6 14 != 0 && f.xf 6 14 ≤ 8192)
  | .mldsh _ f => mxRow f .none .s .none (maskOf 0 7) (mxTk f)
  | .mrda _ f | .mwra _ f => mxRow f .tile .s .none (maskOf 0 14) (f.xf 0 7 + f.xf 7 7 + 1 ≤ 128)
  | .mseq _ _ => { d := .s }
  | .maddt _ f => mxRow f .tile .tile .tile (maskOf 0 1)
  | .mscl _ f => mxRow f .tile .tile .s 0
  -- Table 8.7
  | .cpg _ f | .cps _ f | .cpq _ f => cpRow true false f
  | .cpt _ f | .cpr _ f | .cpf _ f | .cpgx _ f | .cpsx _ f => cpRow false false f
  | .cpm _ f => cpRow false true f
  | .cpa _ f =>
    { d := .s6, a := .s6, token := some (f.d.toNat % 64), x := maskOf 0 12
      ok := (tyOfCode (f.xf 6 6)).isSome && atomicOk (f.xf 2 4) (xTy2 f) }
  -- Table 12.1
  | .tex _ f => renderRow f (.v 4 false) .s6 (.v 4 false) (maskOf 0 2) (f.xf 0 2 ≤ 1)
  | .texn _ f => renderRow f (.v 4 false) .s6 (.v 8 false) (maskOf 0 2) (f.xf 0 2 ≤ 1)
  | .txq _ f => renderRow f (.v 1 false) .s6 (.v 4 false) 0
  | .texg _ f => renderRow f (.v 4 false) .s6 (.v 4 false) (maskOf 0 4) (f.xf 0 2 ≤ 1)
  | .rbox _ f => renderRow f (.v 8 false) (.v 2 true) (.v 14 true) 0
  | .rtri _ f => renderRow f (.v 8 false) (.v 2 true) (.v 5 false) (maskOf 0 2) (f.xf 0 2 ≤ 2)
  | .rpush _ f => renderRow f (.v 2 true) (.v 13 false) (.v 1 false) (maskOf 0 22) (f.xf 19 3 ≤ 4) false
  | .rpop _ f => renderRow f .none (.v 13 false) (.v 3 true) (maskOf 0 22) (f.xf 19 3 ≤ 4)
  -- R346, R347
  | .hcfg _ f => ecRow f .s6 .none .none (maskOf 0 4)
  | .hgath _ f => ecRow f (.v 3 false) .none .lit (maskOf 0 12)
  | .hscat _ f => ecRow f (.v 3 false) .lit .none (maskOf 0 12)
  -- Table 15.10
  | .tspawn _ f => ecRow f .s6 .none .none (maskOf 0 10)
  | .trange _ f | .tsend _ f => ecRow f .s6 .none .none (maskOf 0 14)
  | .tdone _ f => ecRow f .none .none .none (maskOf 0 22)
  | .trecv _ f => ecRow f .s6 .none .none (maskOf 0 22)
  | .tqry _ f | .tclose _ f => ecRow f .none .none .none (maskOf 0 14)
  | .tgrain _ f =>
    { ecRow f .none .s6 .s6 0 with xw := [f.b.toNat % 64, f.c.toNat % 64], bOut := true, cOut := true }
  -- Table 18.6
  | .nmadd _ f => ecRow f .s6 .none .none (maskOf 0 3)
  | .nmred _ f => ecRow f .s6 .none .none (maskOf 0 4) (f.xf 2 2 != 3)
  | .nmscl _ f | .nmopt _ f => ecRow f .s6 .none .none (maskOf 0 4)
  | .nmfence _ f =>
    let all := f.xf 2 1 == 1
    ecRow f (if all then .none else .s6) (if all then .none else .s6) .none (maskOf 0 3)
  | .nmq _ f => ecRow f .none .none .none 0
  -- Table 19.6
  | .ared _ f | .arcfg _ f => ecRow f .s6 .none .none (maskOf 0 6)
  | .arwait _ f => ecRow f .none .s6 .none (maskOf 0 6)
  | .arqry _ f => ecRow f .none .none .none (maskOf 0 6)
  -- Table 5.6
  | .bra _ f => brRow f .none .none .none
  | .brc _ f => brRow f .lit .s .s (f.d.toNat ≤ 9)
  | .brany _ f | .brall _ f | .brnone _ f => brRow f .none .q .none
  | .brz _ f | .brnz _ f => brRow f .none (.vs false) .none
  | .loop _ f => { brRow f .none .s .none with bWrite := true }
  | .jmp _ _ => { a := .vs true }
  | .jmpt _ f => brRow f .none (.vs false) .lit
  | .call _ f => brRow f .s .none .none
  | .callr _ _ => { d := .s, a := .vs true }
  | .ret _ _ => { a := .s }
  | .enter _ _ | .leave _ _ => { x := maskOf 0 16, xr := [62], xw := [62] }
  | .fspawn _ f => brRow f .q .none .none
  | .fspawnr _ _ => { d := .q, a := .vs true }
  | .fend _ _ | .yield _ _ => {}
  | .waitc _ _ => { x := 0xFFFFFFFF }
  | .pcrd _ f => { d := .s, x := maskOf 0 30, ok := f.xf 27 3 < 5 }
  -- Table 11.9
  | .srrd _ f =>
    { d := if srFibre (f.xf 0 12) then .v 1 false else .s6, x := maskOf 0 12, ok := srKnown (f.xf 0 12) }
  | .srwr _ f => { a := .s6, x := maskOf 0 12, ok := srKnown (f.xf 0 12) }
  | .gtcrd _ _ => { d := .s6 }
  | .trapi _ _ | .bkpt _ _ => { x := maskOf 0 8 }
  | .eret _ f => { x := maskOf 0 2, ok := f.xf 0 2 ≤ 2 }
  | .emret _ _ | .ifence _ _ | .cflsh _ _ => {}
  | .evlog _ _ => { a := .s6, x := maskOf 0 16 }
  | .cinv _ _ => { a := .s6, b := .s6 }
  | .ctxrd _ f => { d := .s6, x := maskOf 0 8, ok := f.xf 0 8 ≤ 2 }
  -- Tables 14.2, 14.4 and 16.5; R143, R145
  | .bar _ f => syRow .none .none .none .none (maskOf 0 14) (f.xf 4 10 ≤ 768)
  | .arrive _ f => syRow .q .none .none .none (maskOf 0 14) (f.xf 4 10 ≤ 768)
  | .waitb _ _ => syRow .none .none .none .none (maskOf 0 4 + maskOf 14 5)
  | .psendRsv _ _ => syRow .s6 .none .none .none (maskOf 0 4)
  | .psendCmt _ f => syRow .none .s6 .none .none (maskOf 0 5) (f.xf 4 1 == 1)
  | .precv _ _ => syRow .s6 .none .none .none (maskOf 0 4)
  | .pfree _ _ => syRow .none .s6 .none .none (maskOf 0 4)
  | .pqry _ _ => syRow .s6 .none .none .none (maskOf 0 4)
  | .mon _ _ => syRow .none .s6 .none .none 0xFFFFFFFF
  | .mwait _ _ => syRow .s6 .s6 .none .none 0
  | .trdy _ f => syRow .none .s6 .s6 .none (maskOf 0 3) (f.xf 0 3 != 7)
  | .twait _ f => syRow .s6 .s6 .s6 .s6 (maskOf 0 3) (f.xf 0 3 != 7)
  | .tclr _ _ => syRow .none .s6 .none .none 0
  | .vpub _ f => syRow .none .s6 .s6 .none (maskOf 0 3) (f.xf 0 3 != 7)
  | .vacq _ f => syRow .s6 .s6 .none .none (maskOf 0 4) (f.xf 0 3 != 7)
  | .vrel _ f => syRow .s6 .s6 .s6 .none (maskOf 0 3) (f.xf 0 3 != 7)
  | .fence _ f => syRow .none .none .none .none (maskOf 0 3) (f.xf 0 3 != 7)
  -- steps of other units and the fates of words that are no instruction: they have no fields
  | .illegalInstruction _ | .emulationTrap _ _ | .lineRefetch _ | .entryAgeDue _ | .freeFibreAged _
  | .starvationBoost _ | .xacqGrant _ | .containmentWalk _ | .debugResume _ _ | .groupRetire _
  | .copyOperationComplete _ | .matrixOperationComplete _ | .renderOperationComplete _
  | .hashGridOperationComplete _ | .taskCommandComplete _ | .tsendPerform _ _ | .nearMemoryDeliveryComplete _
  | .rootUnitUpdate _ _ | .rootUnitOptUpdate _ _ | .nmredComplete _ | .nmfenceComplete _
  | .allreduceGenerationComplete _ | .arcfgComplete _ | .syncOperationPerform _ | .postedWritePerform _
  | .twaitDeadline _ | .mwaitDeadline _ | .deviceWritePerform _ | .deviceReadServe _ | .leaseExpiry _ _
  | .pageWalk _ _ _ | .copyOnWrite _ _ | .sectorWaitResume _ | .freeFramePush _ _ _ _
  | .launchQueueDoorbell _ _ _ | .launchRecordTake _ _ | .teamPlacement _ _ _ | .graphStart _ _
  | .graphDeadlineExpiry _ _ | .nodeTeamLaunch _ _ _ | .coalesceTimerExpiry _ _ _
  | .nodeLaunchHoldoffExpiry _ _ _ | .rangeWorkRequest _ _ _ | .preemptOrder _ | .teamRestore _ _ _
  | .clusterConfigWrite _ _ | .cacheModeSwitch _ | .cloneContext | .translationInvalidation | .frameRelease
  | .linkRetrainOrder | .debugWrite | .endGrid | .endContext | .unknownControlOp | .registerWrite _ _ _
  | .flitReceive _ _ _ _ | .ackReceive _ _ _ | .nakReceive _ _ _ | .replayTimeout _ _ _ | .crcWindowEnd _ _ _
  | .retrainComplete _ _ _ _ | .exactlyOnceRequest _ _ | .responseReceive _ _ | .gtcSync _ | .hostAccess _ _ _ _
  | .remotePackageRequest _ _ _ | .limitRegisterWrite _ _ | .limitInForce | .firmwareKick | .watchdogExpiry
  | .patrolScrub _ | .spdmRequest _ | .packageWake _ _ | .packageSleep | .thermalClockReduction _ _ _
  | .thermalTrip _ | .mwaitOtherWake _ | .networkSlotDrop _ _ => {}

/-- Table 3.5: the format code of a register form. -/
def Form.code (m : Form) : BitVec 4 := match m with | .vr => 0 | .vi => 1 | .sr => 2 | .si => 3

/-- The format and opcode of an instruction's word, with its guard and fields (Tables 3.10 to 3.16). Rows that
are no instruction word have none. -/
def Instr.parts (i : Instr) : Option (BitVec 4 × BitVec 8 × Guard × Fields) :=
  match i with
  | .nop g f => some (0, 0x00, g, f)
  | .mov m g f => some (m.code, 0x01, g, f)
  | .isel m g f => some (m.code, 0x02, g, f)
  | .ppack g f => some (0, 0x03, g, f)
  | .punpk g f => some (0, 0x04, g, f)
  | .pset g f => some (0, 0x05, g, f)
  | .pmov m g f => some (m.code, 0x06, g, f)
  | .icmp m g f => some (m.code, 0x07, g, f)
  | .aadd m g f => some (m.code, 0x08, g, f)
  | .alea m g f => some (m.code, 0x09, g, f)
  | .achk m g f => some (m.code, 0x0A, g, f)
  | .iadd m g f => some (m.code, 0x10, g, f)
  | .isub m g f => some (m.code, 0x11, g, f)
  | .imul m g f => some (m.code, 0x12, g, f)
  | .imulh m g f => some (m.code, 0x13, g, f)
  | .imulw m g f => some (m.code, 0x14, g, f)
  | .imad m g f => some (m.code, 0x15, g, f)
  | .idiv m g f => some (m.code, 0x16, g, f)
  | .irem m g f => some (m.code, 0x17, g, f)
  | .imin m g f => some (m.code, 0x18, g, f)
  | .imax m g f => some (m.code, 0x19, g, f)
  | .iabs m g f => some (m.code, 0x1A, g, f)
  | .ineg m g f => some (m.code, 0x1B, g, f)
  | .iadds m g f => some (m.code, 0x1C, g, f)
  | .isubs m g f => some (m.code, 0x1D, g, f)
  | .isad m g f => some (m.code, 0x1E, g, f)
  | .idot4 g f => some (0, 0x1F, g, f)
  | .and_ m g f => some (m.code, 0x20, g, f)
  | .or_ m g f => some (m.code, 0x21, g, f)
  | .xor_ m g f => some (m.code, 0x22, g, f)
  | .not_ m g f => some (m.code, 0x23, g, f)
  | .andn m g f => some (m.code, 0x24, g, f)
  | .shl m g f => some (m.code, 0x25, g, f)
  | .shr m g f => some (m.code, 0x26, g, f)
  | .sar m g f => some (m.code, 0x27, g, f)
  | .rot m g f => some (m.code, 0x28, g, f)
  | .bfx m g f => some (m.code, 0x29, g, f)
  | .bfi m g f => some (m.code, 0x2A, g, f)
  | .popc m g f => some (m.code, 0x2B, g, f)
  | .clz m g f => some (m.code, 0x2C, g, f)
  | .ctz m g f => some (m.code, 0x2D, g, f)
  | .brev m g f => some (m.code, 0x2E, g, f)
  | .bswap m g f => some (m.code, 0x2F, g, f)
  | .fadd m g f => some (m.code, 0x30, g, f)
  | .fsub m g f => some (m.code, 0x31, g, f)
  | .fmul m g f => some (m.code, 0x32, g, f)
  | .ffma m g f => some (m.code, 0x33, g, f)
  | .ffms m g f => some (m.code, 0x34, g, f)
  | .fnma m g f => some (m.code, 0x35, g, f)
  | .fmin m g f => some (m.code, 0x36, g, f)
  | .fmax m g f => some (m.code, 0x37, g, f)
  | .fabs g f => some (0, 0x38, g, f)
  | .fneg g f => some (0, 0x39, g, f)
  | .fcpys g f => some (0, 0x3A, g, f)
  | .fcmp m g f => some (m.code, 0x3B, g, f)
  | .fclass g f => some (0, 0x3C, g, f)
  | .frnd g f => some (0, 0x3D, g, f)
  | .ffrac g f => some (0, 0x3E, g, f)
  | .fscale m g f => some (m.code, 0x3F, g, f)
  | .fdiv g f => some (0, 0x40, g, f)
  | .fsqrt g f => some (0, 0x41, g, f)
  | .frcp g f => some (0, 0x42, g, f)
  | .frsq g f => some (0, 0x43, g, f)
  | .fexp2 g f => some (0, 0x44, g, f)
  | .flog2 g f => some (0, 0x45, g, f)
  | .fsin g f => some (0, 0x46, g, f)
  | .fcos g f => some (0, 0x47, g, f)
  | .ftanh g f => some (0, 0x48, g, f)
  | .fsigm g f => some (0, 0x49, g, f)
  | .frelu g f => some (0, 0x4A, g, f)
  | .fclmp m g f => some (m.code, 0x4B, g, f)
  | .fmaxa g f => some (0, 0x4C, g, f)
  | .flerp g f => some (0, 0x4D, g, f)
  | .fdot2 g f => some (0, 0x4E, g, f)
  | .fgete g f => some (0, 0x4F, g, f)
  | .fgetm g f => some (0, 0x50, g, f)
  | .fcvt g f => some (0, 0x51, g, f)
  | .icvt g f => some (0, 0x52, g, f)
  | .qnt g f => some (0, 0x53, g, f)
  | .dqnt g f => some (0, 0x54, g, f)
  | .vspk g f => some (0, 0x55, g, f)
  | .shfl g f => some (0, 0x60, g, f)
  | .shfli m g f => some (m.code, 0x61, g, f)
  | .vred g f => some (0, 0x62, g, f)
  | .vscan g f => some (0, 0x63, g, f)
  | .vsegs g f => some (0, 0x64, g, f)
  | .vbal g f => some (0, 0x65, g, f)
  | .vvote g f => some (0, 0x66, g, f)
  | .vcmpx g f => some (0, 0x67, g, f)
  | .vmatch g f => some (0, 0x68, g, f)
  | .vcomp g f => some (0, 0x69, g, f)
  | .xacq m g f => some (m.code, 0xE0, g, f)
  | .xrel m g f => some (m.code, 0xE1, g, f)
  | .winset m g f => some (m.code, 0xE2, g, f)
  | .xqry g f => some (2, 0xE3, g, f)
  | .lds g f => some (4, 0x00, g, f)
  | .sts g f => some (4, 0x01, g, f)
  | .ats g f => some (4, 0x02, g, f)
  | .ldsb g f => some (4, 0x03, g, f)
  | .ldss g f => some (4, 0x04, g, f)
  | .stss g f => some (4, 0x05, g, f)
  | .ldsl g f => some (4, 0x06, g, f)
  | .stsl g f => some (4, 0x07, g, f)
  | .lda g f => some (4, 0x08, g, f)
  | .sta g f => some (4, 0x09, g, f)
  | .ata g f => some (4, 0x0A, g, f)
  | .ldc g f => some (4, 0x0B, g, f)
  | .stc g f => some (4, 0x0C, g, f)
  | .atc g f => some (4, 0x0D, g, f)
  | .mzro g f => some (7, 0x00, g, f)
  | .mldb g f => some (7, 0x01, g, f)
  | .mma g f => some (7, 0x02, g, f)
  | .mmat g f => some (7, 0x03, g, f)
  | .mdrn g f => some (7, 0x04, g, f)
  | .mxpose g f => some (7, 0x05, g, f)
  | .mqef g f => some (7, 0x06, g, f)
  | .mstsh g f => some (7, 0x07, g, f)
  | .mldsh g f => some (7, 0x08, g, f)
  | .mrda g f => some (7, 0x09, g, f)
  | .mwra g f => some (7, 0x0A, g, f)
  | .mseq g f => some (7, 0x0B, g, f)
  | .maddt g f => some (7, 0x0C, g, f)
  | .mscl g f => some (7, 0x0D, g, f)
  | .cpg g f => some (5, 0x00, g, f)
  | .cps g f => some (5, 0x01, g, f)
  | .cpt g f => some (5, 0x02, g, f)
  | .cpr g f => some (5, 0x03, g, f)
  | .cpa g f => some (5, 0x04, g, f)
  | .cpq g f => some (5, 0x05, g, f)
  | .cpf g f => some (5, 0x06, g, f)
  | .cpgx g f => some (5, 0x07, g, f)
  | .cpsx g f => some (5, 0x08, g, f)
  | .cpm g f => some (5, 0x09, g, f)
  | .tex g f => some (5, 0x10, g, f)
  | .texn g f => some (5, 0x11, g, f)
  | .txq g f => some (5, 0x12, g, f)
  | .texg g f => some (5, 0x13, g, f)
  | .rbox g f => some (5, 0x14, g, f)
  | .rtri g f => some (5, 0x15, g, f)
  | .rpush g f => some (5, 0x16, g, f)
  | .rpop g f => some (5, 0x17, g, f)
  | .hcfg g f => some (5, 0x20, g, f)
  | .hgath g f => some (5, 0x21, g, f)
  | .hscat g f => some (5, 0x22, g, f)
  | .tspawn g f => some (5, 0x30, g, f)
  | .trange g f => some (5, 0x31, g, f)
  | .tsend g f => some (5, 0x32, g, f)
  | .tdone g f => some (5, 0x33, g, f)
  | .trecv g f => some (5, 0x34, g, f)
  | .tqry g f => some (5, 0x35, g, f)
  | .tclose g f => some (5, 0x36, g, f)
  | .tgrain g f => some (5, 0x37, g, f)
  | .nmadd g f => some (5, 0x40, g, f)
  | .nmred g f => some (5, 0x41, g, f)
  | .nmscl g f => some (5, 0x42, g, f)
  | .nmopt g f => some (5, 0x43, g, f)
  | .nmfence g f => some (5, 0x44, g, f)
  | .nmq g f => some (5, 0x45, g, f)
  | .ared g f => some (5, 0x50, g, f)
  | .arwait g f => some (5, 0x51, g, f)
  | .arcfg g f => some (5, 0x52, g, f)
  | .arqry g f => some (5, 0x53, g, f)
  | .bra g f => some (6, 0x00, g, f)
  | .brc g f => some (6, 0x01, g, f)
  | .brany g f => some (6, 0x02, g, f)
  | .brall g f => some (6, 0x03, g, f)
  | .brnone g f => some (6, 0x04, g, f)
  | .brz g f => some (6, 0x05, g, f)
  | .brnz g f => some (6, 0x06, g, f)
  | .loop g f => some (6, 0x07, g, f)
  | .jmp g f => some (6, 0x08, g, f)
  | .jmpt g f => some (6, 0x09, g, f)
  | .call g f => some (6, 0x0A, g, f)
  | .callr g f => some (6, 0x0B, g, f)
  | .ret g f => some (6, 0x0C, g, f)
  | .enter g f => some (6, 0x0D, g, f)
  | .leave g f => some (6, 0x0E, g, f)
  | .fspawn g f => some (6, 0x0F, g, f)
  | .fspawnr g f => some (6, 0x10, g, f)
  | .fend g f => some (6, 0x11, g, f)
  | .yield g f => some (6, 0x12, g, f)
  | .waitc g f => some (6, 0x13, g, f)
  | .pcrd g f => some (6, 0x14, g, f)
  | .srrd g f => some (8, 0x00, g, f)
  | .srwr g f => some (8, 0x01, g, f)
  | .gtcrd g f => some (8, 0x02, g, f)
  | .trapi g f => some (8, 0x03, g, f)
  | .eret g f => some (8, 0x04, g, f)
  | .emret g f => some (8, 0x05, g, f)
  | .bkpt g f => some (8, 0x06, g, f)
  | .ifence g f => some (8, 0x07, g, f)
  | .evlog g f => some (8, 0x08, g, f)
  | .cflsh g f => some (8, 0x09, g, f)
  | .cinv g f => some (8, 0x0A, g, f)
  | .ctxrd g f => some (8, 0x0B, g, f)
  | .bar g f => some (8, 0x10, g, f)
  | .arrive g f => some (8, 0x11, g, f)
  | .waitb g f => some (8, 0x12, g, f)
  | .psendRsv g f => some (8, 0x13, g, f)
  | .psendCmt g f => some (8, 0x13, g, f)
  | .precv g f => some (8, 0x14, g, f)
  | .pfree g f => some (8, 0x15, g, f)
  | .pqry g f => some (8, 0x16, g, f)
  | .mon g f => some (8, 0x17, g, f)
  | .mwait g f => some (8, 0x18, g, f)
  | .trdy g f => some (8, 0x19, g, f)
  | .twait g f => some (8, 0x1A, g, f)
  | .tclr g f => some (8, 0x1B, g, f)
  | .vpub g f => some (8, 0x1C, g, f)
  | .vacq g f => some (8, 0x1D, g, f)
  | .vrel g f => some (8, 0x1E, g, f)
  | .fence g f => some (8, 0x1F, g, f)
  | .illegalInstruction _ | .emulationTrap _ _ | .lineRefetch _ | .entryAgeDue _ | .freeFibreAged _
  | .starvationBoost _ | .xacqGrant _ | .containmentWalk _ | .debugResume _ _ | .groupRetire _
  | .copyOperationComplete _ | .matrixOperationComplete _ | .renderOperationComplete _
  | .hashGridOperationComplete _ | .taskCommandComplete _ | .tsendPerform _ _ | .nearMemoryDeliveryComplete _
  | .rootUnitUpdate _ _ | .rootUnitOptUpdate _ _ | .nmredComplete _ | .nmfenceComplete _
  | .allreduceGenerationComplete _ | .arcfgComplete _ | .syncOperationPerform _ | .postedWritePerform _
  | .twaitDeadline _ | .mwaitDeadline _ | .deviceWritePerform _ | .deviceReadServe _ | .leaseExpiry _ _
  | .pageWalk _ _ _ | .copyOnWrite _ _ | .sectorWaitResume _ | .freeFramePush _ _ _ _
  | .launchQueueDoorbell _ _ _ | .launchRecordTake _ _ | .teamPlacement _ _ _ | .graphStart _ _
  | .graphDeadlineExpiry _ _ | .nodeTeamLaunch _ _ _ | .coalesceTimerExpiry _ _ _
  | .nodeLaunchHoldoffExpiry _ _ _ | .rangeWorkRequest _ _ _ | .preemptOrder _ | .teamRestore _ _ _
  | .clusterConfigWrite _ _ | .cacheModeSwitch _ | .cloneContext | .translationInvalidation | .frameRelease
  | .linkRetrainOrder | .debugWrite | .endGrid | .endContext | .unknownControlOp | .registerWrite _ _ _
  | .flitReceive _ _ _ _ | .ackReceive _ _ _ | .nakReceive _ _ _ | .replayTimeout _ _ _ | .crcWindowEnd _ _ _
  | .retrainComplete _ _ _ _ | .exactlyOnceRequest _ _ | .responseReceive _ _ | .gtcSync _ | .hostAccess _ _ _ _
  | .remotePackageRequest _ _ _ | .limitRegisterWrite _ _ | .limitInForce | .firmwareKick | .watchdogExpiry
  | .patrolScrub _ | .spdmRequest _ | .packageWake _ _ | .packageSleep | .thermalClockReduction _ _ _
  | .thermalTrip _ | .mwaitOtherWake _ | .networkSlotDrop _ _ => none

end Sys2Proof
end

