-- ==== Sys2Proof/WellFormed.lean ====
section
/-! DEFINITION. Well-formed instructions: no reserved bit is set and every used field holds a legal value
(R66-R69, R71); the instruction of a step of another unit names a unit that exists (R3, 01 Table of parts). -/

namespace Sys2Proof

/-- R69: a register field that is not used is zero, and a used one keeps its reserved bits zero. -/
def opndOk (o : Opnd) (reg : BitVec 8) (pat : BitVec 4) : Bool :=
  match o with
  | .none => reg == 0 && pat == 0
  | .vs _ => true
  | .v _ _ | .s | .qc | .lit => pat == 0
  | .s6 => bitsOf reg.toNat 6 2 == 0 && pat == 0
  | .sP => pat == 15
  | .q => bitsOf reg.toNat 5 3 == 0 && pat == 0
  | .tile => bitsOf reg.toNat 3 5 == 0 && pat == 0

/-- R68: with GE = 0, GI and GP are reserved. -/
def guardOk (g : Guard) : Bool := g.ge || (!g.gi && g.gp == 0)

/-- R69: the register fields and X hold nothing their row does not name. -/
def rowOk (r : Row) (f : Fields) : Bool :=
  r.ok && opndOk r.d f.d 0 && opndOk r.a f.a f.ap && opndOk r.b f.b f.bp && opndOk r.c f.c f.cp &&
    f.x.toNat &&& (0xFFFFFFFF - r.x) == 0

/-- R68, R69, R71: the encoding of an instruction is not reserved, for a group of width `w`. In NOP the guard
fields are ignored (R68, R127); in EMRET every field but OP and FMT is zero (R77). -/
def Instr.legal (w : Nat) (i : Instr) (g : Guard) (f : Fields) : Bool :=
  (match i with
    | .nop _ _ => true
    | .emret _ _ => !g.ge && guardOk g
    | _ => guardOk g) && rowOk (i.row w) f

/-- Tables 3.10, 3.11 and 3.16: the register forms a mnemonic has. -/
def Instr.formOk (i : Instr) : Bool :=
  match i with
  | .fadd m _ _ | .fclmp m _ _ | .fcmp m _ _ | .ffma m _ _ | .ffms m _ _ | .fmax m _ _ | .fmin m _ _
  | .fmul m _ _ | .fnma m _ _ | .fscale m _ _ | .fsub m _ _ | .shfli m _ _ => m == .vr || m == .vi
  | .achk m _ _ | .alea m _ _ | .brev m _ _ | .bswap m _ _ | .clz m _ _ | .ctz m _ _ | .iabs m _ _
  | .idiv m _ _ | .imad m _ _ | .imulh m _ _ | .imulw m _ _ | .ineg m _ _ | .irem m _ _ | .isad m _ _
  | .isel m _ _ | .not_ m _ _ | .pmov m _ _ | .popc m _ _ => m == .vr || m == .sr
  | .winset m _ _ | .xacq m _ _ | .xrel m _ _ => m == .sr || m == .si
  | _ => true

/-- The unit a step of another unit names exists: four dies, four modules on each of two neighbour ports, 512
cores and 64 clusters of the package, 1,024 launch queues and 64 graph slots a die, 256 nodes a graph
(01 R8, 15 R353, R364, 19 R450). -/
def Instr.unitOk (i : Instr) : Bool :=
  match i with
  | .xacqGrant core | .networkSlotDrop core _ | .pageWalk core _ _ => core < 512
  | .teamPlacement _ cluster cores | .teamRestore _ cluster cores => cluster < 64 && cores < 256
  | .clusterConfigWrite cluster _ | .cacheModeSwitch cluster => cluster < 64
  | .launchQueueDoorbell die queue _ | .launchRecordTake die queue => die < 4 && queue < 1024
  | .graphStart die slot | .graphDeadlineExpiry die slot => die < 4 && slot < 64
  | .nodeTeamLaunch die slot node | .coalesceTimerExpiry die slot node | .nodeLaunchHoldoffExpiry die slot node
  | .rangeWorkRequest die slot node => die < 4 && slot < 64 && node < 256
  | .flitReceive die port module _ | .retrainComplete die port module _ => die < 4 && port < 2 && module < 4
  | .ackReceive die port module | .nakReceive die port module | .replayTimeout die port module
  | .crcWindowEnd die port module => die < 4 && port < 2 && module < 4
  | .sectorWaitResume die | .preemptOrder die | .gtcSync die | .spdmRequest die | .thermalTrip die => die < 4
  | .thermalClockReduction die _ _ | .exactlyOnceRequest die _ | .registerWrite die _ _
  | .freeFramePush die _ _ _ => die < 4
  | .allreduceGenerationComplete slot => slot < 16
  | .leaseExpiry cache _ => cache < 512
  | .packageWake reference _ => reference < 2 ^ 64
  | .hostAccess _ n _ _ => n == 0 || n == 2 || n == 4
  | _ => true

/-- A well-formed instruction: one the decoder can give (its register form exists and its encoding is legal), or a
step of a unit that exists. The illegal instruction is a word whose OP is 0xFF (R73). -/
def Instr.wf (i : Instr) : Bool :=
  match i with
  | .illegalInstruction w => w.extractLsb' 0 8 == 0xFF
  | _ =>
    i.unitOk && i.formOk &&
      match i.parts with
      | some (_, _, g, f) => i.legal 64 g f
      | none => true

end Sys2Proof
end

