-- ==== Sys2Proof/Decode.lean ====
section
/-! DEFINITION. The decoder of the 96-bit instruction word (R65-R73), total, rejecting by name; then the encoder
from the same tables. -/

namespace Sys2Proof

/-- Why a word is no instruction: the REASON of the emulation trap (Table 3.18, R75 step 6). -/
inductive DecodeErr where
  /-- Unassigned format or opcode (R73). Safe: the step takes the emulation trap with REASON 0. -/
  | unassigned
  /-- Reserved encoding under R67, R69 or R71. Safe: the step takes the emulation trap with REASON 1. -/
  | reserved
  deriving DecidableEq, Repr, Inhabited

/-- The REASON code of a rejected word (Table 3.18). -/
def DecodeErr.reason (e : DecodeErr) : BitVec 2 := match e with | .unassigned => 0 | .reserved => 1

/-- Table 3.4: the guard of a word. -/
def wordGuard (w : Word96) : Guard :=
  { ge := w.getLsbD 12, gi := w.getLsbD 13, gp := w.extractLsb' 14 5 }

/-- Table 3.4: the operand fields of a word. -/
def wordFields (w : Word96) : Fields :=
  { d := w.extractLsb' 19 8, a := w.extractLsb' 27 8, ap := w.extractLsb' 35 4, b := w.extractLsb' 39 8
    bp := w.extractLsb' 47 4, c := w.extractLsb' 51 8, cp := w.extractLsb' 59 4, x := w.extractLsb' 64 32 }

def wordOp (w : Word96) : BitVec 8 := w.extractLsb' 0 8
def wordFmt (w : Word96) : BitVec 4 := w.extractLsb' 8 4

/-- Table 3.10: the VR opcode map. -/
def vrOp (op : Nat) (g : Guard) (f : Fields) : Option Instr :=
  match op with
  | 0x00 => some (.nop g f)
  | 0x01 => some (.mov .vr g f)
  | 0x02 => some (.isel .vr g f)
  | 0x03 => some (.ppack g f)
  | 0x04 => some (.punpk g f)
  | 0x05 => some (.pset g f)
  | 0x06 => some (.pmov .vr g f)
  | 0x07 => some (.icmp .vr g f)
  | 0x08 => some (.aadd .vr g f)
  | 0x09 => some (.alea .vr g f)
  | 0x0A => some (.achk .vr g f)
  | 0x10 => some (.iadd .vr g f)
  | 0x11 => some (.isub .vr g f)
  | 0x12 => some (.imul .vr g f)
  | 0x13 => some (.imulh .vr g f)
  | 0x14 => some (.imulw .vr g f)
  | 0x15 => some (.imad .vr g f)
  | 0x16 => some (.idiv .vr g f)
  | 0x17 => some (.irem .vr g f)
  | 0x18 => some (.imin .vr g f)
  | 0x19 => some (.imax .vr g f)
  | 0x1A => some (.iabs .vr g f)
  | 0x1B => some (.ineg .vr g f)
  | 0x1C => some (.iadds .vr g f)
  | 0x1D => some (.isubs .vr g f)
  | 0x1E => some (.isad .vr g f)
  | 0x1F => some (.idot4 g f)
  | 0x20 => some (.and_ .vr g f)
  | 0x21 => some (.or_ .vr g f)
  | 0x22 => some (.xor_ .vr g f)
  | 0x23 => some (.not_ .vr g f)
  | 0x24 => some (.andn .vr g f)
  | 0x25 => some (.shl .vr g f)
  | 0x26 => some (.shr .vr g f)
  | 0x27 => some (.sar .vr g f)
  | 0x28 => some (.rot .vr g f)
  | 0x29 => some (.bfx .vr g f)
  | 0x2A => some (.bfi .vr g f)
  | 0x2B => some (.popc .vr g f)
  | 0x2C => some (.clz .vr g f)
  | 0x2D => some (.ctz .vr g f)
  | 0x2E => some (.brev .vr g f)
  | 0x2F => some (.bswap .vr g f)
  | 0x30 => some (.fadd .vr g f)
  | 0x31 => some (.fsub .vr g f)
  | 0x32 => some (.fmul .vr g f)
  | 0x33 => some (.ffma .vr g f)
  | 0x34 => some (.ffms .vr g f)
  | 0x35 => some (.fnma .vr g f)
  | 0x36 => some (.fmin .vr g f)
  | 0x37 => some (.fmax .vr g f)
  | 0x38 => some (.fabs g f)
  | 0x39 => some (.fneg g f)
  | 0x3A => some (.fcpys g f)
  | 0x3B => some (.fcmp .vr g f)
  | 0x3C => some (.fclass g f)
  | 0x3D => some (.frnd g f)
  | 0x3E => some (.ffrac g f)
  | 0x3F => some (.fscale .vr g f)
  | 0x40 => some (.fdiv g f)
  | 0x41 => some (.fsqrt g f)
  | 0x42 => some (.frcp g f)
  | 0x43 => some (.frsq g f)
  | 0x44 => some (.fexp2 g f)
  | 0x45 => some (.flog2 g f)
  | 0x46 => some (.fsin g f)
  | 0x47 => some (.fcos g f)
  | 0x48 => some (.ftanh g f)
  | 0x49 => some (.fsigm g f)
  | 0x4A => some (.frelu g f)
  | 0x4B => some (.fclmp .vr g f)
  | 0x4C => some (.fmaxa g f)
  | 0x4D => some (.flerp g f)
  | 0x4E => some (.fdot2 g f)
  | 0x4F => some (.fgete g f)
  | 0x50 => some (.fgetm g f)
  | 0x51 => some (.fcvt g f)
  | 0x52 => some (.icvt g f)
  | 0x53 => some (.qnt g f)
  | 0x54 => some (.dqnt g f)
  | 0x55 => some (.vspk g f)
  | 0x60 => some (.shfl g f)
  | 0x61 => some (.shfli .vr g f)
  | 0x62 => some (.vred g f)
  | 0x63 => some (.vscan g f)
  | 0x64 => some (.vsegs g f)
  | 0x65 => some (.vbal g f)
  | 0x66 => some (.vvote g f)
  | 0x67 => some (.vcmpx g f)
  | 0x68 => some (.vmatch g f)
  | 0x69 => some (.vcomp g f)
  | _ => none

/-- Table 3.16: the VI mnemonics, at their VR opcodes. -/
def viOp (op : Nat) (g : Guard) (f : Fields) : Option Instr :=
  match op with
  | 0x01 => some (.mov .vi g f)
  | 0x07 => some (.icmp .vi g f)
  | 0x08 => some (.aadd .vi g f)
  | 0x10 => some (.iadd .vi g f)
  | 0x11 => some (.isub .vi g f)
  | 0x12 => some (.imul .vi g f)
  | 0x18 => some (.imin .vi g f)
  | 0x19 => some (.imax .vi g f)
  | 0x1C => some (.iadds .vi g f)
  | 0x1D => some (.isubs .vi g f)
  | 0x20 => some (.and_ .vi g f)
  | 0x21 => some (.or_ .vi g f)
  | 0x22 => some (.xor_ .vi g f)
  | 0x24 => some (.andn .vi g f)
  | 0x25 => some (.shl .vi g f)
  | 0x26 => some (.shr .vi g f)
  | 0x27 => some (.sar .vi g f)
  | 0x28 => some (.rot .vi g f)
  | 0x29 => some (.bfx .vi g f)
  | 0x2A => some (.bfi .vi g f)
  | 0x30 => some (.fadd .vi g f)
  | 0x31 => some (.fsub .vi g f)
  | 0x32 => some (.fmul .vi g f)
  | 0x33 => some (.ffma .vi g f)
  | 0x34 => some (.ffms .vi g f)
  | 0x35 => some (.fnma .vi g f)
  | 0x36 => some (.fmin .vi g f)
  | 0x37 => some (.fmax .vi g f)
  | 0x3B => some (.fcmp .vi g f)
  | 0x3F => some (.fscale .vi g f)
  | 0x4B => some (.fclmp .vi g f)
  | 0x61 => some (.shfli .vi g f)
  | _ => none

/-- Table 3.11: the SR opcode map. -/
def srOp (op : Nat) (g : Guard) (f : Fields) : Option Instr :=
  match op with
  | 0x01 => some (.mov .sr g f)
  | 0x02 => some (.isel .sr g f)
  | 0x06 => some (.pmov .sr g f)
  | 0x07 => some (.icmp .sr g f)
  | 0x08 => some (.aadd .sr g f)
  | 0x09 => some (.alea .sr g f)
  | 0x0A => some (.achk .sr g f)
  | 0x10 => some (.iadd .sr g f)
  | 0x11 => some (.isub .sr g f)
  | 0x12 => some (.imul .sr g f)
  | 0x13 => some (.imulh .sr g f)
  | 0x14 => some (.imulw .sr g f)
  | 0x15 => some (.imad .sr g f)
  | 0x16 => some (.idiv .sr g f)
  | 0x17 => some (.irem .sr g f)
  | 0x18 => some (.imin .sr g f)
  | 0x19 => some (.imax .sr g f)
  | 0x1A => some (.iabs .sr g f)
  | 0x1B => some (.ineg .sr g f)
  | 0x1C => some (.iadds .sr g f)
  | 0x1D => some (.isubs .sr g f)
  | 0x1E => some (.isad .sr g f)
  | 0x20 => some (.and_ .sr g f)
  | 0x21 => some (.or_ .sr g f)
  | 0x22 => some (.xor_ .sr g f)
  | 0x23 => some (.not_ .sr g f)
  | 0x24 => some (.andn .sr g f)
  | 0x25 => some (.shl .sr g f)
  | 0x26 => some (.shr .sr g f)
  | 0x27 => some (.sar .sr g f)
  | 0x28 => some (.rot .sr g f)
  | 0x29 => some (.bfx .sr g f)
  | 0x2A => some (.bfi .sr g f)
  | 0x2B => some (.popc .sr g f)
  | 0x2C => some (.clz .sr g f)
  | 0x2D => some (.ctz .sr g f)
  | 0x2E => some (.brev .sr g f)
  | 0x2F => some (.bswap .sr g f)
  | 0xE0 => some (.xacq .sr g f)
  | 0xE1 => some (.xrel .sr g f)
  | 0xE2 => some (.winset .sr g f)
  | 0xE3 => some (.xqry g f)
  | _ => none

/-- Table 3.16: the SI mnemonics, at their opcodes. -/
def siOp (op : Nat) (g : Guard) (f : Fields) : Option Instr :=
  match op with
  | 0x01 => some (.mov .si g f)
  | 0x07 => some (.icmp .si g f)
  | 0x08 => some (.aadd .si g f)
  | 0x10 => some (.iadd .si g f)
  | 0x11 => some (.isub .si g f)
  | 0x12 => some (.imul .si g f)
  | 0x18 => some (.imin .si g f)
  | 0x19 => some (.imax .si g f)
  | 0x1C => some (.iadds .si g f)
  | 0x1D => some (.isubs .si g f)
  | 0x20 => some (.and_ .si g f)
  | 0x21 => some (.or_ .si g f)
  | 0x22 => some (.xor_ .si g f)
  | 0x24 => some (.andn .si g f)
  | 0x25 => some (.shl .si g f)
  | 0x26 => some (.shr .si g f)
  | 0x27 => some (.sar .si g f)
  | 0x28 => some (.rot .si g f)
  | 0x29 => some (.bfx .si g f)
  | 0x2A => some (.bfi .si g f)
  | 0xE0 => some (.xacq .si g f)
  | 0xE1 => some (.xrel .si g f)
  | 0xE2 => some (.winset .si g f)
  | _ => none

/-- Table 3.12: the MS opcode map. -/
def msOp (op : Nat) (g : Guard) (f : Fields) : Option Instr :=
  match op with
  | 0x00 => some (.lds g f)
  | 0x01 => some (.sts g f)
  | 0x02 => some (.ats g f)
  | 0x03 => some (.ldsb g f)
  | 0x04 => some (.ldss g f)
  | 0x05 => some (.stss g f)
  | 0x06 => some (.ldsl g f)
  | 0x07 => some (.stsl g f)
  | 0x08 => some (.lda g f)
  | 0x09 => some (.sta g f)
  | 0x0A => some (.ata g f)
  | 0x0B => some (.ldc g f)
  | 0x0C => some (.stc g f)
  | 0x0D => some (.atc g f)
  | _ => none

/-- Table 3.13: the EC opcode map. -/
def ecOp (op : Nat) (g : Guard) (f : Fields) : Option Instr :=
  match op with
  | 0x00 => some (.cpg g f)
  | 0x01 => some (.cps g f)
  | 0x02 => some (.cpt g f)
  | 0x03 => some (.cpr g f)
  | 0x04 => some (.cpa g f)
  | 0x05 => some (.cpq g f)
  | 0x06 => some (.cpf g f)
  | 0x07 => some (.cpgx g f)
  | 0x08 => some (.cpsx g f)
  | 0x09 => some (.cpm g f)
  | 0x10 => some (.tex g f)
  | 0x11 => some (.texn g f)
  | 0x12 => some (.txq g f)
  | 0x13 => some (.texg g f)
  | 0x14 => some (.rbox g f)
  | 0x15 => some (.rtri g f)
  | 0x16 => some (.rpush g f)
  | 0x17 => some (.rpop g f)
  | 0x20 => some (.hcfg g f)
  | 0x21 => some (.hgath g f)
  | 0x22 => some (.hscat g f)
  | 0x30 => some (.tspawn g f)
  | 0x31 => some (.trange g f)
  | 0x32 => some (.tsend g f)
  | 0x33 => some (.tdone g f)
  | 0x34 => some (.trecv g f)
  | 0x35 => some (.tqry g f)
  | 0x36 => some (.tclose g f)
  | 0x37 => some (.tgrain g f)
  | 0x40 => some (.nmadd g f)
  | 0x41 => some (.nmred g f)
  | 0x42 => some (.nmscl g f)
  | 0x43 => some (.nmopt g f)
  | 0x44 => some (.nmfence g f)
  | 0x45 => some (.nmq g f)
  | 0x50 => some (.ared g f)
  | 0x51 => some (.arwait g f)
  | 0x52 => some (.arcfg g f)
  | 0x53 => some (.arqry g f)
  | _ => none

/-- Table 3.14: the BR opcode map. -/
def brOp (op : Nat) (g : Guard) (f : Fields) : Option Instr :=
  match op with
  | 0x00 => some (.bra g f)
  | 0x01 => some (.brc g f)
  | 0x02 => some (.brany g f)
  | 0x03 => some (.brall g f)
  | 0x04 => some (.brnone g f)
  | 0x05 => some (.brz g f)
  | 0x06 => some (.brnz g f)
  | 0x07 => some (.loop g f)
  | 0x08 => some (.jmp g f)
  | 0x09 => some (.jmpt g f)
  | 0x0A => some (.call g f)
  | 0x0B => some (.callr g f)
  | 0x0C => some (.ret g f)
  | 0x0D => some (.enter g f)
  | 0x0E => some (.leave g f)
  | 0x0F => some (.fspawn g f)
  | 0x10 => some (.fspawnr g f)
  | 0x11 => some (.fend g f)
  | 0x12 => some (.yield g f)
  | 0x13 => some (.waitc g f)
  | 0x14 => some (.pcrd g f)
  | _ => none

/-- Table 3.12: the MX opcode map. -/
def mxOp (op : Nat) (g : Guard) (f : Fields) : Option Instr :=
  match op with
  | 0x00 => some (.mzro g f)
  | 0x01 => some (.mldb g f)
  | 0x02 => some (.mma g f)
  | 0x03 => some (.mmat g f)
  | 0x04 => some (.mdrn g f)
  | 0x05 => some (.mxpose g f)
  | 0x06 => some (.mqef g f)
  | 0x07 => some (.mstsh g f)
  | 0x08 => some (.mldsh g f)
  | 0x09 => some (.mrda g f)
  | 0x0A => some (.mwra g f)
  | 0x0B => some (.mseq g f)
  | 0x0C => some (.maddt g f)
  | 0x0D => some (.mscl g f)
  | _ => none

/-- Table 3.15: the SY opcode map. PSEND has two forms, told apart by X[4] (Table 14.4). -/
def syOp (op : Nat) (g : Guard) (f : Fields) : Option Instr :=
  match op with
  | 0x00 => some (.srrd g f)
  | 0x01 => some (.srwr g f)
  | 0x02 => some (.gtcrd g f)
  | 0x03 => some (.trapi g f)
  | 0x04 => some (.eret g f)
  | 0x05 => some (.emret g f)
  | 0x06 => some (.bkpt g f)
  | 0x07 => some (.ifence g f)
  | 0x08 => some (.evlog g f)
  | 0x09 => some (.cflsh g f)
  | 0x0A => some (.cinv g f)
  | 0x0B => some (.ctxrd g f)
  | 0x10 => some (.bar g f)
  | 0x11 => some (.arrive g f)
  | 0x12 => some (.waitb g f)
  | 0x13 => if f.xf 4 1 == 0 then some (.psendRsv g f) else some (.psendCmt g f)
  | 0x14 => some (.precv g f)
  | 0x15 => some (.pfree g f)
  | 0x16 => some (.pqry g f)
  | 0x17 => some (.mon g f)
  | 0x18 => some (.mwait g f)
  | 0x19 => some (.trdy g f)
  | 0x1A => some (.twait g f)
  | 0x1B => some (.tclr g f)
  | 0x1C => some (.vpub g f)
  | 0x1D => some (.vacq g f)
  | 0x1E => some (.vrel g f)
  | 0x1F => some (.fence g f)
  | _ => none

/-- Table 3.5: the instruction of a format and opcode, its encoding not yet checked. -/
def opcodeInstr (fmt op : Nat) (g : Guard) (f : Fields) : Option Instr :=
  match fmt with
  | 0 => vrOp op g f
  | 1 => viOp op g f
  | 2 => srOp op g f
  | 3 => siOp op g f
  | 4 => msOp op g f
  | 5 => ecOp op g f
  | 6 => brOp op g f
  | 7 => mxOp op g f
  | 8 => syOp op g f
  | _ => none

/-- R73, R75 steps 5 and 6: what a word is. OP 0xFF is the illegal instruction in every format; bit 63 is always
reserved (R69). Which registers exist is a matter of the group that issues it, checked at issue (R70). -/
def decode (w : Word96) : Except DecodeErr Instr :=
  if wordOp w == 0xFF then .ok (.illegalInstruction w)
  else
    match opcodeInstr (wordFmt w).toNat (wordOp w).toNat (wordGuard w) (wordFields w) with
    | none => .error .unassigned
    | some i =>
      if !w.getLsbD 63 && i.legal 64 (wordGuard w) (wordFields w) then .ok i else .error .reserved

/-- Table 3.4: the word of a format, opcode, guard and fields; bit 63 is 0. -/
def packWord (fmt : BitVec 4) (op : BitVec 8) (g : Guard) (f : Fields) : Word96 :=
  f.x ++ 0#1 ++ f.cp ++ f.c ++ f.bp ++ f.b ++ f.ap ++ f.a ++ f.d ++ g.gp ++ BitVec.ofBool g.gi ++
    BitVec.ofBool g.ge ++ fmt ++ op

/-- The word of an instruction (R65, R66). The illegal instruction keeps its own word. -/
def encode (i : Instr) : Option Word96 :=
  match i with
  | .illegalInstruction w => some w
  | _ => i.parts.map fun (fmt, op, g, f) => packWord fmt op g f

/-- The instruction the decoder reads from a word numbered as the opcode table numbers it. -/
def decodeTableWord (nbits w : Nat) : Option Instr :=
  if nbits ≤ 96 then
    match decode (BitVec.ofNat 96 w) with
    | .ok i => some i
    | .error _ => none
  else none

end Sys2Proof
end

