-- ==== Sys2Proof/Config.lean ====
section
/-! DEFINITION. What the manual leaves open, as constants without a body: nothing can be proved of their values
(log entries 1, 2 and 7 to 12). Each is applied to the model's counter of free values, or to the operands it
depends on. -/

namespace Sys2Proof.Config

/-- Core cycles that pass in a step (log entry 1). -/
opaque cycles : Nat → Nat
/-- GTC ticks that pass in a step (log entry 1). -/
opaque ticks : Nat → Nat
/-- A free natural number: a choice the manual leaves to a unit (log entry 8). -/
opaque choice : Nat → Nat
/-- A free 32-bit value. -/
opaque word : Nat → Word
/-- What a lane-register of a re-acquired extended block holds until written: epoch, slot, register (R29). -/
opaque staleReg : Nat → Nat → Nat → Word
/-- A byte of memory outside the package that nothing has written: address (21 R483, R484). -/
opaque outsideByte : Nat → Byte
/-- The delivered value of an approximated function of Table 6.6 for an operand it does not list, where it is within
the table's bound: function, type code, operand bits. One operand pattern has one value (R161). -/
opaque approx : Nat → Nat → Nat → Nat
/-- Which entry of a 64 KiB page whose entries disagree translates an access: counter, context, address (R425). -/
opaque entry64 : Nat → Nat → Nat → Nat
/-- The stack of its die (bit 0) and the bank at which the control plane places a flat frame: counter, and the frame's
number LA / 65,536 (R420). -/
opaque frameBank : Nat → Nat → Nat
/-- The fused security version of Table 21.6. -/
opaque fusedSvn : BitVec 32

end Sys2Proof.Config
end

