-- ==== Sys2Proof/Machine/State.lean ====
section
/-! DEFINITION. The machine's state as plain data: everything the spec gives the package, with the value of each
after package reset. Tables are keyed by number: a group, team, launch or operation by the order in which it came
to be, a core by 128d + 8c + k, a cluster by 16d + c, a line or sector of local memory by its logical address. -/

namespace Sys2Proof.Machine

/-- Why the machine stops. -/
inductive Fault where
  /-- An instruction word's meaning was asked for with no group issuing it. The model's own: no step of the
  machine reaches it. Safe. -/
  | noIssuer
  deriving DecidableEq, Repr, Inhabited

/-- Why a meaning is not given. -/
inductive Refusal where
  /-- The instruction has no meaning in the model yet. Safe. -/
  | notModelled (mnemonic : String)
  deriving DecidableEq, Repr, Inhabited

/-- An error in the bits of an SRAM word (R187): one bit, at a position of its code word, which is corrected when
the word is read; or two, which cannot be corrected. -/
inductive SramError where
  | corrected (bit : Nat)
  | uncorrectable
  deriving DecidableEq, Repr, Inhabited

/-- One lane of a group: the fibre state of Table 2.1 other than PC and call level, which its frontier entry
holds, and its lane-registers. Registers not listed in `regs` read zero below v64 (Table 2.5). -/
structure Lane where
  /-- The lane holds a fibre (R30). -/
  live : Bool := true
  /-- The predicate word q0-q31. -/
  preds : Word := 0
  /-- The window base, in units of eight lane-registers (Table 2.1, R178). -/
  wbase : BitVec 13 := 0
  regs : Tab Word := []
  /-- Lane-registers whose stored bits are in error (R187). -/
  bad : Tab SramError := []
  deriving DecidableEq, Repr, Inhabited

/-- A frontier entry (R44): its fibres wait at one PC and level. `deferred` is YIELD's mark (R141), `due` the mark
of the age rule (R49). -/
structure Entry where
  pc : BitVec 57
  level : BitVec 12 := 0
  lanes : List Nat
  age : Nat := 0
  deferred : Bool := false
  due : Bool := false
  deriving DecidableEq, Repr, Inhabited

/-- A stop whose walk has not ended (R281): the entry that stopped, and where. -/
structure Stop where
  code : Nat
  sub : Nat := 0
  async : Bool := false
  pair : Bool := false
  pc : BitVec 57
  level : BitVec 12 := 0
  lanes : List Nat := []
  eaddr : BitVec 57 := 0
  /-- The stop halted the group for the debugger (R297). -/
  halted : Bool := false
  /-- GTC of the stop (R289). -/
  stamp : Nat := 0
  deriving DecidableEq, Repr, Inhabited

/-- What a fault handler returns to (R290): the frontier, every fibre's predicates, and the stop entry. -/
structure Shadow where
  frontier : List Entry
  preds : List (Nat × Word)
  stop : Stop
  deriving DecidableEq, Repr, Inhabited

/-- Where one fibre goes after its issue (R46). -/
structure Move where
  lane : Nat
  pc : BitVec 57
  level : BitVec 12
  deriving DecidableEq, Repr, Inhabited

/-- What a parked or suspended group or free fibre waits for. -/
inductive Wait where
  /-- XACQ to `n` blocks, since a cycle (R205). -/
  | xacq (n since : Nat)
  /-- A barrier or pod operation not yet performed at the synchronisation unit (R331). -/
  | syncOp (i : Instr) (scalar : Word64)
  /-- A phase of a barrier (R333). -/
  | barrier (index : Nat) (phase : Bool)
  /-- A pod slot: `recv` waits for a full one, otherwise for a free one; the result goes to `dst` (R339). -/
  | pod (index : Nat) (recv : Bool) (dst : Nat)
  /-- MWAIT until a deadline (R145). -/
  | mwait (deadline dst : Nat)
  /-- TWAIT on a flag, at its address as translated at issue (R400). -/
  | twait (va pa target deadline dst : Nat)
  /-- A posted write of TRDY, TCLR, VPUB, VACQ or VREL not yet performed (R394, R396). -/
  | posted (i : Instr) (va value dst : Nat)
  /-- A collective whose other members have not arrived (R236); `sig` is the word and scalars compared. -/
  | collective (i : Instr) (sig : List Nat)
  deriving DecidableEq, Repr, Inhabited

/-- A wait with what ends it: the moves its issue made, committed when the wait ends. -/
structure Parked where
  wait : Wait
  pc : BitVec 57
  level : BitVec 12
  moves : List Move
  /-- The children of a pair's FSPAWN (02 R42), which arrive when the wait ends; whether the issue is a pair's (03 R62). -/
  kids : List Move := []
  pair : Bool := false
  /-- The pages its checks passed with, each with its entry (18 R427), and its requests' deadlines by class (R396). -/
  passed : List (Nat × Nat) := []
  deadlines : List (Option Nat) := []
  /-- Since when its posted write waits in its home slice's queue, the queue, and its class (18 R414). -/
  queued : Option (Nat × Nat × Nat) := none
  deriving DecidableEq, Repr, Inhabited

/-- A watch armed by MON (R143): on a sector of local memory, of a core's scratchpad, or of another package. -/
structure Watch where
  /-- The core whose scratchpad is watched; none for device memory. -/
  core : Option Nat
  /-- The 64-byte span's number: physical address / 64, or scratchpad byte / 64. -/
  span : Nat
  /-- GTC at which it triggered. -/
  triggered : Option Nat := none
  deriving DecidableEq, Repr, Inhabited

/-- The special registers and counters that a group owns, and that a stream team owns for its fibres (R52). -/
structure Shared where
  /-- sr.flags (Table 4.7). -/
  flags : BitVec 7 := 0
  /-- The class counters ld, st, cp, tl (R192). -/
  ld : Nat := 0
  st : Nat := 0
  cp : Nat := 0
  tl : Nat := 0
  /-- sr.stklim.LIMIT (Table 5.8). -/
  stklim : BitVec 19 := 0
  /-- sr.ufh (Table 11.5). -/
  ufh : BitVec 57 := 0
  /-- sr.cpol (Table 11.6). -/
  cpol : BitVec 57 := 0
  /-- sr.dbg: EN, SS, FRZ, CATCH, BPE0, BPE1 (Table 11.8); HALT is kept by each group. -/
  dbg : BitVec 6 := 0
  bpa0 : BitVec 57 := 0
  bpa1 : BitVec 57 := 0
  deriving DecidableEq, Repr, Inhabited

/-- A failing status word not yet joined (R191): the token it stands in, the cause it raises. -/
structure Unjoined where
  token : Nat
  cause : Nat
  /-- The class counter of its operation: 0 ld, 1 st, 2 cp, 3 tl. -/
  cls : Nat
  /-- The scalar was written since: reading it is no longer a read of the token. -/
  gone : Bool := false
  /-- The operation, by the order of acceptance (R193). -/
  op : Nat := 0
  deriving DecidableEq, Repr, Inhabited

/-- A group of a grouped kernel, or one free fibre of a stream kernel (R31, R52), which is kept as a group of one
lane. -/
structure Group where
  team : Nat
  role : Nat := 0
  /-- sr.grp (R38). -/
  num : Nat := 0
  core : Nat := 0
  /-- W (R30); 1 for a free fibre. -/
  width : Nat := 1
  /-- The fibre slot of lane 0 (R180). -/
  slot0 : Nat := 0
  lanes : List Lane := []
  /-- Group scalars s0-s63; those not listed are zero (R41). -/
  scalars : Tab Word64 := []
  frontier : List Entry := []
  /-- The epoch of each held extended block, and whether it came from the team's reserve; its length is h (R29, R205,
  R206). Epoch 0 is a block that was cleared when it was granted (07 R179). -/
  ext : List (Nat × Bool) := []
  /-- Where each of them begins in the register file, in units of eight lane-registers (07 R178). -/
  extAt : List Nat := []
  /-- The group is its team's reserve holder (R206). -/
  holder : Bool := false
  shared : Shared := {}
  /-- sr.cause (Table 11.1). -/
  cause : BitVec 36 := 0
  epc : BitVec 57 := 0
  eaddr : BitVec 57 := 0
  /-- The emulation registers (Tables 3.18 to 3.21). -/
  uemu : BitVec 57 := 0
  emret : BitVec 57 := 0
  emop : BitVec 32 := 0
  emd : BitVec 8 := 0
  ema : BitVec 12 := 0
  emb : BitVec 12 := 0
  emc : BitVec 12 := 0
  emx : BitVec 32 := 0
  shadow : Option Shadow := none
  stop : Option Stop := none
  /-- HALT of sr.dbg (Table 11.8). -/
  halt : Bool := false
  /-- The debugger resumed it with SS = 1: one issue, then 0x52 (R298). -/
  stepping : Bool := false
  /-- It stopped with 0x52 in this step, and PAIR is not yet looked up (Table 11.1). -/
  pairOwed : Bool := false
  /-- The first issue after a resume is not tested against the breakpoints (R296). -/
  resumed : Bool := false
  /-- The next issue is a fibre's first, at its ENTRY, a checked transfer (R61). -/
  entering : Bool := false
  /-- A fetched line failed parity and awaits its one refetch (R59). -/
  refetch : Option (BitVec 57) := none
  parked : Option Parked := none
  watch : Option Watch := none
  /-- Scalars whose token is pending (R189). -/
  pending : List Nat := []
  unjoined : List Unjoined := []
  /-- The order of acceptance at which the WAITC that stalls was issued: it covers what was accepted before (R193). -/
  waitcAt : Option Nat := none
  /-- Lane-registers of a free fibre's s48-s63 whose stored bits are in error, by 2 * number + half (R52, R187). -/
  badScal : Tab SramError := []
  /-- The horizon H (R394). -/
  horizon : Nat := 0
  /-- The core cycle by which its core accesses so far have been performed at their banks (R200, R334). -/
  accessBy : Nat := 0
  /-- sp0 of a stream fibre slot (R137). -/
  sp0 : Word64 := 0
  /-- The frontier spill area (R48): first byte, counted from where its team's run lies outside the window, and length. -/
  spill : Nat × Nat := (0, 0)
  /-- PC of the last instruction issued (R191). -/
  lastPc : BitVec 57 := 0
  /-- Core cycle of the last issue, and from when the group or fibre is ready (R54, R363). -/
  lastIssue : Nat := 0
  readySince : Nat := 0
  /-- Its last turn stalled, and nothing has happened since (R189, R210). -/
  blocked : Bool := false
  /-- The fibre is aged (R54). -/
  aged : Bool := false
  /-- The group ranks at 63 for its next issue (R363). -/
  boosted : Bool := false
  retired : Bool := false
  deriving DecidableEq, Repr, Inhabited

/-- A role descriptor (Table 2.3). -/
structure Role where
  width : Nat
  nb : Nat
  extmax : Nat := 0
  groups : Nat := 1
  grant : BitVec 9 := 0
  entry : BitVec 57 := 0
  deriving DecidableEq, Repr, Inhabited

/-- A barrier (R333): phase bit PH, arrival count CNT, latched target TGT. -/
structure Barrier where
  ph : Bool := false
  cnt : Nat := 0
  tgt : Nat := 0
  deriving DecidableEq, Repr, Inhabited

/-- The state of a pod slot (R337). -/
inductive SlotState where
  | free | reserved | full | held
  deriving DecidableEq, Repr, Inhabited

/-- A pod (R336, R337), with the phase recorded at each slot's reservation, and the groups parked on it, oldest
first. -/
structure Pod where
  count : Nat
  bytes : Nat
  home : Nat
  base : Nat
  slots : List SlotState
  fph : List Bool
  whead : Nat := 0
  rhead : Nat := 0
  wph : Bool := false
  rph : Bool := false
  waiting : List Nat := []
  deriving DecidableEq, Repr, Inhabited

/-- A hash-grid configuration slot owned by a team (R344): its descriptor as a number, and how many HCFGs that write it
are pending (R346). -/
structure HashSlot where
  desc : Nat
  pending : Nat := 0
  deriving DecidableEq, Repr, Inhabited

/-- What a macro holds (Table 9.2). -/
inductive Tag where
  | zero
  | raw (w : Nat)
  | hi
  | lo
  | rc (c w : Nat)
  | rcHi (c : Nat)
  | rcLo (c : Nat)
  deriving DecidableEq, Repr, Inhabited

/-- An entry of the activation stash (10 R271). -/
structure StashEntry where
  base : Nat
  size : Nat
  deriving DecidableEq, Repr, Inhabited

/-- A core's matrix engine (Table 9.1): tile elements by 16,384 * tile + 128i + j, macro cells by
16,384 * macro + 128k + j, scale bytes by 256 * macro + 2j + block; those not listed are zero. `tags` are those
left by every accepted operation (R228). -/
structure Marrow where
  owner : Option Nat := none
  tiles : Tab Word := []
  cells : Tab (BitVec 9) := []
  scales : Tab Byte := []
  tags : Tab Tag := []
  seq : BitVec 32 := 0
  /-- A member retired or was ended (R237). -/
  missing : Bool := false
  /-- Tile elements, cells and scale bytes in error, by 2^20 * unit + index (R229, Table 19.10). -/
  bad : Tab SramError := []
  /-- Live stash entries by ID, and the bytes of the stash region that are not zero. -/
  stash : Tab StashEntry := []
  stashMem : List Host.Cell := []
  /-- Stash bytes set aside for the owner (Table 15.3). -/
  stashSize : Nat := 0
  deriving DecidableEq, Repr, Inhabited

/-- A team (R35-R40). Lists run over its cores in team-core order. -/
structure Team where
  launch : Nat
  ctx : Nat
  /-- The team's index in its grid (R361). -/
  index : Nat := 0
  x : BitVec 32 := 0
  y : BitVec 32 := 0
  z : BitVec 32 := 0
  cores : List Nat := []
  stream : Bool := false
  roles : List Role := []
  /-- Scratchpad window of the team on each core (R185): base and size in bytes. -/
  sbase : List Nat := []
  ssize : List Nat := []
  /-- The team's scratchpad run on each core (R360): first byte and length. -/
  srun : List (Nat × Nat) := []
  /-- First fibre slot and number of slots on each core (R180). -/
  slot0 : List Nat := []
  slots : List Nat := []
  /-- What a stream team owns for its fibres (R52), and the batch that each issue slot of the core keeps: the fibre of
  each lane (R53). -/
  shared : Shared := {}
  batches : Tab (List (Option Nat)) := []
  /-- The sizes of the base allocation and of the reserve on each core, in lane-registers (R39). -/
  regBase : List Nat := []
  reserve : List Nat := []
  /-- Effective launch priority, and GTC at the first placement (R363). -/
  prio : Nat := 0
  placed : Nat := 0
  barriers : Tab Barrier := []
  pods : List Pod := []
  /-- Barriers (0-15), pods (16-31) and slot ownerships (32-47) whose sync state is in error (R187, R330). -/
  syncBad : Tab SramError := []
  /-- The last barrier or pod operation performed: its core cycle, and its place in the order of one cycle, team core and
  fibre slot (R331). -/
  lastSync : Nat × Nat × Nat := (0, 0, 0)
  hslots : Tab HashSlot := []
  /-- The largest horizon of the fibres whose slots FSPAWN has refilled (16 R394). -/
  horizon : Nat := 0
  /-- The graph node the team is a team of: graph slot and node of its die (R364). -/
  node : Option (Nat × Nat) := none
  /-- Edges (graph slot, edge) the team has closed (R373), and over edges it is descheduled for (R369). -/
  closed : List (Nat × Nat) := []
  descheduled : List (Nat × Nat) := []
  /-- The interval of a range team: cur, end, GRAIN, and its task (R370, R371). -/
  interval : Option (Nat × Nat × Nat) := none
  task : Option Nat := none
  /-- A pre-emption order stops the team (Table 15.13). -/
  stopping : Bool := false
  /-- The team is saved: its groups stay listed, on no core (R378). Its engines' state, and the window bytes of
  each core. -/
  out : Bool := false
  marrows : List Marrow := []
  windows : List (List Host.Cell) := []
  /-- Operations performed at its sync state while it was out, in entry order (R378 step 2). -/
  mailbox : List Nat := []
  savedBytes : Nat := 0
  /-- Switched out by a KIND 1 order, and its context's EN has not been 0 since (21 R478). -/
  awaitsEn : Bool := false
  ended : Bool := false
  deriving DecidableEq, Repr, Inhabited

/-- How one issue ended. -/
inductive IssueOut where
  /-- It performed. -/
  | done
  /-- It stalls: nothing happened, and it issues again later (R189, R142). -/
  | stalled
  /-- The group or fibre waits; its moves are kept until the wait ends. -/
  | parked
  /-- The instruction has itself put the frontier in place (ERET). -/
  | settled
  /-- It raised a cause (R281). -/
  | raised
  deriving DecidableEq, Repr, Inhabited

/-- The registers, counters and scratchpads as they stood before a pair issued (R62). -/
structure View where
  groups : Tab Group
  teams : Tab Team
  scratch : Tab (List Host.Cell)
  deriving DecidableEq, Repr, Inhabited

/-- The issue under way: the model's working record of R32, R46, R53 and R62. Slot lane L carries the fibre
`slots[L]` (its group and lane), or none. -/
structure Issue where
  core : Nat
  team : Nat
  /-- The issue slot (R33). -/
  slot : Nat := 0
  stream : Bool := false
  width : Nat
  slots : List (Option (Nat × Nat))
  /-- The slot lanes of the issued entry, ascending. -/
  entry : List Nat
  /-- The PC of the word being executed, and of the issue's stop (the lower member of a pair, R62). -/
  pc : BitVec 57
  stopPc : BitVec 57
  level : BitVec 12 := 0
  /-- The sequential next PC after the issue (R57, R62). -/
  next : BitVec 57
  pair : Bool := false
  view : Option View := none
  /-- Next PCs other than `next`, by slot lane (R128). -/
  moves : List Move := []
  /-- Children of FSPAWN, by lane of the group (R42). -/
  children : List Move := []
  out : IssueOut := .done
  /-- YIELD issued: its entry is deferred (R141). -/
  yielded : Bool := false
  /-- The groups or fibres whose frontier ERET has put in place (11 R294). -/
  placed : List Nat := []
  /-- The pages that checks have passed with, each with its entry (18 R427). -/
  checked : List (Nat × Nat) := []
  /-- What the stop recorded, for the step to take it again on the state before a pair (R62): code, SUB, faulting
  address, ASYNC, and the group whose failing status it consumed. -/
  stop : Option (Nat × Nat × Nat × Bool × Option Nat) := none
  deriving DecidableEq, Repr, Inhabited

/-- What is wrong with a sector's stored bits (18 R430, R432). -/
inductive SectorFault where
  /-- DRAM error correction restores it, and logs it. -/
  | corrected
  /-- Its check value does not match. -/
  | mismatch
  /-- DRAM error correction cannot restore it. -/
  | uncorrectable
  deriving DecidableEq, Repr, Inhabited

/-- Stored bits that change by themselves (log entry 25). The manual says what each unit does with such bits when it
reads them, and not when they change. -/
inductive Upset where
  /-- A sector of local memory, by address / 64 (18 R430, R432). -/
  | sector (sector : Nat) (fault : SectorFault)
  /-- A core's scratchpad word, by physical address / 4 (07 R187). -/
  | scratch (core word : Nat) (error : SramError)
  /-- A lane-register (07 R187). -/
  | laneReg (group lane reg : Nat) (error : SramError)
  /-- A lane-register of a free fibre's s48-s63 (02 R52), by the key of `Group.badScal`. -/
  | scalar (group key : Nat) (error : SramError)
  /-- A tile element, macro cell or scale byte (09 R229), by the key of `Marrow.bad`. -/
  | marrow (core key : Nat) (error : SramError)
  /-- A word of a team's sync state, by the key of `Team.syncBad` (14 R330, R352). -/
  | sync (team index : Nat) (error : SramError)
  /-- One bit of a line that a core has fetched (03 R59), by the key of `Core.fetched`. -/
  | fetched (core key bit : Nat)
  /-- A line of a line cache, which is read from its home again (07 R188). -/
  | cached (cache line : Nat)
  deriving DecidableEq, Repr, Inhabited

/-- What moves next: an issue of one of a core's two slots; a step of another unit; or an upset. -/
inductive Turn where
  | issue (core slot : Nat)
  | event (i : Instr)
  | upset (u : Upset)
  /-- The control plane makes a 64 KiB frame flat (18 R420); the manual gives it no command for this. -/
  | placeFlat (frame : Nat)
  /-- A request of an operation for a sector, by address / 64, arrives at its home slice and waits there for DRAM timing
  (18 R414); the manual does not say how long (18 R490). -/
  | arrive (op sector : Nat)
  /-- A management controller's firmware writes eight bytes of host memory (21 R487); the manual gives it no row. -/
  | firmwareWrite (die addr : Nat) (val : BitVec 64)
  deriving DecidableEq, Repr, Inhabited

/-- An engine operation accepted and not yet complete (R210, R306, R343, R373, R439, R467). -/
structure Op where
  instr : Instr
  gid : Nat
  core : Nat
  ctx : Nat
  team : Nat
  tok : Nat
  /-- Class counter: 0 ld, 1 st, 2 cp, 3 tl (Table 7.6). -/
  cls : Nat
  /-- The fibres of active, as group and lane, by slot lane (R307). -/
  lanes : List (Nat × Nat × Nat) := []
  /-- What the engine read at issue: scalars, the descriptor, index words. -/
  args : List Nat := []
  /-- Operand values of each slot lane. -/
  vals : Tab (List Nat) := []
  /-- Vector registers pending until the operation writes them (R307). -/
  results : List Nat := []
  /-- The numbers of the operation's units not yet performed. -/
  rest : List Nat := []
  /-- Source sectors read, by unit: 64 bytes, descriptor, status (R222). -/
  buf : Tab Nat := []
  /-- Destination sectors not delivered (R221). -/
  lost : List Nat := []
  moved : Bool := false
  status : Nat := 0
  detail : Nat := 0
  info : Nat := 0
  flags : BitVec 7 := 0
  exact : Bool := false
  /-- The largest global write completion time returned (R386). -/
  gwct : Nat := 0
  svc : Nat := 2
  /-- The deadline of its requests of each class, from the context's budgets at acceptance (R220, R413). -/
  deadlines : List (Option Nat) := []
  /-- Since when a request of it waits in its home slice's queue, the queue, and the request's class (18 R414). -/
  queued : Option (Nat × Nat × Nat) := none
  /-- The pages its checks passed with, each with its entry (18 R427). -/
  passed : List (Nat × Nat) := []
  /-- Pages withdrawn since acceptance, as first page and count (R427). -/
  withdrawn : List (Nat × Nat) := []
  /-- The members of a collective, with their tokens (R238). -/
  members : List (Nat × Nat) := []
  /-- Operations that must complete first (R375, R233). -/
  after : List Nat := []
  /-- The macro tags before the operation was accepted (R228). -/
  tags : Tab Tag := []
  deriving DecidableEq, Repr, Inhabited

/-- Launch queue registers (Table 15.1). -/
structure Queue where
  base : Nat := 0
  logn : Nat := 0
  en : Bool := false
  ctx : Nat := 0
  prio : Nat := 0
  cls : Nat := 0
  tail : Nat := 0
  head : Nat := 0
  deriving DecidableEq, Repr, Inhabited

/-- A launch taken and not complete: a grid (R356, R359), or the team of a graph node (R364). -/
structure Launch where
  die : Nat
  gseq : Nat
  ctx : Nat
  prio : Nat
  cls : Nat
  /-- The 512-byte launch record (Table 15.2) as a number. -/
  record : Nat
  queue : Nat := 0x3FF
  /-- The linear index of the next team to place (R361), and the teams placed and not ended. -/
  next : Nat := 0
  live : Nat := 0
  /-- STATUS and REASON of the completion record (Table 15.5). -/
  status : Nat := 0
  reason : Nat := 0
  /-- Its grid was ended: no more teams are placed (R288). -/
  ended : Bool := false
  node : Option (Nat × Nat) := none
  /-- s0, interval and task of a range team (R371). -/
  arg : Option Nat := none
  interval : Option (Nat × Nat × Nat) := none
  task : Option Nat := none
  /-- Edge slots claimed for the team before its placement (R366): edge and slot. -/
  claims : List (Nat × Nat) := []
  /-- The cores it waits for (R361). -/
  target : List Nat := []
  /-- The largest horizon of the groups of its teams that have ended (16 R394). -/
  horizon : Nat := 0
  deriving DecidableEq, Repr, Inhabited

/-- A completion record not yet written (R359, R371): what Table 15.5 and the event log show, the context, address, class
and deadlines of its write, and the horizon it waits for (16 R394). -/
structure Done where
  die : Nat
  ctx : Nat
  cls : Nat
  queue : Nat
  donea : Nat
  status : Nat
  reason : Nat
  gseq : Nat
  time : Nat
  horizon : Nat := 0
  deadlines : List (Option Nat) := []
  deriving DecidableEq, Repr, Inhabited

/-- The state of an edge's slot (R365, R368): full with its record number and time of performance; claimed for, or
held by, a launch or a team, with the order of delivery. -/
inductive EdgeSlot where
  | free
  | full (num time : Nat)
  | claimed (num launch : Nat)
  | held (num launch order : Nat)
  deriving DecidableEq, Repr, Inhabited

/-- An edge of a running graph (Table 15.7, R365). -/
structure Edge where
  record : Nat
  slots : List EdgeSlot
  openp : Nat
  num : Nat := 0
  overfull : Bool := false
  /-- How many records were delivered, which orders those held (R373). -/
  delivered : Nat := 0
  /-- The last command performed: its core cycle, and its place in the order of one cycle, core and fibre slot (R374). -/
  last : Nat × Nat × Nat := (0, 0, 0)
  deriving DecidableEq, Repr, Inhabited

/-- A pending range task (Table 15.9). -/
structure RangeTask where
  id : Nat
  lo : Nat
  hi : Nat
  arg : Nat
  donea : Nat
  deriving DecidableEq, Repr, Inhabited

/-- A range task that has been launched (R371): its descriptor, its teams not ended, and the largest horizon of those that
have (16 R394). -/
structure RangeRun where
  task : RangeTask
  live : Nat
  horizon : Nat := 0
  deriving DecidableEq, Repr, Inhabited

/-- A node of a running graph (Table 15.8). -/
structure Node where
  record : Nat
  /-- After a refused launch: the time until which no team is launched (R364). -/
  holdoff : Option Nat := none
  tasks : List RangeTask := []
  running : List RangeRun := []
  /-- The core cycle of the last split of an interval (R374). -/
  splitAt : Option Nat := none
  deriving DecidableEq, Repr, Inhabited

/-- Graph slot registers (Table 15.6) and the graph that runs. -/
structure Graph where
  nodes : Nat := 0
  edges : Nat := 0
  nnm1 : Nat := 0
  nem1 : Nat := 0
  ctx : Nat := 0
  prio : Nat := 0
  cls : Nat := 0
  en : Bool := false
  run : Bool := false
  dl : Nat := 0
  /-- EN changed from 0 to 1 and the tables are not yet read (R364). -/
  starting : Bool := false
  nodeTab : List Node := []
  edgeTab : List Edge := []
  /-- The number of the next range task. -/
  nextTask : Nat := 0
  deriving DecidableEq, Repr, Inhabited

/-- Pre-emption order registers (Table 15.12), the order latched at GO, and the teams chosen. -/
structure Preempt where
  ctx : Nat := 0
  kind : Bool := false
  cores : Nat := 0
  gseq : Nat := 0
  report : Nat := 0
  busy : Bool := false
  order : Option (Nat × Bool × Nat × Nat × Nat) := none
  /-- The teams chosen, each with its grid's GSEQ. -/
  chosen : List (Nat × Nat) := []
  started : Bool := false
  short : Bool := false
  /-- What is left to write of the report (R379): address, 16 bytes, and the payload of the team's event record. -/
  todo : List (Nat × Nat × Option Nat) := []
  /-- The deadlines of the report's writes, by class (R413). -/
  deadlines : List (Option Nat) := []
  /-- GTC at which the teams gave up their cores, the stamp of their event records (01 R21). -/
  released : Nat := 0
  deriving DecidableEq, Repr, Inhabited

/-- A row delivered to a bank's queue and not performed (R434, R439): its command's acceptance number, agent and
context, bank, address with its page's entry, source row, class and deadline (R414), and whether its page was
withdrawn (R427). -/
structure NmRow where
  op : Nat
  gid : Nat
  core : Nat
  ctx : Nat
  bank : Nat
  instr : Instr
  desc : Nat
  va : Nat
  pa : Nat
  pte : Nat := 0
  x : Nat := 0
  cls : Nat := 0
  deadline : Option Nat := none
  /-- When it reached the bank. -/
  since : Nat := 0
  gone : Bool := false
  deriving DecidableEq, Repr, Inhabited

/-- What a root unit records of a performed row (R442): flags, elements written as NaN or infinite, and the statuses of
sectors it did not update. -/
structure NmNote where
  gid : Nat
  ctx : Nat
  bank : Nat
  flags : BitVec 7 := 0
  nonfinite : Nat := 0
  lost : List Nat := []
  /-- The largest global write completion time of its writes (R435). -/
  gwct : Nat := 0
  deriving DecidableEq, Repr, Inhabited

/-- The GWCT a bank has recorded for a performed row (R435). -/
structure NmWrite where
  ctx : Nat
  bank : Nat
  gwct : Nat
  deriving DecidableEq, Repr, Inhabited

/-- A reduction slot (19 R464), the same in the all-reduce units of the four dies. -/
structure ArSlot where
  owner : Option Nat := none
  mask : Nat := 0
  /-- T, a type code. -/
  ty : Nat := 0
  nsec : Nat := 1
  gen : BitVec 32 := 0
  arr : Nat := 0
  deriving DecidableEq, Repr, Inhabited

/-- A cluster configuration word (Table 14.1). -/
structure Cluster where
  fuse : Bool := false
  act : Bool := false
  /-- The switch has begun (14 R327). -/
  switching : Bool := false
  deriving DecidableEq, Repr, Inhabited

/-- The control command register (Table 21.3), and the command latched at GO. -/
structure Control where
  op : Nat := 0
  ctx : Nat := 0
  ctx2 : Nat := 0
  a0 : Nat := 0
  a1 : Nat := 0
  a2 : Nat := 0
  busy : Bool := false
  status : Nat := 0
  count : Nat := 0
  latched : Nat × Nat × Nat × Nat × Nat × Nat := (0, 0, 0, 0, 0, 0)
  /-- The command has ended but for its event record, which so many records of die 0 must be written to reach (21 R479). -/
  finishing : Option Nat := none
  deriving DecidableEq, Repr, Inhabited

/-- Limits, sensors, firmware status and the watchdog (Tables 21.5 and 21.6). -/
structure Manage where
  plim : Nat := 1800
  clim : Nat := 1700
  /-- The limits in force (01 R23). -/
  plimNow : Nat := 1800
  climNow : Nat := 1700
  /-- Sensors: core clock, package power, and each die's junction temperature. -/
  cclk : Nat := 1700
  pwr : Nat := 0
  tj : List Nat := [0, 0, 0, 0]
  safe : Bool := false
  hwbase : Option Nat := none
  hwsize : Option Nat := none
  /-- GTC of the last KICK (R487). -/
  kicked : Nat := 0
  /-- The limit in force before, and until when the millisecond that PWR averages reaches back to it (Table 21.5). -/
  plimOld : Nat × Nat := (0, 0)
  /-- A limit was written and is not yet in force (01 R23). -/
  pending : Bool := false
  /-- Signatures each die's key store has given (R486). -/
  leaves : Tab Nat := []
  deriving DecidableEq, Repr, Inhabited

/-- A backed line: compressed into some sectors, or flat (18 R416). Lines not listed are unbacked. -/
inductive LineState where
  | compressed (sectors : Nat)
  | flat
  deriving DecidableEq, Repr, Inhabited

/-- A sector filled into a line cache: 512 bits, a descriptor, and the end of the lease granted at the fill (07 R188,
16 R385). -/
structure Fill where
  val : Nat
  desc : Nat
  lease : Nat
  deriving DecidableEq, Repr, Inhabited

/-- One line of a line cache: the sectors it was filled with (07 R188). -/
structure CacheLine where
  sectors : Tab Fill := []
  deriving DecidableEq, Repr, Inhabited

/-- A write that waits at its home for sectors (18 R419): a unit of an operation, a row at its bank, a posted write, a
completion record, a pre-emption order's report, a clone, an event record, or eight bytes of the host or another package
(the die they enter at, address, value). -/
inductive SectorWait where
  | op (id : Nat)
  | row (key : Nat)
  | posted (gid : Nat)
  | done (id : Nat)
  | order (die : Nat)
  | clone
  | log (die : Nat)
  | outer (die pa val : Nat)
  deriving DecidableEq, Repr, Inhabited

/-- A leaf held by a TLB: the entry and the level it was found at (18 R426). -/
structure Leaf where
  pte : BitVec 64
  level : Nat
  deriving DecidableEq, Repr, Inhabited

/-- The response to an exactly-once request (19 R456): its status, the value it read, flags, and the global write
completion time of its write. -/
structure Reply where
  status : Nat := 0
  val : Nat := 0
  flags : BitVec 7 := 0
  gwct : Nat := 0
  deriving DecidableEq, Repr, Inhabited

/-- A request or response that crosses a die-to-die link: the dies it comes from and goes to, its hash lane (19 R457);
for an exactly-once request its source, TSN and its source's oldest unanswered TSN (R455, R456). -/
structure Msg where
  /-- A request that may be repeated: its flits alone are followed (log entry 36). -/
  plain : Bool := false
  src : Nat := 0
  org : Nat
  dst : Nat
  lane : Nat
  tsn : Nat := 0
  oldest : Nat := 0
  reply : Option Reply := none
  /-- Its class and deadline, and since when it waits at its port (18 R414). -/
  cls : Nat := 2
  deadline : Option Nat := none
  since : Nat := 0
  deriving DecidableEq, Repr, Inhabited

/-- What an exactly-once request is to do (19 R455): a unit of an operation, or the parked VPUB, VACQ or VREL of a
group. -/
inductive Job where
  | unit (op k : Nat)
  | posted (gid : Nat)
  deriving DecidableEq, Repr, Inhabited

/-- An unanswered exactly-once request (19 R455). -/
structure Req where
  job : Job
  msg : Msg
  /-- The ports of the way it was last sent by (R450). -/
  via : List Nat := []
  deriving DecidableEq, Repr, Inhabited

/-- A home die's duplicate filter for one source (19 R456): where its window starts, and the responses recorded. -/
structure Filter where
  lo : Nat := 0
  marks : Tab Reply := []
  deriving DecidableEq, Repr, Inhabited

/-- A flit: its FSN, what it carries, and when it was last sent (19 R452). -/
structure Flit where
  fsn : Nat
  msg : Msg
  since : Nat := 0
  deriving DecidableEq, Repr, Inhabited

/-- What a receiver returns to a transmitter (19 R452). -/
inductive LinkNote where
  | ack (fsn : Nat)
  | nak (fsn : Nat)
  deriving DecidableEq, Repr, Inhabited

/-- A module register (Table 19.1) with the link state of its transmitter and receiver (19 R452-R454). -/
structure Module where
  state : Nat := 0
  emax : Nat := 8
  crc : Nat := 0
  win : Nat := 1000000
  replay : Nat := 0
  /-- When the CRC window began. -/
  windowAt : Nat := 0
  /-- The next FSN, the replay buffer, the messages that wait for it, and the flits on their way to the neighbour. -/
  fsn : Nat := 0
  buf : List Flit := []
  queue : List Msg := []
  wire : List Flit := []
  /-- The FSN expected, and whether flits are discarded until it arrives. -/
  expect : Nat := 0
  discarding : Bool := false
  /-- ACKs and NAKs on their way to this transmitter. -/
  notes : List LinkNote := []
  /-- What a training is for: some 4 a fallback to 32 lanes, else a retrain order of a module that was in that state. -/
  goal : Option Nat := none
  /-- This end began the fallback. -/
  led : Bool := false
  deriving DecidableEq, Repr, Inhabited

/-- A die's registers: free-space manager (Table 18.4), scheduler age (Table 18.3), event log (Table 19.3). -/
structure Die where
  /-- Free physical sectors of the die's two stacks (log entry 6). -/
  freeSectors : Nat := 2 ^ 31
  soft : Nat := 0
  /-- The copy-on-write pool: logical addresses of its frames. -/
  pool4k : List Nat := []
  pool64k : List Nat := []
  poolFlat : List Nat := []
  age : Nat := 16384
  /-- Miss counters by 4 * source + class. -/
  miss : Tab Nat := []
  logBase : BitVec 52 := 0
  logN : Nat := 0
  logEn : Bool := false
  logHead : Nat := 0
  logTail : Nat := 0
  logDrops : Nat := 0
  /-- The next record stored carries the gap flag (01 R22). -/
  gapOwed : Bool := false
  /-- Records whose write waits for sectors, oldest first (18 R419). -/
  logWait : List Nat := []
  /-- Whether FREE stands below SOFT, for the record of each crossing (18 R419). -/
  pressed : Bool := false
  /-- The low word of a PUSH write, until its high word arrives: LA[35:12], PSZ, PFLAT (Table 18.4, log entry 15). -/
  pushLow : Nat × Bool × Bool := (0, false, false)
  queues : Tab Queue := []
  /-- The next launch sequence number (R356). -/
  gseq : Nat := 0
  /-- The queue taken from last at each priority, for round-robin (R356). -/
  lastQueue : Tab Nat := []
  graphs : Tab Graph := []
  preempt : Preempt := {}
  deriving DecidableEq, Repr, Inhabited

/-- A core's own state (07, 08, 11 R303). -/
structure Core where
  /-- Fetched lines kept until IFENCE (R303), by context * 2^57 + line address: the 64 bytes as a number. -/
  fetched : Tab Nat := []
  /-- Lane-registers of the general pool (R206), and the contexts whose state the register file has held (R179). -/
  pool : Nat := 65536
  regCtxs : List Nat := []
  /-- Scratchpad words whose stored bits are in error, by physical word (R187). -/
  badWords : Tab SramError := []
  marrow : Marrow := {}
  /-- The sampler's network slots, the most recently accepted first: context, address, the image's 1,664 bytes as a
  number (12 R316). -/
  networks : List (Nat × Nat × Nat) := []
  deriving DecidableEq, Repr, Inhabited

/-- The machine. -/
structure State where
  /-- Core cycles since power-on (R12). -/
  cycle : Nat
  groups : Tab Group
  teams : Tab Team
  cores : Tab Core
  /-- The scratchpad bytes of each core that are not zero (R184). -/
  scratch : Tab (List Host.Cell)
  /-- GTC base and each die's counter above it (19 R459). -/
  time : Nat
  gtcOff : Tab Nat
  /-- Bytes of local memory that are not zero, by logical address (18 R410, R416). -/
  mem : List Host.Cell
  /-- Written bytes outside the package: host memory by physical address (21 R483), other packages' by package and address
  (R484). -/
  outside : Tab Byte
  /-- Sector descriptors that are not 0x0000, by sector (Table 4.5). -/
  desc : Tab (BitVec 16)
  faults : Tab SectorFault
  lines : Tab LineState
  /-- Flat frames, by address / 64 KiB, each with its place in the banks (18 R420). -/
  flat : Tab Nat
  /-- Writes that wait for sectors, with the die (18 R419). -/
  sectorWaits : List (SectorWait × Nat)
  /-- The latest lease end of each line (16 R386). -/
  leases : Tab Nat
  /-- Line-cache arrays, by core; fused, the array of core s of a cluster is its slice s (14 R326, R328). -/
  caches : Tab (Tab CacheLine)
  /-- Leaves held by each core's TLB, and under 512 + cluster by the cluster's, by context * 2^45 + page. -/
  tlbs : Tab (Tab Leaf)
  /-- Upper-level pointers that the same TLBs hold: the table for an address at a level (18 R426). -/
  ptrs : Tab (Tab Nat)
  modules : Tab Module
  dies : Tab Die
  /-- Package registers (Table 21.2). -/
  ctxBase : BitVec 52
  rwBase : BitVec 52
  rtBase : BitVec 52
  pkg : BitVec 13
  /-- MSI-X (21 R483): the record kinds in each vector's mask, and the vectors sent, oldest first. -/
  msixMask : Tab (List Nat)
  msixSent : List Nat
  /-- Launches not complete, in the order taken (R356). -/
  launches : Tab Launch
  /-- Completion records not yet written (R359, R371). -/
  dones : Tab Done
  /-- Engine operations in flight. -/
  ops : Tab Op
  clusters : Tab Cluster
  /-- Rows in the banks' queues, and the records of performed ones that no fence has taken, by order of delivery (R434,
  R442). -/
  nmRows : Tab NmRow
  nmNotes : Tab NmNote
  /-- The GWCTs of performed rows that not every die's counter has passed, by order of delivery (R435). -/
  nmDone : Tab NmWrite
  arSlots : Tab ArSlot
  control : Control
  manage : Manage
  /-- Walks that reached context level, by context (CTXRD selector 1, R304). -/
  walks : Tab Nat
  /-- Bytes of each context's save pool in use (R378). -/
  saved : Tab Nat
  /-- The context that last held each 2 KiB row of scratchpad in a window, by 256 * core + row (R362). -/
  lastCtx : Tab Nat
  /-- The package is asleep (R25). -/
  asleep : Bool
  /-- Unanswered exactly-once requests, by the order sent; the next TSN and the duplicate filter of each pair, by
  4 * source + die; requests at their home die, and responses at their source (19 R455, R456). -/
  reqs : Tab Req
  tsns : Tab Nat
  filters : Tab Filter
  atHome : Tab (List Msg)
  replies : Tab (List Msg)
  /-- The module that carries each hash lane, by 16 * (2 * die + port) + lane (R454). -/
  laneMods : Tab Nat
  /-- The base of BAR2 in region 0x0 (21 R483). -/
  bar2 : Nat
  /-- The number of the next operation, launch, team or group. The model's own. -/
  seq : Nat
  /-- The issue under way. The model's own. -/
  cur : Option Issue
  /-- What moves next, by the choices the manual leaves to timing (log entry 2). The model's own. -/
  agenda : List Turn
  /-- How many free values have been drawn (log entry 2). The model's own. -/
  free : Nat
  deriving DecidableEq, Repr, Inhabited

/-- The package after reset: nothing is resident, every queue and table is empty. -/
def State.reset : State :=
  { cycle := 0, groups := [], teams := [], cores := [], scratch := []
    time := 0, gtcOff := [], mem := [], outside := [], desc := [], faults := [], lines := [], flat := []
    sectorWaits := [], leases := [], caches := [], tlbs := [], ptrs := [], modules := [], dies := [], ctxBase := 0, rwBase := 0, rtBase := 0, pkg := 0
    msixMask := [], msixSent := []
    launches := [], dones := [], ops := [], clusters := []
    nmRows := [], nmNotes := [], nmDone := [], arSlots := [], control := {}, manage := {}, walks := [], saved := []
    lastCtx := [], asleep := false
    reqs := [], tsns := [], filters := [], atHome := [], replies := [], laneMods := [], bar2 := 0
    seq := 0, cur := none, agenda := [], free := 0 }

end Sys2Proof.Machine
end

