-- ==== Sys2Proof/Machine/Ops.lean ====
section
/-! DEFINITION. The named operations over the state: free values, tables, program counters, groups and
their lanes (R27-R31, R52), the frontier table (R44-R49), and the stop at a cause (R281, R278). -/

namespace Sys2Proof.Machine

abbrev Res := Host.Outcome State Fault Refusal

/-! ### Tables -/

def State.group (s : State) (g : Nat) : Group := Tab.getD s.groups g default
def State.setGroup (s : State) (g : Nat) (v : Group) : State := { s with groups := Tab.set s.groups g v }
def State.modGroup (s : State) (g : Nat) (f : Group → Group) : State :=
  { s with groups := Tab.modify s.groups g f }
def State.teamOf (s : State) (t : Nat) : Team := Tab.getD s.teams t default
def State.modTeam (s : State) (t : Nat) (f : Team → Team) : State := { s with teams := Tab.modify s.teams t f }
def State.core (s : State) (k : Nat) : Core := Tab.getD s.cores k {}
def State.modCore (s : State) (k : Nat) (f : Core → Core) : State :=
  { s with cores := Tab.set s.cores k (f (s.core k)) }
def State.iss (s : State) : Issue := s.cur.getD default
def State.modIss (s : State) (f : Issue → Issue) : State := { s with cur := Option.map f s.cur }

/-- Draws one free value's index (log entry 2). -/
def State.draw (s : State) : State := { s with free := s.free + 1 }

/-- A meaning of an instruction that a group issues: without an issue there is no meaning. -/
def issued (s : State) (k : Issue → State) : Res :=
  match s.cur with
  | none => .fault .noIssuer
  | some i => .next (k i)

/-- The distinct members of a list, in order. -/
def distinct {α : Type} [BEq α] (xs : List α) : List α :=
  List.foldl (fun acc x => if acc.contains x then acc else acc ++ [x]) [] xs

/-! ### Program counters (R57) -/

def lineOf (pc : BitVec 57) : BitVec 57 := pc - BitVec.ofNat 57 (pc.toNat % 64)
def slotOf (pc : BitVec 57) : Nat := pc.toNat % 64 / 12

/-- R57: a PC is valid when PC mod 64 is 0, 12, 24, 36 or 48. -/
def validPc (pc : BitVec 57) : Bool :=
  let r := pc.toNat % 64
  r == 0 || r == 12 || r == 24 || r == 36 || r == 48

/-- R57: sequential flow. -/
def seqPc (pc : BitVec 57) : BitVec 57 :=
  if slotOf pc < 4 then pc + 12 else lineOf pc + 64

/-! ### Groups, teams and lanes -/

/-- The group or free fibre a slot lane carries. -/
def Issue.at? (i : Issue) (l : Nat) : Option (Nat × Nat) := (i.slots[l]?).join

/-- A group as the issue's operands see it: for a pair, as it stood before either member wrote (R62). -/
def State.rgroup (s : State) (g : Nat) : Group :=
  match s.iss.view with
  | none => s.group g
  | some v => Tab.getD v.groups g default

/-- h of a group (R29). -/
def Group.h (gr : Group) : Nat := gr.ext.length

/-- What a lane-register that nothing has written reads: zero in the base block (Table 2.5) and in a block that was
cleared when it was granted (07 R179), a free value in another extended block (R29). -/
def Group.unwritten (gr : Group) (l n : Nat) : Nat :=
  let epoch := (gr.ext.getD ((n - 64) / 32) (0, false)).1
  if n < 64 || epoch == 0 then 0 else (Config.staleReg epoch (gr.slot0 + l) n).toNat

/-- A lane-register's 32 bits. -/
def Group.reg (gr : Group) (l n : Nat) : Nat :=
  match gr.lanes[l]? with
  | none => 0
  | some ln =>
    match Tab.get? ln.regs n with
    | some w => w.toNat
    | none => gr.unwritten l n

/-- The number of a lane-register in the register file (07 R178): in the lane's base window, or in an extended block, whose
32 registers of lane 0 come first, then lane 1's (log entry 13). -/
def Group.fileNum (gr : Group) (j n : Nat) : Nat :=
  if n < 64 then 8 * ((gr.lanes[j]?).map fun ln => ln.wbase.toNat).getD 0 + n
  else 8 * gr.extAt.getD ((n - 64) / 32) 0 + 32 * j + (n - 64) % 32

def Group.modLane (gr : Group) (l : Nat) (f : Lane → Lane) : Group :=
  { gr with lanes := gr.lanes.modify l f }

def Group.setReg (gr : Group) (l n : Nat) (v : Nat) : Group :=
  gr.modLane l fun ln => { ln with regs := Tab.set ln.regs n (BitVec.ofNat 32 v), bad := Tab.erase ln.bad n }

/-- Part of a lane-register's bits replaced: an error among its stored bits stays (R187). -/
def Group.pokeReg (gr : Group) (l n : Nat) (v : Nat) : Group :=
  gr.modLane l fun ln => { ln with regs := Tab.set ln.regs n (BitVec.ofNat 32 v) }

def Group.scal (gr : Group) (n : Nat) : Nat := (Tab.getD gr.scalars n 0).toNat
def Group.setScal (gr : Group) (n v : Nat) : Group :=
  { gr with scalars := Tab.set gr.scalars n (BitVec.ofNat 64 v) }

/-- A result written to a scalar: reading it is no longer a read of the token it may have been (R189, R191), and its
stored bits are whole again (R187). -/
def Group.putScal (gr : Group) (n v : Nat) : Group :=
  { gr.setScal n v with
    unjoined := gr.unjoined.map fun u => if u.token == n then { u with gone := true } else u
    badScal := gr.badScal.filter fun e => e.1 / 2 != n }

def Group.pred (gr : Group) (l : Nat) : Word := match gr.lanes[l]? with | some ln => ln.preds | none => 0
def Group.setPred (gr : Group) (l : Nat) (v : Word) : Group := gr.modLane l fun ln => { ln with preds := v }

/-- What a group owns of Table 7.7's "group or stream team" state (R52). -/
def State.sharedOf (s : State) (g : Nat) : Shared :=
  let gr := s.group g
  let t := s.teamOf gr.team
  if t.stream then t.shared else gr.shared

/-- The same state as a pair's members read it (R62). -/
def State.rsharedOf (s : State) (g : Nat) : Shared :=
  match s.iss.view with
  | none => s.sharedOf g
  | some v =>
    let gr := Tab.getD v.groups g default
    let t := Tab.getD v.teams gr.team default
    if t.stream then t.shared else gr.shared

def State.modShared (s : State) (g : Nat) (f : Shared → Shared) : State :=
  let t := (s.group g).team
  if (s.teamOf t).stream then s.modTeam t fun tm => { tm with shared := f tm.shared }
  else s.modGroup g fun gr => { gr with shared := f gr.shared }

/-! ### The frontier table (R44-R49) -/

def insertLane (l : Nat) (ls : List Nat) : List Nat :=
  match ls with
  | [] => [l]
  | j :: r => if j == l then ls else if l < j then l :: ls else j :: insertLane l r

/-- R46: a fibre arrives at a PC and level: it joins the entry that stands there, or forms a new one. -/
def arrive (fr : List Entry) (pc : BitVec 57) (level : BitVec 12) (lane : Nat) : List Entry :=
  match fr with
  | [] => [{ pc := pc, level := level, lanes := [lane] }]
  | e :: r =>
    if e.pc == pc && e.level == level then { e with lanes := insertLane lane e.lanes } :: r
    else e :: arrive r pc level lane

def arriveAll (fr : List Entry) (ms : List Move) : List Entry :=
  List.foldl (fun fr m => arrive fr m.pc m.level m.lane) fr ms

/-- The highest call level of a frontier (R45 step 1). -/
def topLevel (fr : List Entry) : Nat := List.foldl (fun m e => max m e.level.toNat) 0 fr

/-- The entry with the lowest PC. -/
def lowestPc (fr : List Entry) : Option Entry :=
  match fr with
  | [] => none
  | e :: r =>
    match lowestPc r with
    | none => some e
    | some x => if x.pc.toNat < e.pc.toNat then some x else some e

/-- R45, R141: the entry a group issues next. -/
def selectEntry (fr : List Entry) : Option Entry :=
  let top := topLevel fr
  let el := fr.filter fun e => e.level.toNat == top
  let due := el.filter fun e => e.due || 4096 ≤ e.age
  let ready := el.filter fun e => !e.deferred
  if !due.isEmpty then lowestPc due
  else if !ready.isEmpty then lowestPc ready
  else lowestPc el

def isEntry (pc : BitVec 57) (level : BitVec 12) (e : Entry) : Bool := e.pc == pc && e.level == level

/-- R49: the other eligible entries of the group age by one when it issues; an entry at `pc` and `level` does not. -/
def ageOthers (fr : List Entry) (pc : BitVec 57) (level : BitVec 12) : List Entry :=
  fr.map fun e => if e.level == level && !isEntry pc level e then { e with age := e.age + 1 } else e

/-- R46 after an issue of the entry at `pc` and `level`: the entry leaves, its live fibres and the children arrive
where they go, merging is decided, and YIELD's mark is set. -/
def Group.commit (gr : Group) (pc : BitVec 57) (level : BitVec 12) (ms kids : List Move) (yielded : Bool) : Group :=
  let rest := (gr.frontier.filter fun e => !isEntry pc level e).map fun e => { e with deferred := false }
  let alive := ms.filter fun m => match gr.lanes[m.lane]? with | some ln => ln.live | none => false
  let fr := arriveAll rest alive
  let fr := if yielded then
      fr.map fun e => { e with deferred := e.deferred || alive.any fun m => isEntry m.pc m.level e }
    else fr
  { gr with frontier := arriveAll fr kids }

/-- An issue of the entry at `pc` and `level`, whatever came of it: the group's other eligible entries age, its own
starts again at age 0 (R49), YIELD's marks are cleared at its selection (R141), and the group has issued (R54, R363);
it may issue again from the cycle `next`. -/
def Group.issuedAt (gr : Group) (pc : BitVec 57) (level : BitVec 12) (now next : Nat) : Group :=
  { gr with
    frontier := (ageOthers gr.frontier pc level).map fun e =>
      if isEntry pc level e then { e with age := 0, due := false, deferred := false } else { e with deferred := false }
    lastIssue := now, lastPc := pc, readySince := next, aged := false, blocked := false, boosted := false, waitcAt := none }

def Group.hact (gr : Group) : Bool := gr.cause.getLsbD 26

/-- R287: RCNT is cleared when the group issues, outside a handler, an instruction that raises no cause. -/
def clearRcnt (gr : Group) : Group :=
  if gr.hact then gr else { gr with cause := BitVec.ofNat 36 (setBits gr.cause.toNat 22 4 0) }

/-! ### The stop at a cause (R278, R281, R292, R297) -/

/-- SUB of Table 11.1: a double fault names no operand, and keeps the token of a join. -/
def stopSub (hact async : Bool) (sub : Nat) : Nat := if hact && !async then 0 else sub

/-- Table 11.1: sr.cause after a stop. Every stop overwrites it, except RCNT and the handler fields. `entered` is the code
of the cause that entered the running handler, which PREV shows of a double fault (log entry 17). -/
def causeOf (old : BitVec 36) (code sub : Nat) (async pair : Bool) (entered : Nat) : BitVec 36 :=
  let o := old.toNat
  let hact := bitOf o 26
  let code' := if hact then 0x1F else code
  BitVec.ofNat 36
    (code' % 256 + stopSub hact async sub % 256 * 2 ^ 8 + (if async then 2 ^ 16 else 0) + (if pair then 2 ^ 17 else 0) +
      bitsOf o 22 4 * 2 ^ 22 + bitsOf o 27 1 * 2 ^ 27 + (if hact then entered % 256 * 2 ^ 28 else 0))

/-- The code of the cause that entered a group's running handler (R290). -/
def Group.entered (gr : Group) : Nat := (gr.shadow.map fun x => x.stop.code).getD 0

/-- R297: whether a cause halts the group for the debugger instead of being walked. -/
def haltsFor (dbg : BitVec 6) (code : Nat) : Bool :=
  dbg.getLsbD 0 && ((0x50 ≤ code && code ≤ 0x52) || dbg.getLsbD 3)

/-- The GTC a group's core reads: the base time with its die's counter (19 R459). -/
def State.groupTime (s : State) (gr : Group) : Nat := min (s.time + Tab.getD s.gtcOff (gr.core / 128 % 4) 0) (2 ^ 64 - 1)

/-- TAKES a cause in one group or free fibre (R281): records it in sr.cause, sr.epc and sr.eaddr, ends a running
handler (R292), and leaves the group stopped, for the walk of its containment policies or for the debugger. What
follows a stop is no first issue at ENTRY (R61), and no first issue after a resume (R296). -/
def State.stopGroup (s : State) (g : Nat) (code sub : Nat) (eaddr : BitVec 57) (async pair : Bool)
    (pc : BitVec 57) (level : BitVec 12) (lanes : List Nat) : State :=
  let sh := s.sharedOf g
  s.modGroup g fun gr =>
    let hact := gr.hact
    let code' := if hact then 0x1F else code
    let halted := haltsFor sh.dbg code'
    { gr with
      cause := causeOf gr.cause code sub async pair gr.entered
      epc := pc
      eaddr := if hact then 0 else eaddr
      shadow := if hact then none else gr.shadow
      halt := halted
      stepping := false, entering := false, resumed := false
      stop := some
        { code := code', sub := stopSub hact async sub, async := async, pair := pair, pc := pc, level := level
          lanes := lanes, eaddr := if hact then 0 else eaddr, halted := halted, stamp := s.groupTime gr } }

/-- The distinct groups of the issued entry, with their issuing lanes. -/
def Issue.groups (i : Issue) : List (Nat × List Nat) :=
  List.foldl (fun acc l =>
    match i.at? l with
    | none => acc
    | some (g, j) =>
      match acc.find? fun p => p.1 == g with
      | none => acc ++ [(g, [j])]
      | some _ => acc.map fun p => if p.1 == g then (p.1, p.2 ++ [j]) else p) [] i.entry

/-- One failing status is met at its join and does not arise again (R191); one that its token still shows comes before
one whose token was written since. -/
def Group.consume (gr : Group) (token cause : Nat) : Group :=
  let shown := fun (u : Unjoined) => u.token == token && u.cause == cause && !u.gone
  { gr with
    unjoined := if gr.unjoined.any shown then gr.unjoined.eraseP shown
      else gr.unjoined.eraseP fun u => u.token == token && u.cause == cause }

/-- The issuing instruction raises a cause: every group of the issue stops at it, with no effect. A failing status
raised at a join is consumed in its group `joined` (R191); `sub` is then its token, 64 for an operation without one
(10 R255). -/
def State.raise (s : State) (code : Nat) (sub : Nat := 0) (eaddr : Nat := 0) (async : Bool := false)
    (joined : Option Nat := none) : State :=
  let i := s.iss
  let s := match joined with
    | some h => s.modGroup h fun gr => gr.consume sub code
    | none => s
  let s := List.foldl (fun s p =>
    s.stopGroup p.1 code (if async then sub % 64 else sub) (BitVec.ofNat 57 eaddr) async i.pair i.stopPc i.level p.2) s
      i.groups
  s.modIss fun i => { i with out := .raised, stop := some (code, sub, eaddr, async, joined) }

/-- The issuing instruction stalls (R189, R142, R192): nothing happens, and it issues again later. -/
def State.stall (s : State) : State := s.modIss fun i => { i with out := .stalled }

/-- The fibres of slot lanes go elsewhere than the sequential next PC (R128). -/
def State.goTo (s : State) (l : Nat) (pc : BitVec 57) (level : BitVec 12) : State :=
  s.modIss fun i => { i with moves := i.moves ++ [{ lane := l, pc := pc, level := level }] }

/-- Where each fibre of the issued entry goes, by slot lane (R128). -/
def Issue.movesOf (i : Issue) : List Move :=
  i.entry.map fun l =>
    match i.moves.find? fun m => m.lane == l with
    | some m => m
    | none => { lane := l, pc := i.next, level := i.level }

/-- The moves of one group's fibres, by lane of the group. -/
def Issue.movesIn (i : Issue) (g : Nat) : List Move :=
  i.movesOf.filterMap fun m =>
    match i.at? m.lane with
    | some (h, j) => if h == g then some { m with lane := j } else none
    | none => none

/-- The issuing group or fibre of a slot lane waits; the moves of its issue are kept until the wait ends. -/
def State.park (s : State) (l : Nat) (w : Wait) : State :=
  match s.iss.at? l with
  | none => s
  | some (g, _) =>
    let i := s.iss
    (s.modGroup g fun gr =>
      { gr with parked := some { wait := w, pc := i.stopPc, level := i.level, moves := i.movesIn g } }).modIss
        fun i => { i with out := .parked }

/-- R298: the one issue of a single step has ended: the group halts with 0x52 at its next instruction. With EN = 0 the
cause does not arise (R297). -/
def State.stepped (s : State) (g : Nat) : State :=
  if (s.group g).stepping && (s.group g).stop.isNone then
    match (if (s.sharedOf g).dbg.getLsbD 0 then selectEntry (s.group g).frontier else none) with
    | some e => (s.stopGroup g 0x52 0 0 false false e.pc e.level e.lanes).modGroup g fun gr => { gr with pairOwed := true }
    | none => s.modGroup g fun gr => { gr with stepping := false }
  else s

/-- A wait ends: the moves of the waiting issue are committed (R46), and it has raised no cause (R287). -/
def State.resume (s : State) (g : Nat) : State :=
  (s.modGroup g fun gr =>
    match gr.parked with
    | none => gr
    | some p =>
      { clearRcnt (gr.commit p.pc p.level p.moves p.kids false) with parked := none, readySince := s.cycle }).stepped g

/-- A waiting group stops at its own instruction (R281); children of a pair's FSPAWN that have not arrived end (log entry
17). -/
def State.stopParked (s : State) (g c : Nat) (sub ea : Nat := 0) : State :=
  match (s.group g).parked with
  | some p =>
    (s.modGroup g fun gr =>
      p.kids.foldl (fun gr m => gr.modLane m.lane fun ln => { ln with live := false }) { gr with parked := none }).stopGroup g c
        sub (BitVec.ofNat 57 ea) false p.pair p.pc p.level (p.moves.map Move.lane)
  | none => s

end Sys2Proof.Machine
end

