-- ==== Sys2Proof/Machine/Operands.lean ====
section
/-! DEFINITION. The operand forms: registers, scalars and predicates as the issuing fibres name them, permutation
patterns (R66, R70, R72, R88), results, and which lanes take part in an instruction (R8, R32, R68, R116). -/

namespace Sys2Proof.Machine

/-! ### Operands (R66, R70, R72, R88) -/

/-- Table 3.9: the source lane of lane `l` under a permutation pattern, in a group of width `w`. -/
def patLane (w p l : Nat) : Nat :=
  if p == 0 then l
  else if p == 1 then w - 1 - l
  else if p ≤ 7 then
    let d := 2 ^ (p - 2)
    if w ≤ d then l else (l ^^^ d) % w
  else if p ≤ 13 then
    let d := 2 ^ (p - 8)
    if w ≤ d then l else (l + w - d) % w
  else 0

/-- Vector register `n` of a slot lane; a lane no fibre fills supplies zero (R72). -/
def State.vreg (s : State) (l n : Nat) : Nat :=
  match s.iss.at? l with
  | none => 0
  | some (g, j) => (s.rgroup g).reg j n

/-- A value of `w` bits in a vector register, or in the pair v(n):v(n+1) when `w` is 64 (R70, R88). -/
def State.vval (s : State) (l n w : Nat) : Nat :=
  if w == 64 then s.vreg l n + 2 ^ 32 * s.vreg l (n + 1) else s.vreg l n % 2 ^ w

/-- Scalar `n` as the fibre of a slot lane names it. -/
def State.sreg (s : State) (l n : Nat) : Nat :=
  match s.iss.at? l with
  | none => 0
  | some (g, _) => (s.rgroup g).scal n

/-- R72: a source operand of `w` bits under its pattern; pattern 15 names a scalar. -/
def State.operand (s : State) (reg : BitVec 8) (pat : BitVec 4) (w l : Nat) : Nat :=
  if pat == 15 then s.sreg l reg.toNat % 2 ^ w
  else s.vval (patLane s.iss.width pat.toNat l) reg.toNat w

def State.opA (s : State) (f : Fields) (w l : Nat) : Nat := s.operand f.a f.ap w l
def State.opB (s : State) (f : Fields) (w l : Nat) : Nat := s.operand f.b f.bp w l
def State.opC (s : State) (f : Fields) (w l : Nat) : Nat := s.operand f.c f.cp w l

/-- The predicate word of the fibre in a slot lane. -/
def State.pw (s : State) (l : Nat) : Word :=
  match s.iss.at? l with
  | none => 0
  | some (g, j) => (s.rgroup g).pred j

def State.q (s : State) (l n : Nat) : Bool := (s.pw l).getLsbD n

/-! ### Results -/

def State.setVreg (s : State) (l n v : Nat) : State :=
  match s.iss.at? l with
  | none => s
  | some (g, j) => s.modGroup g fun gr => gr.setReg j n v

/-- R88, R70: a result of `w` bits, zero above it, or a pair. -/
def State.setVval (s : State) (l n w v : Nat) : State :=
  if w == 64 then (s.setVreg l n (v % 2 ^ 32)).setVreg l (n + 1) (v / 2 ^ 32 % 2 ^ 32)
  else s.setVreg l n (v % 2 ^ w)

def State.setS (s : State) (l n v : Nat) : State :=
  match s.iss.at? l with
  | none => s
  | some (g, _) => s.modGroup g fun gr => gr.putScal n v

def State.setPw (s : State) (l : Nat) (v : Word) : State :=
  match s.iss.at? l with
  | none => s
  | some (g, j) => s.modGroup g fun gr => gr.setPred j v

/-- One predicate bit, the others as they stand. -/
def State.setQ (s : State) (l n : Nat) (b : Bool) : State :=
  match s.iss.at? l with
  | none => s
  | some (g, j) =>
    s.modGroup g fun gr =>
      let w := gr.pred j
      let m := BitVec.ofNat 32 (2 ^ n)
      gr.setPred j (if b then w ||| m else w &&& ~~~m)

/-! ### Which lanes take part (R8, R32, R68, R116) -/

/-- R68: the guard in the fibre of a slot lane. -/
def State.guard (s : State) (g : Guard) (l : Nat) : Bool := !g.ge || (s.q l g.gp.toNat != g.gi)

/-- R8: the lanes of the issued entry whose guard holds. -/
def State.active (s : State) (g : Guard) : List Nat := List.filter (s.guard g) s.iss.entry

/-- R32, R116: the executions of an SR or SI instruction, each named by a slot lane: one, under the guard of the
entry's lowest-numbered fibre, in a grouped kernel; one for each fibre of active in a stream kernel. -/
def State.scalarUnits (s : State) (g : Guard) : List Nat :=
  if s.iss.stream then s.active g
  else
    match s.iss.entry with
    | [] => []
    | l :: _ => if s.guard g l then [l] else []

/-- The executions of an instruction that executes once per issue when active is non-empty, and once for each
fibre of active in a stream kernel (R129, R199, R210, R300). -/
def State.onceUnits (s : State) (g : Guard) : List Nat :=
  if s.iss.stream then s.active g
  else
    match s.active g with
    | [] => []
    | l :: _ => [l]

/-- The fibres a scalar predicate result goes to (R115, R116). -/
def State.unitLanes (s : State) (u : Nat) : List Nat := if s.iss.stream then [u] else s.iss.entry

/-! ### Register forms (R74, R114-R116) -/

/-- R74: an immediate as a value of its type. -/
def immVal (t : Ty) (f : Fields) : Nat :=
  if t == .i64 then wrapN (sextN f.x.toNat 32) 64
  else if tyWidth t == 64 then f.x.toNat
  else f.x.toNat % 2 ^ tyWidth t

/-- Source `k` (0 A, 1 B, 2 C) of `n` in a register form, `w` bits wide. In VI and SI the last source is the
immediate: all of X when it is a count or control (R124), else by R74. -/
def State.src (s : State) (m : Form) (f : Fields) (t : Ty) (n k w : Nat) (ctl : Bool) (l : Nat) : Nat :=
  if m.isImm && k + 1 == n then (if ctl then f.x.toNat else immVal t f)
  else
    let (reg, pat) := match k with
      | 0 => (f.a, f.ap)
      | 1 => (f.b, f.bp)
      | _ => (f.c, f.cp)
    if m.isScalar then s.sreg l reg.toNat % 2 ^ w else s.operand reg pat w l

/-- The executions of a register form: the lanes of active, or the scalar executions. -/
def State.execs (s : State) (m : Form) (g : Guard) : List Nat :=
  if m.isScalar then s.scalarUnits g else s.active g

/-- Writes a result of `w` bits to D, a vector register or pair, or a scalar (R88, R114). -/
def State.setD (s : State) (m : Form) (f : Fields) (w l v : Nat) : State :=
  if m.isScalar then s.setS l f.d.toNat (v % 2 ^ w) else s.setVval l f.d.toNat w v

/-- Writes a predicate result: in the fibre of each execution, or by R115 in every fibre of the entry. -/
def State.setDq (s : State) (m : Form) (f : Fields) (l : Nat) (b : Bool) : State :=
  if m.isScalar then List.foldl (fun t j => t.setQ j (f.d.toNat % 32) b) s (s.unitLanes l)
  else s.setQ l (f.d.toNat % 32) b

end Sys2Proof.Machine
end

