-- ==== Sys2Proof/Machine/Flags.lean ====
section
/-! DEFINITION. The sticky flags (Tables 4.7 and 4.8): a flag is set only to 1, and only SRWR clears it (R109). -/

namespace Sys2Proof.Machine

/-- Sticky flags (Table 4.7): bit positions NV 0, DZ 1, OF 2, UF 3, NX 4, SAT 5, IMX 6. A flag is set only to 1. -/
abbrev Flags := BitVec 7

def flNV : Flags := 1
def flDZ : Flags := 2
def flOF : Flags := 4
def flUF : Flags := 8
def flNX : Flags := 16
def flSAT : Flags := 32
def flIMX : Flags := 64

/-- R109, R110: sets sticky flags of a group or of its stream team. -/
def State.orFlagsOf (s : State) (g : Nat) (fl : Flags) : State :=
  s.modShared g fun sh => { sh with flags := sh.flags ||| fl }

def State.orFlags (s : State) (l : Nat) (fl : Flags) : State :=
  match s.iss.at? l with
  | none => s
  | some (g, _) => s.orFlagsOf g fl

/-- Runs a result over lanes: every value is formed from the state before the instruction, written in ascending
order, and the flags of all are set together (R8, R110). -/
def State.forLanes (s : State) (ls : List Nat) (op : Nat → Nat × Flags) (wr : State → Nat → Nat → State) : State :=
  let t := List.foldl (fun t l => wr t l (op l).1) s ls
  let fl := List.foldl (fun a l => a ||| (op l).2) (0 : Flags) ls
  match ls with
  | [] => t
  | l :: _ => if fl == 0 then t else t.orFlags l fl

/-- The same for a predicate result. -/
def State.forLanesQ (s : State) (ls : List Nat) (op : Nat → Bool) (wr : State → Nat → Bool → State) : State :=
  List.foldl (fun t l => wr t l (op l)) s ls

end Sys2Proof.Machine
end

