-- ==== Sys2Proof/Machine/Numbers.lean ====
section
/-! DEFINITION. Number formats, rounding and sums (04): exact values, their encodings (R90-R92), the outcomes of
Table 4.6, the flags of Table 4.8, block formats (R96-R98) and MXFP8 (R99-R101). Every value is an exact fraction;
a width takes effect only where a rule rounds (R6, R106). -/

namespace Sys2Proof.Machine

/-- A value: NaN, an infinity, or a finite magnitude `n / d` with its sign, which tells −0 from +0. -/
inductive Num where
  | nan
  | inf (neg : Bool)
  | fin (neg : Bool) (n d : Nat)
  deriving DecidableEq, Repr, Inhabited

def numZero (neg : Bool) : Num := .fin neg 0 1
def numOfNat (n : Nat) : Num := .fin false n 1
def numOfInt (i : Int) : Num := .fin (decide (i < 0)) i.natAbs 1
/-- m × 2^e. -/
def numScaled (m : Int) (e : Int) : Num :=
  if 0 ≤ e then .fin (decide (m < 0)) (m.natAbs * 2 ^ e.toNat) 1
  else .fin (decide (m < 0)) m.natAbs (2 ^ (-e).toNat)

def Num.isNan (x : Num) : Bool := match x with | .nan => true | _ => false
def Num.isInf (x : Num) : Bool := match x with | .inf _ => true | _ => false
def Num.isZero (x : Num) : Bool := match x with | .fin _ 0 _ => true | _ => false
def Num.neg? (x : Num) : Bool := match x with | .nan => false | .inf b => b | .fin b _ _ => b
def Num.negate (x : Num) : Num := match x with | .nan => .nan | .inf b => .inf (!b) | .fin b n d => .fin (!b) n d
def Num.abs (x : Num) : Num := match x with | .nan => .nan | .inf _ => .inf false | .fin _ n d => .fin false n d

/-- The signed numerator of a finite value. -/
def Num.snum (x : Num) : Int := match x with | .fin b n _ => if b then -(n : Int) else n | _ => 0
def Num.den (x : Num) : Nat := match x with | .fin _ _ d => d | _ => 1

/-! ### Exact arithmetic with infinities and signed zeros (R93, R94, R153) -/

/-- Sum; ∞ − ∞ is NaN with NV. A zero sum is +0 unless both addends are −0 (R94). -/
def numAdd (a b : Num) : Num × Flags :=
  match a, b with
  | .nan, _ | _, .nan => (.nan, 0)
  | .inf x, .inf y => if x == y then (.inf x, 0) else (.nan, flNV)
  | .inf x, .fin _ _ _ | .fin _ _ _, .inf x => (.inf x, 0)
  | .fin x n d, .fin y m e =>
    if n == 0 && m == 0 then (numZero (x && y), 0)
    else
      let s := (if x then -(n : Int) else n) * (e : Int) + (if y then -(m : Int) else m) * (d : Int)
      (.fin (decide (s < 0)) s.natAbs (d * e), 0)

/-- Product; 0 × ∞ is NaN with NV. -/
def numMul (a b : Num) : Num × Flags :=
  match a, b with
  | .nan, _ | _, .nan => (.nan, 0)
  | .inf x, .inf y => (.inf (x != y), 0)
  | .inf x, .fin y n _ | .fin y n _, .inf x => if n == 0 then (.nan, flNV) else (.inf (x != y), 0)
  | .fin x n d, .fin y m e => (.fin (x != y) (n * m) (d * e), 0)

/-- Quotient (R153): 0/0 and ∞/∞ are NaN with NV; a finite non-zero value over ±0 is ±∞ with DZ. -/
def numDiv (a b : Num) : Num × Flags :=
  match a, b with
  | .nan, _ | _, .nan => (.nan, 0)
  | .inf _, .inf _ => (.nan, flNV)
  | .inf x, .fin y _ _ => (.inf (x != y), 0)
  | .fin x _ _, .inf y => (numZero (x != y), 0)
  | .fin x n d, .fin y m e =>
    if m == 0 then (if n == 0 then (.nan, flNV) else (.inf (x != y), flDZ))
    else (.fin (x != y) (n * e) (d * m), 0)

def numSub (a b : Num) : Num × Flags := numAdd a b.negate

/-- Order of two values that are not NaN, −0 equal to +0. -/
def numLt (a b : Num) : Bool :=
  match a, b with
  | .nan, _ | _, .nan => false
  | .inf x, .inf y => x && !y
  | .inf x, _ => x
  | _, .inf y => !y
  | a, b => decide (a.snum * (b.den : Int) < b.snum * (a.den : Int))

def numEq (a b : Num) : Bool := !a.isNan && !b.isNan && !numLt a b && !numLt b a

/-! ### Rounding (R105, R106) -/

/-- A fraction rounded to an integer: `rna` to the larger magnitude on a tie, else to the even one. -/
def roundFrac (n d : Nat) (rna : Bool) : Nat :=
  let q := n / d
  let r := n % d
  if d < 2 * r then q + 1
  else if 2 * r == d then (if rna || q % 2 == 1 then q + 1 else q)
  else q

/-- n / d divided by 2^u, as a fraction. -/
def scaleFrac (n d : Nat) (u : Int) : Nat × Nat :=
  if 0 ≤ u then (n, d * 2 ^ u.toNat) else (n * 2 ^ (-u).toNat, d)

/-- floor(log2 (n / d)) of a positive fraction. -/
def log2Frac (n d : Nat) : Int :=
  let e : Int := (Nat.log2 n : Int) - (Nat.log2 d : Int)
  let (a, b) := scaleFrac n d e
  if a < b then e - 1 else e

/-- The layout of a floating format (Tables 4.2 and 4.3). -/
structure FloatFmt where
  /-- fraction bits -/
  f : Nat
  /-- exponent bits -/
  eb : Nat
  bias : Nat
  /-- narrower than 16 bits: round_rna (R105) -/
  rna : Bool
  deriving DecidableEq, Repr, Inhabited

def floatFmt (t : Ty) : FloatFmt :=
  match t with
  | .f16 => ⟨10, 5, 15, false⟩
  | .bf16 => ⟨7, 8, 127, false⟩
  | .e5m2 | .mx8e5 => ⟨2, 5, 15, true⟩
  | .e4m3 | .mx8e4 => ⟨3, 4, 7, true⟩
  | _ => ⟨23, 8, 127, false⟩

def FloatFmt.width (k : FloatFmt) : Nat := 1 + k.eb + k.f
/-- E4M3 has no infinities (R92): its largest exponent field is a normal one but for the NaN code. -/
def FloatFmt.e4m3 (k : FloatFmt) : Bool := k.eb == 4
def FloatFmt.emaxField (k : FloatFmt) : Nat := 2 ^ k.eb - 1
/-- The bits of the largest finite value. -/
def FloatFmt.maxFin (k : FloatFmt) : Nat :=
  if k.e4m3 then 2 ^ (k.eb + k.f) - 2 else k.emaxField * 2 ^ k.f - 1
def FloatFmt.infBits (k : FloatFmt) : Nat := k.emaxField * 2 ^ k.f
/-- The NaN every unit produces (Table 4.3). -/
def FloatFmt.nanBits (k : FloatFmt) : Nat :=
  if k.e4m3 then 2 ^ (k.eb + k.f) - 1 else k.emaxField * 2 ^ k.f + 2 ^ (k.f - 1)

/-- R91, Table 4.3: the value of an encoding. -/
def floatVal (t : Ty) (bits : Nat) : Num :=
  let k := floatFmt t
  let s := bitOf bits (k.eb + k.f)
  let e := bitsOf bits k.f k.eb
  let m := bitsOf bits 0 k.f
  if k.e4m3 && e == k.emaxField && m == 2 ^ k.f - 1 then .nan
  else if !k.e4m3 && e == k.emaxField then (if m == 0 then .inf s else .nan)
  else if e == 0 then
    let x := numScaled m (1 - (k.bias : Int) - k.f)
    .fin s x.snum.natAbs x.den
  else
    let x := numScaled (2 ^ k.f + m : Nat) ((e : Int) - k.bias - k.f)
    .fin s x.snum.natAbs x.den

/-- Table 4.6 with the flags of Table 4.8: a value rounded once to a floating format (R105, R107). A zero keeps its
sign; NX is set when the delivered value differs, UF when a non-zero value is delivered inexact below the smallest
normal. `sat` is SAT in place of OF for the 8-bit formats. -/
def roundFloat (t : Ty) (x : Num) : Nat × Flags :=
  let k := floatFmt t
  let sgn := fun b => if b then 2 ^ (k.eb + k.f) else 0
  match x with
  | .nan => (k.nanBits, 0)
  | .inf b => if k.e4m3 then (k.nanBits, flNV) else (sgn b + k.infBits, 0)
  | .fin b 0 _ => (sgn b, 0)
  | .fin b n d =>
    let emin : Int := 1 - (k.bias : Int)
    let u : Int := max (log2Frac n d) emin - k.f
    let (a, c) := scaleFrac n d u
    let m0 := roundFrac a c k.rna
    let (m, u) := if m0 == 2 ^ (k.f + 1) then (2 ^ k.f, u + 1) else (m0, u)
    let inexact := m0 * c != a
    let enc := if m < 2 ^ k.f then m else ((u + k.f + k.bias).toNat) * 2 ^ k.f + (m - 2 ^ k.f)
    if k.maxFin < enc then
      if k.rna then (sgn b + k.maxFin, flSAT ||| flNX) else (sgn b + k.infBits, flOF ||| flNX)
    else
      (sgn b + enc,
        (if inexact then flNX else 0) ||| (if inexact && enc < 2 ^ k.f then flUF else 0))

/-- The value a rounded result holds. -/
def roundNum (t : Ty) (x : Num) : Num × Flags :=
  let (v, fl) := roundFloat t x
  (floatVal t v, fl)

/-- R153: an expression over sources: NaN when a source is NaN, with no flag; else its exact value, with NV where it
meets ∞ − ∞ or 0 × ∞, rounded once. -/
def floatExpr (t : Ty) (xs : List Num) (e : Num × Flags) : Nat × Flags :=
  if xs.any Num.isNan then ((floatFmt t).nanBits, 0)
  else
    let (v, fl) := roundFloat t e.1
    (v, fl ||| e.2)

/-- A × B + C with each step exact. -/
def numFma (a b c : Num) : Num × Flags :=
  let p := numMul a b
  let r := numAdd p.1 c
  (r.1, p.2 ||| r.2)

/-- The integer square root of a number below 2^(2k). -/
def isqrtBits (x : Nat) : Nat → Nat
  | 0 => 0
  | k + 1 =>
    let r := 2 * isqrtBits (x / 4) k
    if (r + 1) * (r + 1) ≤ x then r + 1 else r

/-- √(n/d) as a fraction that rounds as the exact root does: 40 significant bits, with a sticky bit when the root is
not exact. -/
def sqrtFrac (n d : Nat) : Nat × Nat :=
  let e := (log2Frac n d) / 2
  let k : Int := 40 - e
  let (a, c) := scaleFrac n d (-2 * k)
  let q := a / c
  let r := isqrtBits q 44
  let exact := r * r * c == a
  let (n', d') := scaleFrac (if exact then 2 * r else 2 * r + 1) 2 k
  (n', d')

/-- FSQRT (R153). -/
def numSqrt (a : Num) : Num × Flags :=
  match a with
  | .nan => (.nan, 0)
  | .inf b => if b then (.nan, flNV) else (.inf false, 0)
  | .fin b 0 _ => (numZero b, 0)
  | .fin true _ _ => (.nan, flNV)
  | .fin false n d => let (x, y) := sqrtFrac n d; (.fin false x y, 0)

/-! ### Integral values (R158, R163) -/

/-- Table 6.5: the integral value of a finite number: 0 nearest (ties by `rna`), 1 toward zero, 2 toward −∞, 3
toward +∞. -/
def integral (mode : Nat) (rna : Bool) (neg : Bool) (n d : Nat) : Int :=
  let q := n / d
  let up := if n % d == 0 then q else q + 1
  let m := match mode with
    | 0 => roundFrac n d rna
    | 1 => q
    | 2 => if neg then up else q
    | _ => if neg then q else up
  if neg then -(m : Int) else m

/-- Whether a finite value is exactly an integer. -/
def numIsInt (x : Num) (i : Int) : Bool := x.snum == i * (x.den : Int)

/-! ### Blocks (R96-R98) -/

/-- round_rna of a signed fraction to an integer. -/
def rnaInt (x : Num) (u : Int) : Int :=
  match x with
  | .fin b n d => let (a, c) := scaleFrac n d u; let m := roundFrac a c true; if b then -(m : Int) else m
  | _ => 0

def numMaxAbs (xs : List Num) : Num :=
  xs.foldl (fun m x => if numLt m x.abs then x.abs else m) (numZero false)

/-- The mantissas of a block at scale `s` (R98). -/
def bxMantissas (w s : Nat) (xs : List Num) : List Int :=
  xs.map fun x => rnaInt x ((s : Int) - 127 - ((w : Int) - 1))

def maxAbsInt (ms : List Int) : Nat := ms.foldl (fun m x => max m x.natAbs) 0

/-- R98: the scale byte and mantissas of a block, with its flags. For a source in FP8 or MXFP8
(`imx`) IMX stands in the place of NX throughout the rule (DEDUCED, log entry 14). -/
def bxEncode (w : Nat) (imx : Bool) (xs : List Num) : Nat × List Int × Flags :=
  let lim := 2 ^ (w - 1) - 1
  if xs.any fun x => x.isNan || x.isInf then
    (0xFF, xs.map fun _ => 0, if xs.any Num.isInf then flNV else 0)
  else if xs.all Num.isZero then (0, xs.map fun _ => 0, 0)
  else
    match numMaxAbs xs with
    | .fin _ n d =>
      let s0 := log2Frac n d + 128
      let tiny := s0 < 1
      let s1 : Nat := (min (max s0 1) 254).toNat
      let m1 := bxMantissas w s1 xs
      let s := if maxAbsInt m1 ≤ lim || s1 == 254 then s1 else s1 + 1
      let ms := if s == s1 then m1 else bxMantissas w s xs
      let cl := ms.map fun m => if lim < m.natAbs then (if m < 0 then -(lim : Int) else lim) else m
      let sat := ms.any fun m => lim < m.natAbs
      let u : Int := (s : Int) - 127 - ((w : Int) - 1)
      let nx := (xs.zip cl).any fun p => !numEq p.1 (numScaled p.2 u)
      let fl := (if sat then flSAT else 0) ||| (if nx then (if imx then flIMX else flNX) else 0) |||
        (if tiny && nx then flUF else 0)
      (if cl.all (· == 0) then 0 else s, cl, fl)
    | _ => (0, xs.map fun _ => 0, 0)

/-- R97: the value of one mantissa under a scale byte. -/
def bxVal (w s : Nat) (m : Int) : Num :=
  if s == 0 then numZero false
  else if s == 0xFF then .nan
  else if m == 0 then numZero false
  else numScaled m ((s : Int) - 127 - ((w : Int) - 1))

/-- R96: the mantissa in container `i` of a 512-bit payload. -/
def bxMant (t : Ty) (payload i : Nat) : Int := sextN (bitsOf payload (bxContainer t * i) (tyWidth t)) (tyWidth t)

/-- R97: element `i` of a block. -/
def bxElem (t : Ty) (payload s i : Nat) : Num := bxVal (tyWidth t) s (bxMant t payload i)

/-- R96: mantissas packed into a payload, sign-extended in their containers; zero blocks are all zero (R97). -/
def bxPack (t : Ty) (ms : List Int) : Nat :=
  match ms with
  | [] => 0
  | m :: r => wrapN m (bxContainer t) + 2 ^ bxContainer t * bxPack t r

/-- R98 into a payload and descriptor word (Table 4.5): the scale byte above the type code. -/
def bxBlock (t : Ty) (imx : Bool) (xs : List Num) : Nat × Nat × Flags :=
  let (s, ms, fl) := bxEncode (tyWidth t) imx xs
  (bxPack t ms, s * 256 + tyCode t, fl)

/-! ### MXFP8 (R100, R101) -/

/-- R100: the value of an MXFP8 element under its E8M0 scale. -/
def mxVal (t : Ty) (x e : Nat) : Num :=
  if x == 0xFF then .nan
  else (numMul (floatVal t e) (numScaled 1 ((x : Int) - 127))).1

/-- R101: the scale and element bytes of 32 values. -/
def mxEncode (t : Ty) (xs : List Num) : Nat × List Nat × Flags :=
  let nanB := (floatFmt t).nanBits
  if xs.any fun x => x.isNan || x.isInf then
    (0xFF, xs.map fun _ => nanB, if xs.any Num.isInf then flNV else 0)
  else if xs.all Num.isZero then (0, xs.map fun _ => 0, 0)
  else
    match numMaxAbs xs with
    | .fin _ n d =>
      let emax : Int := if (floatFmt t).e4m3 then 8 else 15
      let x : Nat := (min (max (log2Frac n d - emax + 127) 0) 254).toNat
      let es := xs.map fun v => roundFloat t (numMul v (numScaled 1 (127 - (x : Int)))).1
      (x, es.map Prod.fst, es.foldl (fun a e => a ||| e.2) 0)
    | _ => (0, xs.map fun _ => 0, 0)

/-! ### A value of any type (R91, R163) -/

/-- The value of a number's bits as a type. -/
def tyVal (t : Ty) (bits : Nat) : Num :=
  if tyInt t then numOfInt (if tySigned t then sextN bits (tyWidth t) else (bits % 2 ^ tyWidth t : Nat))
  else floatVal t bits

end Sys2Proof.Machine
end

