-- ==== Sys2Proof/Machine/Approx.lean ====
section
/-! DEFINITION. The approximated functions (06 R160, R161, Table 6.6): their true values, to a precision beyond every
bound of the table, and which delivered values lie within the bound. -/

namespace Sys2Proof.Machine

/-! ### True values, in units of 2^-256 -/

def fix1 : Nat := 2 ^ 256
def fixMul (a b : Nat) : Nat := a * b / fix1
/-- π and ln 2. -/
def fixPi : Nat := 0x3243f6a8885a308d313198a2e03707344a4093822299f31d0082efa98ec4e6c89
def fixLn2 : Nat := 0xb17217f7d1cf79abc9e3b39803f2f6af40f343267298b62d8a0d175b8baafa2b

/-- The terms of a power series from `t`, each of them the last by `z` over the next of `k`, `k + 1`, ... -/
def fixExpFrom (z t k : Nat) : Nat → Nat
  | 0 => t
  | n + 1 => t + fixExpFrom z (fixMul t z / k) (k + 1) n

/-- θ - θ³/3! + θ⁵/5! - ..., of `z` = θ² from its term `t`. -/
def fixSinFrom (z : Nat) (t : Int) (k : Nat) : Nat → Int
  | 0 => t
  | n + 1 => t + fixSinFrom z (-(t * (z : Int)) / ((fix1 * (k * (k + 1)) : Nat) : Int)) (k + 2) n

/-- 2^w as n and F in [1, 2) with 2^w = F × 2^n. -/
def fixExp2 (w : Nat) : Nat × Nat := (w / fix1, fixExpFrom (fixMul (w % fix1) fixLn2) fix1 1 70)

/-- e^x, of a fraction no larger than 200. -/
def fixExp (n d : Nat) : Nat :=
  let (k, f) := fixExp2 (n * fix1 * fix1 / (d * fixLn2))
  f * 2 ^ k

/-- Digits of log2 m below the point, m in [1, 2). -/
def fixLogDigits (m : Nat) : Nat → Nat
  | 0 => 0
  | n + 1 =>
    let q := fixMul m m
    if 2 * fix1 ≤ q then 2 ^ n + fixLogDigits (q / 2) n else fixLogDigits q n

def numFix (b : Bool) (v : Nat) : Num := .fin b v fix1

/-- sin(2πt) of a fraction t = n/d. -/
def turnSin (b : Bool) (n d : Nat) : Num :=
  let n := n % d
  let half := decide (d ≤ 2 * n)
  let n := if half then 2 * n - d else 2 * n
  let n := if d < 2 * n then d - n else n
  let th := n * fixPi / d
  numFix (b != half) (fixSinFrom (fixMul th th) th 2 40).natAbs

/-- The true value of an approximated function of a finite operand that Table 6.6 does not list, by opcode. -/
def approxTrue (op : Nat) (b : Bool) (n d : Nat) : Num :=
  match op with
  | 0x43 => .fin false (isqrtBits (d * 2 ^ 800 / n) 520) (2 ^ 400)
  | 0x44 =>
    let i := min (n / d) 2000
    let f := (fixExp2 (n % d * fix1 / d)).2
    if b then .fin false fix1 (f * 2 ^ i) else .fin false (f * 2 ^ i) fix1
  | 0x45 =>
    let e := log2Frac n d
    let (a, c) := scaleFrac n d e
    let v : Int := e * 2 ^ 128 + (fixLogDigits (a * fix1 / c) 128 : Int)
    .fin (decide (v < 0)) v.natAbs (2 ^ 128)
  | 0x46 => turnSin b n d
  | 0x47 => turnSin false (4 * n + d) (4 * d)
  | 0x48 =>
    let e := fixExp (2 * n) d
    .fin b (e - fix1) (e + fix1)
  | _ =>
    let e := if 200 * d < n then fixExp 200 1 else fixExp n d
    if b then .fin false fix1 (e + fix1) else .fin false e (e + fix1)

/-! ### The bounds of Table 6.6 -/

/-- One unit in the last place of a type at a magnitude: 2^u. -/
def ulpExp (t : Ty) (n d : Nat) : Int :=
  let k := floatFmt t
  (if n == 0 then 1 - (k.bias : Int) else max (log2Frac n d) (1 - (k.bias : Int))) - k.f

/-- |a - b| ≤ c × 2^u, of signed fractions. -/
def fracNear (a : Int) (d : Nat) (b : Int) (e : Nat) (c : Nat) (u : Int) : Bool :=
  let diff := (a * (e : Int) - b * (d : Int)).natAbs
  let (x, y) := scaleFrac diff (d * e) u
  x ≤ c * y

/-- The bounds of a function for a type and operand, as multiples of powers of two, any of which may be met. -/
def approxBounds (op : Nat) (t : Ty) (n d : Nat) (y : Num) : List (Nat × Int) :=
  let u := ulpExp t y.snum.natAbs y.den
  if t != .f32 then [(1, u)]
  else
    match op with
    | 0x45 => [(1, u)] ++ (if d ≤ 2 * n && n ≤ 2 * d then [(1, -22)] else [])
    | 0x46 | 0x47 => [(1, -22)]
    | 0x48 => [(2, u)]
    | 0x49 => [(2, u), (1, -24)]
    | _ => [(1, u)]

/-- A delivered value lies within the bound; an infinity stands for the power of two past the largest value. -/
def approxNear (op : Nat) (t : Ty) (n d : Nat) (y r : Num) : Bool :=
  let bs := approxBounds op t n d y
  match r with
  | .nan => false
  | .fin _ _ _ => bs.any fun c => fracNear r.snum r.den y.snum y.den c.1 c.2
  | .inf b => !b && bs.any fun c => fracNear (2 ^ ((floatFmt t).bias + 1)) 1 y.snum y.den c.1 c.2

/-- What is delivered where Table 6.6 lists no value: a free pattern of T, one for each operand pattern (R161), when it
is within the bound; else the true value rounded. -/
def approxBits (op : Nat) (t : Ty) (a : Nat) : Nat :=
  match floatVal t a with
  | .fin b n d =>
    let y := approxTrue op b n d
    let r := Config.approx op (tyCode t) a % 2 ^ tyWidth t
    if approxNear op t n d y (floatVal t r) then r else (roundFloat t y).1
  | _ => 0

end Sys2Proof.Machine
end

