-- ==== Sys2Proof/Machine/Integer.lean ====
section
/-! DEFINITION. Moves, selects, predicates, integer arithmetic, logic, shifts, bit fields and addresses
(05 R114-R127): VR rows 0 to 2 with their VI, SR and SI forms. -/

namespace Sys2Proof.Machine

/-- A value of `t` as an integer: signed for .i types (R89). -/
def intVal (t : Ty) (x : Nat) : Int := if tySigned t then sextN x (tyWidth t) else (x % 2 ^ tyWidth t : Nat)

def intMin (t : Ty) : Int := if tySigned t then -((2 ^ (tyWidth t - 1) : Nat) : Int) else 0
def intMax (t : Ty) : Int :=
  if tySigned t then ((2 ^ (tyWidth t - 1) : Nat) : Int) - 1 else ((2 ^ tyWidth t : Nat) : Int) - 1

/-- sat(x, T) of Table 0.4, with SAT when it clamps. -/
def satInt (t : Ty) (x : Int) : Nat × Flags :=
  if x < intMin t then (wrapN (intMin t) (tyWidth t), flSAT)
  else if intMax t < x then (wrapN (intMax t) (tyWidth t), flSAT)
  else (wrapN x (tyWidth t), 0)

/-- A register form whose sources and result are values of T: `op` maps the sources' bits to a result of `w` bits. -/
def intExec (m : Form) (g : Guard) (f : Fields) (ws : List Nat) (ctl : Bool) (w : Nat)
    (op : List Nat → Nat × Flags) (s : State) : Res :=
  let t := formTyD m f
  issued s fun _ =>
    s.forLanes (s.execs m g)
      (fun l => op (ws.mapIdx fun k sw => s.src m f t ws.length k sw (ctl && k + 1 == ws.length) l))
      (fun u l v => u.setD m f w l v)

/-- Sources and result of T's width, an exact integer result kept to w bits (R121). -/
def arithExec (m : Form) (g : Guard) (f : Fields) (n : Nat) (op : Ty → List Int → Int) (s : State) : Res :=
  let t := formTyD m f
  let w := tyWidth t
  intExec m g f (List.replicate n w) false w (fun xs => (wrapN (op t (xs.map (intVal t))) w, 0)) s

/-- Sources and result of T's width as bit strings (R123). -/
def logicExec (m : Form) (g : Guard) (f : Fields) (n : Nat) (op : Nat → List Nat → Nat) (s : State) : Res :=
  let w := tyWidth (formTyD m f)
  intExec m g f (List.replicate n w) false w (fun xs => (op w xs % 2 ^ w, 0)) s

/-- A register form with a predicate result (R115). -/
def predExec (m : Form) (g : Guard) (f : Fields) (ws : List Nat) (op : List Nat → Bool) (s : State) : Res :=
  let t := formTyD m f
  issued s fun _ =>
    s.forLanesQ (s.execs m g)
      (fun l => op (ws.mapIdx fun k sw => s.src m f t ws.length k sw false l))
      (fun u l b => u.setDq m f l b)

/-! ### Moves, selects and predicates (R118, R119) -/

/-- NOP (R127) changes no state but the PC. -/
def execNop (_g : Guard) (_f : Fields) (s : State) : Res := issued s fun _ => s

/-- MOV (R119). -/
def execMov (m : Form) (g : Guard) (f : Fields) (s : State) : Res :=
  logicExec m g f 1 (fun _ xs => xs.getD 0 0) s

/-- The predicate a scalar form reads: that of the entry's lowest-numbered fibre, or in a stream kernel of each
fibre (R119). -/
def State.unitQ (s : State) (m : Form) (l n : Nat) : Bool :=
  if m.isScalar && !s.iss.stream then s.q (s.iss.entry.headD 0) n else s.q l n

/-- ISEL (R119). -/
def execIsel (m : Form) (g : Guard) (f : Fields) (s : State) : Res :=
  let t := formTyD m f
  let w := tyWidth t
  issued s fun _ =>
    s.forLanes (s.execs m g)
      (fun l => (if s.unitQ m l (f.xf 12 5) then s.src m f t 2 0 w false l else s.src m f t 2 1 w false l, 0))
      (fun u l v => u.setD m f w l v)

/-- PPACK (R119): eight predicate bits into byte K, the other bytes unchanged. -/
def execPpack (g : Guard) (f : Fields) (s : State) : Res :=
  let j := f.xf 12 5
  let k := f.xf 17 2
  issued s fun _ =>
    s.forLanes (s.active g)
      (fun l => (setBits (s.vreg l f.d.toNat) (8 * k) 8 ((s.pw l).toNat / 2 ^ j), 0))
      (fun u l v => u.setVreg l f.d.toNat v)

/-- PUNPK (R119): byte K into eight predicate bits. -/
def execPunpk (g : Guard) (f : Fields) (s : State) : Res :=
  let j := f.xf 12 5
  let k := f.xf 17 2
  issued s fun _ =>
    s.forLanes (s.active g)
      (fun l => (bitsOf (s.opA f 32 l) (8 * k) 8, 0))
      (fun u l v => (List.range 8).foldl (fun u i => u.setQ l (j + i) (bitOf v i)) u)

/-- PSET (R119): a four-entry lookup table of two predicates. -/
def execPset (g : Guard) (f : Fields) (s : State) : Res :=
  issued s fun _ =>
    s.forLanesQ (s.active g)
      (fun l => bitOf (f.xf 22 4) ((s.q l (f.xf 12 5)).toNat + 2 * (s.q l (f.xf 17 5)).toNat))
      (fun u l b => u.setQ l (f.d.toNat % 32) b)

/-- PMOV (R119): the predicate word to a register, or a register to it. -/
def execPmov (m : Form) (g : Guard) (f : Fields) (s : State) : Res :=
  issued s fun _ =>
    if f.xf 12 1 == 0 then
      s.forLanes (s.execs m g)
        (fun l => ((if m.isScalar && !s.iss.stream then s.pw (s.iss.entry.headD 0) else s.pw l).toNat, 0))
        (fun u l v => u.setD m f 32 l v)
    else
      s.forLanes (s.execs m g)
        (fun l => (if m.isScalar then s.sreg l f.a.toNat else s.opA f 32 l, 0))
        (fun u l v =>
          (if m.isScalar then s.unitLanes l else [l]).foldl (fun u j => u.setPw j (BitVec.ofNat 32 v)) u)

/-! ### Compare (R120) -/

/-- Table 5.2. -/
def icmpHolds (t : Ty) (c a b : Nat) : Bool :=
  let x := intVal t a
  let y := intVal t b
  match c with
  | 0 => a == b
  | 1 => a != b
  | 2 => decide (x < y)
  | 3 => decide (x ≤ y)
  | 4 => decide (y < x)
  | 5 => decide (y ≤ x)
  | 6 => (a &&& b) != 0
  | _ => (a &&& b) == 0

/-- ICMP (R120). -/
def execIcmp (m : Form) (g : Guard) (f : Fields) (s : State) : Res :=
  let t := formTyD m f
  let w := tyWidth t
  predExec m g f [w, w] (fun xs => icmpHolds t (bitsOf f.d.toNat 5 3) (xs.getD 0 0) (xs.getD 1 0)) s

/-! ### Addresses (R125, R126) -/

/-- R125: a 57-bit address plus an extended offset times 2^sh, bits [63:57] written 0. -/
def addrAdd (t : Ty) (a b sh : Nat) : Nat :=
  wrapN ((a % 2 ^ 57 : Nat) + (if tySigned t then sextN b (tyWidth t) else (b : Int)) * (2 ^ sh : Nat)) 57

/-- AADD (R125). -/
def execAadd (m : Form) (g : Guard) (f : Fields) (s : State) : Res :=
  let t := formTyD m f
  intExec m g f [64, tyWidth t] false 64 (fun xs => (addrAdd t (xs.getD 0 0) (xs.getD 1 0) 0, 0)) s

/-- ALEA (R125). -/
def execAlea (m : Form) (g : Guard) (f : Fields) (s : State) : Res :=
  let t := formTyD m f
  intExec m g f [64, tyWidth t] false 64 (fun xs => (addrAdd t (xs.getD 0 0) (xs.getD 1 0) (f.xf 12 3), 0)) s

/-- R126: whether an address lies in a region. -/
def inRegion (a b c : Nat) : Bool :=
  let x := a % 2 ^ 57
  let lo := b % 2 ^ 57
  decide (lo ≤ x) && decide (x - lo < c)

/-- ACHK (R126). -/
def execAchk (m : Form) (g : Guard) (f : Fields) (s : State) : Res :=
  predExec m g f [64, 64, 64] (fun xs => inRegion (xs.getD 0 0) (xs.getD 1 0) (xs.getD 2 0)) s

/-! ### Integer arithmetic (R121, R122) -/

/-- IADD (R121). -/
def execIadd (m : Form) (g : Guard) (f : Fields) (s : State) : Res :=
  arithExec m g f 2 (fun _ xs => xs.getD 0 0 + xs.getD 1 0) s
/-- ISUB (R121). -/
def execIsub (m : Form) (g : Guard) (f : Fields) (s : State) : Res :=
  arithExec m g f 2 (fun _ xs => xs.getD 0 0 - xs.getD 1 0) s
/-- IMUL (R121). -/
def execImul (m : Form) (g : Guard) (f : Fields) (s : State) : Res :=
  arithExec m g f 2 (fun _ xs => xs.getD 0 0 * xs.getD 1 0) s
/-- IMULH (R121): floor(A × B / 2^w). -/
def execImulh (m : Form) (g : Guard) (f : Fields) (s : State) : Res :=
  arithExec m g f 2 (fun t xs => xs.getD 0 0 * xs.getD 1 0 / ((2 ^ tyWidth t : Nat) : Int)) s
/-- IMULW (R121): A × B kept to 2w bits. -/
def execImulw (m : Form) (g : Guard) (f : Fields) (s : State) : Res :=
  let t := formTyD m f
  let w := tyWidth t
  intExec m g f [w, w] false (2 * w)
    (fun xs => (wrapN (intVal t (xs.getD 0 0) * intVal t (xs.getD 1 0)) (2 * w), 0)) s
/-- IMAD (R121). -/
def execImad (m : Form) (g : Guard) (f : Fields) (s : State) : Res :=
  arithExec m g f 3 (fun _ xs => xs.getD 0 0 * xs.getD 1 0 + xs.getD 2 0) s

/-- R122: a division of integers; a zero divisor gives `z` and sets DZ. -/
def divExec (m : Form) (g : Guard) (f : Fields) (op : Int → Int → Int) (z : Int → Int) (s : State) : Res :=
  let t := formTyD m f
  let w := tyWidth t
  intExec m g f [w, w] false w
    (fun xs =>
      let a := intVal t (xs.getD 0 0)
      let b := intVal t (xs.getD 1 0)
      if b == 0 then (wrapN (z a) w, flDZ) else (wrapN (op a b) w, 0)) s

/-- IDIV (R121, R122): trunc(A / B). -/
def execIdiv (m : Form) (g : Guard) (f : Fields) (s : State) : Res := divExec m g f Int.tdiv (fun _ => 0) s
/-- IREM (R121, R122): A − B × trunc(A / B). -/
def execIrem (m : Form) (g : Guard) (f : Fields) (s : State) : Res := divExec m g f Int.tmod (fun a => a) s
/-- IMIN (R121). -/
def execImin (m : Form) (g : Guard) (f : Fields) (s : State) : Res :=
  arithExec m g f 2 (fun _ xs => min (xs.getD 0 0) (xs.getD 1 0)) s
/-- IMAX (R121). -/
def execImax (m : Form) (g : Guard) (f : Fields) (s : State) : Res :=
  arithExec m g f 2 (fun _ xs => max (xs.getD 0 0) (xs.getD 1 0)) s
/-- IABS (R121). -/
def execIabs (m : Form) (g : Guard) (f : Fields) (s : State) : Res :=
  arithExec m g f 1 (fun _ xs => ((xs.getD 0 0).natAbs : Int)) s
/-- INEG (R121). -/
def execIneg (m : Form) (g : Guard) (f : Fields) (s : State) : Res :=
  arithExec m g f 1 (fun _ xs => -(xs.getD 0 0)) s

/-- Saturating arithmetic (R121): SAT when it clamps. -/
def satExec (m : Form) (g : Guard) (f : Fields) (op : Int → Int → Int) (s : State) : Res :=
  let t := formTyD m f
  let w := tyWidth t
  intExec m g f [w, w] false w
    (fun xs => satInt t (op (intVal t (xs.getD 0 0)) (intVal t (xs.getD 1 0)))) s

/-- IADDS (R121). -/
def execIadds (m : Form) (g : Guard) (f : Fields) (s : State) : Res := satExec m g f (· + ·) s
/-- ISUBS (R121). -/
def execIsubs (m : Form) (g : Guard) (f : Fields) (s : State) : Res := satExec m g f (· - ·) s
/-- ISAD (R121): abs(A − B) + C. -/
def execIsad (m : Form) (g : Guard) (f : Fields) (s : State) : Res :=
  arithExec m g f 3 (fun _ xs => ((xs.getD 0 0 - xs.getD 1 0).natAbs : Int) + xs.getD 2 0) s

/-- R121: the four byte products of IDOT4, bytes signed for .i32. -/
def dot4 (sg : Bool) (a b : Nat) : Int :=
  let by' := fun x k => if sg then sextN (bitsOf x (8 * k) 8) 8 else (bitsOf x (8 * k) 8 : Int)
  (List.range 4).foldl (fun acc k => acc + by' a k * by' b k) 0

/-- IDOT4 (R121). -/
def execIdot4 (g : Guard) (f : Fields) (s : State) : Res :=
  let t := formTyD .vr f
  intExec .vr g f [32, 32, 32] false 32
    (fun xs => (wrapN (intVal t (xs.getD 2 0) + dot4 (tySigned t) (xs.getD 0 0) (xs.getD 1 0)) 32, 0)) s

/-! ### Logic, shifts and bit fields (R123, R124) -/

/-- AND (R123). -/
def execAnd (m : Form) (g : Guard) (f : Fields) (s : State) : Res :=
  logicExec m g f 2 (fun _ xs => xs.getD 0 0 &&& xs.getD 1 0) s
/-- OR (R123). -/
def execOr (m : Form) (g : Guard) (f : Fields) (s : State) : Res :=
  logicExec m g f 2 (fun _ xs => xs.getD 0 0 ||| xs.getD 1 0) s
/-- XOR (R123). -/
def execXor (m : Form) (g : Guard) (f : Fields) (s : State) : Res :=
  logicExec m g f 2 (fun _ xs => xs.getD 0 0 ^^^ xs.getD 1 0) s
/-- NOT (R123). -/
def execNot (m : Form) (g : Guard) (f : Fields) (s : State) : Res :=
  logicExec m g f 1 (fun w xs => 2 ^ w - 1 - xs.getD 0 0) s
/-- ANDN (R123): A AND NOT B. -/
def execAndn (m : Form) (g : Guard) (f : Fields) (s : State) : Res :=
  logicExec m g f 2 (fun w xs => xs.getD 0 0 &&& (2 ^ w - 1 - xs.getD 1 0)) s

/-- A shift or bit-field instruction: `n` sources, the last a 32-bit count or control (R124). -/
def ctlExec (m : Form) (g : Guard) (f : Fields) (n : Nat) (op : Ty → List Nat → Nat) (s : State) : Res :=
  let t := formTyD m f
  let w := tyWidth t
  intExec m g f (List.replicate (n - 1) w ++ [32]) true w (fun xs => (op t xs % 2 ^ w, 0)) s

def shlBits (w a b : Nat) : Nat := a * 2 ^ (b % 256) % 2 ^ w
def shrBits (a b : Nat) : Nat := a / 2 ^ (b % 256)
def sarBits (w a b : Nat) : Nat := wrapN (sextN a w / ((2 ^ (b % 256) : Nat) : Int)) w
def rotBits (w a b : Nat) : Nat :=
  let k := b % 256 % w
  (a * 2 ^ k + a / 2 ^ (w - k)) % 2 ^ w

/-- SHL (R124). -/
def execShl (m : Form) (g : Guard) (f : Fields) (s : State) : Res :=
  ctlExec m g f 2 (fun t xs => shlBits (tyWidth t) (xs.getD 0 0) (xs.getD 1 0)) s
/-- SHR (R124). -/
def execShr (m : Form) (g : Guard) (f : Fields) (s : State) : Res :=
  ctlExec m g f 2 (fun _ xs => shrBits (xs.getD 0 0) (xs.getD 1 0)) s
/-- SAR (R124): arithmetic whatever T. -/
def execSar (m : Form) (g : Guard) (f : Fields) (s : State) : Res :=
  ctlExec m g f 2 (fun t xs => sarBits (tyWidth t) (xs.getD 0 0) (xs.getD 1 0)) s
/-- ROT (R124). -/
def execRot (m : Form) (g : Guard) (f : Fields) (s : State) : Res :=
  ctlExec m g f 2 (fun t xs => rotBits (tyWidth t) (xs.getD 0 0) (xs.getD 1 0)) s

/-- R124: bit-field extract by a control. -/
def bfxBits (t : Ty) (a b : Nat) : Nat :=
  let w := tyWidth t
  let p := bitsOf b 0 8
  let n := min (bitsOf b 8 8) w
  let fl := a % 2 ^ w / 2 ^ p % 2 ^ n
  if tySigned t && n != 0 then wrapN (sextN fl n) w else fl

/-- R124: bit-field insert of A into B by a control. -/
def bfiBits (w a b c : Nat) : Nat :=
  let p := bitsOf c 0 8
  let n := min (bitsOf c 8 8) w
  let msk := (2 ^ n - 1) * 2 ^ p % 2 ^ w
  ((b &&& (2 ^ w - 1 - msk)) ||| (a * 2 ^ p % 2 ^ w &&& msk)) % 2 ^ w

/-- BFX (R124). -/
def execBfx (m : Form) (g : Guard) (f : Fields) (s : State) : Res :=
  ctlExec m g f 2 (fun t xs => bfxBits t (xs.getD 0 0) (xs.getD 1 0)) s
/-- BFI (R124). -/
def execBfi (m : Form) (g : Guard) (f : Fields) (s : State) : Res :=
  ctlExec m g f 3 (fun t xs => bfiBits (tyWidth t) (xs.getD 0 0) (xs.getD 1 0) (xs.getD 2 0)) s

/-- Zeros above the highest one bit of the low `n` bits; `n` when there is none. -/
def clzBits (x : Nat) : Nat → Nat
  | 0 => 0
  | n + 1 => if bitOf x n then 0 else 1 + clzBits x n

/-- Bit i to bit n−1−i. -/
def brevBits (x : Nat) : Nat → Nat
  | 0 => 0
  | n + 1 => bitsOf x n 1 + 2 * brevBits x n

/-- POPC (R123). -/
def execPopc (m : Form) (g : Guard) (f : Fields) (s : State) : Res :=
  logicExec m g f 1 (fun w xs => popCount (xs.getD 0 0) w) s
/-- CLZ (R123). -/
def execClz (m : Form) (g : Guard) (f : Fields) (s : State) : Res :=
  logicExec m g f 1 (fun w xs => clzBits (xs.getD 0 0) w) s
/-- CTZ (R123): the leading zeros of the reversed bits. -/
def execCtz (m : Form) (g : Guard) (f : Fields) (s : State) : Res :=
  logicExec m g f 1 (fun w xs => clzBits (brevBits (xs.getD 0 0) w) w) s
/-- BREV (R123). -/
def execBrev (m : Form) (g : Guard) (f : Fields) (s : State) : Res :=
  logicExec m g f 1 (fun w xs => brevBits (xs.getD 0 0) w) s
/-- BSWAP (R123). -/
def execBswap (m : Form) (g : Guard) (f : Fields) (s : State) : Res :=
  logicExec m g f 1 (fun w xs => ofLeBytes (leBytes (xs.getD 0 0) (w / 8)).reverse) s

end Sys2Proof.Machine
end

