-- ==== Sys2Proof/Machine/Float.lean ====
section
/-! DEFINITION. Floating point, conversion and block quantisation (06 R149-R167): VR rows 3 to 5. -/

namespace Sys2Proof.Machine

/-- A floating instruction over values: T's width, sources as values of T, a result in T with its flags (R150). -/
def floatExec (m : Form) (g : Guard) (f : Fields) (n : Nat) (op : Ty → List Num → Nat × Flags) (s : State) : Res :=
  let t := formTyD m f
  let w := tyWidth t
  intExec m g f (List.replicate n w) false w (fun xs => op t (xs.map (floatVal t))) s

/-- The rows of Table 6.2 that give an exact result (R153). -/
def exprExec (m : Form) (g : Guard) (f : Fields) (n : Nat) (e : List Num → Num × Flags) (s : State) : Res :=
  floatExec m g f n (fun t xs => floatExpr t xs (e xs)) s

def srcN (xs : List Num) (k : Nat) : Num := xs.getD k .nan

/-! ### Arithmetic (R152, R153) -/

/-- FADD (R152). -/
def execFadd (m : Form) (g : Guard) (f : Fields) (s : State) : Res :=
  exprExec m g f 2 (fun xs => numAdd (srcN xs 0) (srcN xs 1)) s
/-- FSUB (R152). -/
def execFsub (m : Form) (g : Guard) (f : Fields) (s : State) : Res :=
  exprExec m g f 2 (fun xs => numSub (srcN xs 0) (srcN xs 1)) s
/-- FMUL (R152). -/
def execFmul (m : Form) (g : Guard) (f : Fields) (s : State) : Res :=
  exprExec m g f 2 (fun xs => numMul (srcN xs 0) (srcN xs 1)) s
/-- FFMA (R152): A × B + C. -/
def execFfma (m : Form) (g : Guard) (f : Fields) (s : State) : Res :=
  exprExec m g f 3 (fun xs => numFma (srcN xs 0) (srcN xs 1) (srcN xs 2)) s
/-- FFMS (R152): A × B − C. -/
def execFfms (m : Form) (g : Guard) (f : Fields) (s : State) : Res :=
  exprExec m g f 3 (fun xs => numFma (srcN xs 0) (srcN xs 1) (srcN xs 2).negate) s
/-- FNMA (R152): C − A × B. -/
def execFnma (m : Form) (g : Guard) (f : Fields) (s : State) : Res :=
  exprExec m g f 3 (fun xs => numFma (srcN xs 0).negate (srcN xs 1) (srcN xs 2)) s

/-- R153: A × 2^b. Beyond ±2,000 the result no longer depends on b: it overflows or underflows whatever A. -/
def fscaleVal (t : Ty) (a : Num) (b : Int) : Nat × Flags :=
  match a with
  | .fin _ 0 _ | .inf _ | .nan => roundFloat t a
  | _ => roundFloat t (numMul a (numScaled 1 (min (max b (-2000)) 2000))).1

/-- FSCALE (R153): B a 32-bit signed integer, in VI all of X. -/
def execFscale (m : Form) (g : Guard) (f : Fields) (s : State) : Res :=
  let t := formTyD m f
  let w := tyWidth t
  intExec m g f [w, 32] true w
    (fun xs => fscaleVal t (floatVal t (xs.getD 0 0)) (sextN (xs.getD 1 0) 32)) s

/-- FDIV (R153), correctly rounded. -/
def execFdiv (g : Guard) (f : Fields) (s : State) : Res :=
  exprExec .vr g f 2 (fun xs => numDiv (srcN xs 0) (srcN xs 1)) s
/-- FSQRT (R153), correctly rounded. -/
def execFsqrt (g : Guard) (f : Fields) (s : State) : Res := exprExec .vr g f 1 (fun xs => numSqrt (srcN xs 0)) s
/-- FRCP (R153), correctly rounded. -/
def execFrcp (g : Guard) (f : Fields) (s : State) : Res :=
  exprExec .vr g f 1 (fun xs => numDiv (numOfNat 1) (srcN xs 0)) s

/-- R153: A + C × (B − A). -/
def numLerp (a b c : Num) : Num × Flags :=
  let d := numSub b a
  let p := numMul c d.1
  let r := numAdd a p.1
  (r.1, d.2 ||| p.2 ||| r.2)

/-- FLERP (R153). -/
def execFlerp (g : Guard) (f : Fields) (s : State) : Res :=
  exprExec .vr g f 3 (fun xs => numLerp (srcN xs 0) (srcN xs 1) (srcN xs 2)) s

/-- R153: C + A.lo × B.lo + A.hi × B.hi, the 16-bit halves read as T2. -/
def fdot2Val (t2 : Ty) (a b c : Nat) : Nat × Flags :=
  let h := fun x k => floatVal t2 (bitsOf x (16 * k) 16)
  let p := numMul (h a 0) (h b 0)
  let r := numMul (h a 1) (h b 1)
  let x := numAdd (floatVal .f32 c) p.1
  let y := numAdd x.1 r.1
  floatExpr .f32 [h a 0, h b 0, h a 1, h b 1, floatVal .f32 c] (y.1, p.2 ||| r.2 ||| x.2 ||| y.2)

/-- FDOT2 (R153). -/
def execFdot2 (g : Guard) (f : Fields) (s : State) : Res :=
  intExec .vr g f [32, 32, 32] false 32
    (fun xs => fdot2Val (xTy2 f) (xs.getD 0 0) (xs.getD 1 0) (xs.getD 2 0)) s

/-! ### Selection without rounding (R154-R157): an operand keeps its bits -/

/-- The sign bit of a value of T. -/
def signBit (t : Ty) (x : Nat) : Bool := bitOf x (tyWidth t - 1)

/-- R154: FMIN, or FMAX with `mx`; −0 < +0; equal operands give A. -/
def fminmax (t : Ty) (mx : Bool) (a b : Nat) : Nat :=
  let x := floatVal t a
  let y := floatVal t b
  if x.isNan && y.isNan then (floatFmt t).nanBits
  else if x.isNan then b
  else if y.isNan then a
  else
    let lt := fun p q pb qb => numLt p q || (p.isZero && q.isZero && signBit t pb && !signBit t qb)
    if mx then (if lt x y a b then b else a) else (if lt y x b a then b else a)

/-- R154: FMAXA: the larger magnitude; of equal magnitudes the operand with sign bit 0, or A. -/
def fmaxaBits (t : Ty) (a b : Nat) : Nat :=
  let x := floatVal t a
  let y := floatVal t b
  if x.isNan && y.isNan then (floatFmt t).nanBits
  else if x.isNan then b
  else if y.isNan then a
  else if numLt x.abs y.abs then b
  else if numLt y.abs x.abs then a
  else if signBit t a && !signBit t b then b
  else a

/-- R154: FRELU. -/
def freluBits (t : Ty) (a : Nat) : Nat :=
  let x := floatVal t a
  if x.isNan then (floatFmt t).nanBits else if numLt (numZero false) x then a else 0

/-- FMIN (R154). -/
def execFmin (m : Form) (g : Guard) (f : Fields) (s : State) : Res :=
  let t := formTyD m f
  logicExec m g f 2 (fun _ xs => fminmax t false (xs.getD 0 0) (xs.getD 1 0)) s
/-- FMAX (R154). -/
def execFmax (m : Form) (g : Guard) (f : Fields) (s : State) : Res :=
  let t := formTyD m f
  logicExec m g f 2 (fun _ xs => fminmax t true (xs.getD 0 0) (xs.getD 1 0)) s
/-- FMAXA (R154). -/
def execFmaxa (g : Guard) (f : Fields) (s : State) : Res :=
  logicExec .vr g f 2 (fun _ xs => fmaxaBits (xTy f) (xs.getD 0 0) (xs.getD 1 0)) s
/-- FRELU (R154). -/
def execFrelu (g : Guard) (f : Fields) (s : State) : Res :=
  logicExec .vr g f 1 (fun _ xs => freluBits (xTy f) (xs.getD 0 0)) s
/-- FCLMP (R154): FMIN(FMAX(A, B), C). -/
def execFclmp (m : Form) (g : Guard) (f : Fields) (s : State) : Res :=
  let t := formTyD m f
  logicExec m g f 3
    (fun _ xs => fminmax t false (fminmax t true (xs.getD 0 0) (xs.getD 1 0)) (xs.getD 2 0)) s
/-- FABS (R155): clears the sign bit. -/
def execFabs (g : Guard) (f : Fields) (s : State) : Res :=
  logicExec .vr g f 1 (fun w xs => xs.getD 0 0 % 2 ^ (w - 1)) s
/-- FNEG (R155): inverts the sign bit. -/
def execFneg (g : Guard) (f : Fields) (s : State) : Res :=
  logicExec .vr g f 1 (fun w xs => xs.getD 0 0 ^^^ 2 ^ (w - 1)) s
/-- FCPYS (R155): A with the sign bit of B. -/
def execFcpys (g : Guard) (f : Fields) (s : State) : Res :=
  logicExec .vr g f 2 (fun w xs => xs.getD 0 0 % 2 ^ (w - 1) + bitsOf (xs.getD 1 0) (w - 1) 1 * 2 ^ (w - 1)) s

/-- Table 6.3. -/
def fcmpHolds (c : Nat) (x y : Num) : Bool :=
  let un := x.isNan || y.isNan
  match c with
  | 0 => !un && numEq x y
  | 1 => un || !numEq x y
  | 2 => !un && numLt x y
  | 3 => !un && !numLt y x
  | 4 => !un && numLt y x
  | 5 => !un && !numLt x y
  | 6 => un
  | _ => !un

/-- FCMP (R156). -/
def execFcmp (m : Form) (g : Guard) (f : Fields) (s : State) : Res :=
  let t := formTyD m f
  let w := tyWidth t
  predExec m g f [w, w]
    (fun xs => fcmpHolds (bitsOf f.d.toNat 5 3) (floatVal t (xs.getD 0 0)) (floatVal t (xs.getD 1 0))) s

/-- Table 6.4. -/
def fclassOf (t : Ty) (a : Nat) : Nat :=
  let k := floatFmt t
  match floatVal t a with
  | .nan => 8
  | .inf b => if b then 0 else 7
  | .fin b n _ => if n == 0 then (if b then 3 else 4)
    else if bitsOf a k.f k.eb == 0 then (if b then 2 else 5) else (if b then 1 else 6)

/-- FCLASS (R157). -/
def execFclass (g : Guard) (f : Fields) (s : State) : Res :=
  predExec .vr g f [tyWidth (xTy f)] (fun xs => bitOf (f.xf 12 9) (fclassOf (xTy f) (xs.getD 0 0))) s

/-! ### Integral and fractional parts, exponent and mantissa (R158, R159) -/

/-- R158: FRND, with no flag. A zero result keeps the sign of A. -/
def frndBits (t : Ty) (mode a : Nat) : Nat :=
  match floatVal t a with
  | .nan => (floatFmt t).nanBits
  | .inf _ => a
  | .fin b n d => (roundFloat t (.fin b (integral mode false b n d).natAbs 1)).1

/-- R158: A − trunc(A); a zero result carries the sign of A; ±∞ gives NaN with NV. -/
def ffracVal (t : Ty) (a : Nat) : Nat × Flags :=
  match floatVal t a with
  | .nan => ((floatFmt t).nanBits, 0)
  | .inf _ => ((floatFmt t).nanBits, flNV)
  | .fin b n d => ((roundFloat t (.fin b (n % d) d)).1, 0)

/-- R159: the exponent as a 32-bit signed integer. -/
def fgeteBits (t : Ty) (a : Nat) : Nat :=
  match floatVal t a with
  | .nan | .inf _ => 0x7FFFFFFF
  | .fin _ n d => if n == 0 then 0x80000000 else wrapN (log2Frac n d) 32

/-- R159: A / 2^FGETE(A). -/
def fgetmBits (t : Ty) (a : Nat) : Nat :=
  match floatVal t a with
  | .nan => (floatFmt t).nanBits
  | .inf _ => a
  | .fin b n d =>
    if n == 0 then a
    else let (x, y) := scaleFrac n d (log2Frac n d); (roundFloat t (.fin b x y)).1

/-- FRND (R158). -/
def execFrnd (g : Guard) (f : Fields) (s : State) : Res :=
  logicExec .vr g f 1 (fun _ xs => frndBits (xTy f) (f.xf 12 2) (xs.getD 0 0)) s
/-- FFRAC (R158). -/
def execFfrac (g : Guard) (f : Fields) (s : State) : Res :=
  let w := tyWidth (xTy f)
  intExec .vr g f [w] false w (fun xs => ffracVal (xTy f) (xs.getD 0 0)) s
/-- FGETE (R159): into all 32 bits of D. -/
def execFgete (g : Guard) (f : Fields) (s : State) : Res :=
  intExec .vr g f [tyWidth (xTy f)] false 32 (fun xs => (fgeteBits (xTy f) (xs.getD 0 0), 0)) s
/-- FGETM (R159). -/
def execFgetm (g : Guard) (f : Fields) (s : State) : Res :=
  logicExec .vr g f 1 (fun _ xs => fgetmBits (xTy f) (xs.getD 0 0)) s

/-! ### Approximated functions (R160, R161) -/

/-- Whether n/d is 2^k for an integer k. -/
def isPow2 (n d : Nat) : Bool :=
  let (a, c) := scaleFrac n d (log2Frac n d)
  a == c

/-- Table 6.6's special and exact values, with their flags, by opcode; none where the value is approximated. -/
def approxListed (op : Nat) (t : Ty) (x : Num) : Option (Num × Flags) :=
  match op, x with
  | _, .nan => some (.nan, 0)
  | 0x43, .inf b => some (if b then (.nan, flNV) else (numZero false, 0))
  | 0x43, .fin b n d =>
    if n == 0 then some (.inf b, flDZ)
    else if b then some (.nan, flNV)
    else if isPow2 n d && log2Frac n d % 2 == 0 then some (numScaled 1 (-(log2Frac n d / 2)), 0)
    else none
  | 0x44, .inf b => some (if b then numZero false else .inf false, 0)
  | 0x44, .fin b n d =>
    if n % d == 0 then
      let k : Int := min (n / d : Nat) 2000
      let e := if b then -k else k
      let (v, fl) := roundFloat t (numScaled 1 e)
      some (floatVal t v, fl)
    else none
  | 0x45, .inf b => some (if b then (.nan, flNV) else (.inf false, 0))
  | 0x45, .fin b n d =>
    if n == 0 then some (.inf true, flDZ)
    else if b then some (.nan, flNV)
    else if isPow2 n d then some (numOfInt (log2Frac n d), 0)
    else none
  | 0x46, .inf _ | 0x47, .inf _ => some (.nan, flNV)
  | 0x46, .fin b n d =>
    if 4 * n % d == 0 then
      let k := 4 * n / d % 4
      let v := if k == 1 then numOfInt 1 else if k == 3 then numOfInt (-1) else numZero (b && n == 0)
      some (if b && k % 2 == 1 then v.negate else v, 0)
    else none
  | 0x47, .fin _ n d =>
    if 4 * n % d == 0 then
      let k := 4 * n / d % 4
      some (if k == 0 then numOfInt 1 else if k == 2 then numOfInt (-1) else numZero false, 0)
    else none
  | 0x48, .inf b => some (.fin b 1 1, 0)
  | 0x48, .fin b n d =>
    if n == 0 then some (x, 0) else if 10 * d ≤ n then some (.fin b 1 1, 0) else none
  | 0x49, .inf b => some (if b then numZero false else numOfNat 1, 0)
  | 0x49, .fin _ n _ => if n == 0 then some (.fin false 1 2, 0) else none
  | _, _ => none

/-- The delivered value: Table 6.6's where it lists one; else a free value within its bound, with NX when finite, UF when
below the smallest normal, and OF where FEXP2 delivers +∞ (R160). -/
def approxVal (op : Nat) (t : Ty) (a : Nat) : Nat × Flags :=
  match approxListed op t (floatVal t a) with
  | some (v, fl) => ((roundFloat t v).1, fl)
  | none =>
    let r := approxBits op t a
    let k := floatFmt t
    match floatVal t r with
    | .nan => (r, 0)
    | .inf _ => (r, if op == 0x44 then flOF ||| flNX else 0)
    | .fin _ _ _ => (r, flNX ||| (if bitsOf r k.f k.eb == 0 then flUF else 0))

def approxExec (op : Nat) (g : Guard) (f : Fields) (s : State) : Res :=
  let w := tyWidth (xTy f)
  intExec .vr g f [w] false w (fun xs => approxVal op (xTy f) (xs.getD 0 0)) s

/-- FRSQ (R160). -/
def execFrsq (g : Guard) (f : Fields) (s : State) : Res := approxExec 0x43 g f s
/-- FEXP2 (R160). -/
def execFexp2 (g : Guard) (f : Fields) (s : State) : Res := approxExec 0x44 g f s
/-- FLOG2 (R160). -/
def execFlog2 (g : Guard) (f : Fields) (s : State) : Res := approxExec 0x45 g f s
/-- FSIN (R160). -/
def execFsin (g : Guard) (f : Fields) (s : State) : Res := approxExec 0x46 g f s
/-- FCOS (R160). -/
def execFcos (g : Guard) (f : Fields) (s : State) : Res := approxExec 0x47 g f s
/-- FTANH (R160). -/
def execFtanh (g : Guard) (f : Fields) (s : State) : Res := approxExec 0x48 g f s
/-- FSIGM (R160). -/
def execFsigm (g : Guard) (f : Fields) (s : State) : Res := approxExec 0x49 g f s

/-! ### Conversions (R162, R163) -/

/-- R163, Table 4.6: a value to an integer type under a mode of Table 6.5, ties by the destination's width (R105). -/
def toIntVal (t : Ty) (mode : Nat) (x : Num) : Nat × Flags :=
  match x with
  | .nan => (0, flNV)
  | .inf b => (wrapN (if b then intMin t else intMax t) (tyWidth t), flSAT ||| flNV)
  | .fin b n d =>
    let i := integral mode (decide (tyWidth t < 16)) b n d
    let (v, fl) := satInt t i
    (v, fl ||| (if fl == 0 && numIsInt x i then 0 else flNX))

/-- R163: FCVT of one value. -/
def fcvtVal (t t2 : Ty) (mode a : Nat) : Nat × Flags :=
  if tyInt t then toIntVal t mode (floatVal t2 a) else roundFloat t (tyVal t2 a)

/-- FCVT (R163). -/
def execFcvt (g : Guard) (f : Fields) (s : State) : Res :=
  intExec .vr g f [tyWidth (xTy2 f)] false (tyWidth (xTy f))
    (fun xs => fcvtVal (xTy f) (xTy2 f) (f.xf 12 2) (xs.getD 0 0)) s

/-- ICVT (R163). -/
def execIcvt (g : Guard) (f : Fields) (s : State) : Res :=
  intExec .vr g f [tyWidth (xTy2 f)] false (tyWidth (xTy f))
    (fun xs => satInt (xTy f) (intVal (xTy2 f) (xs.getD 0 0))) s

/-! ### Block quantisation (R164, R165) -/

/-- QNT (R165): a block's elements into payload words and a descriptor. -/
def execQnt (g : Guard) (f : Fields) (s : State) : Res :=
  issued s fun i =>
    let t := xTy f
    let t2 := xTy2 f
    let w := i.width
    let act := s.active g
    let xs := (List.range (bxElems t)).map fun e =>
      if act.contains (e % w) then floatVal t2 (s.vreg (e % w) (f.a.toNat + e / w) % 2 ^ tyWidth t2)
      else numZero false
    let (pay, desc, fl) := bxBlock t false xs
    let u := (List.range 16).foldl (fun u j =>
      if act.contains (j % w) then u.setVreg (j % w) (f.d.toNat + j / w) (bitsOf pay (32 * j) 32) else u) s
    let u := (s.onceUnits g).foldl (fun u l => u.setS l (f.xf 12 6) desc) u
    match act with
    | [] => u
    | l :: _ => if fl == 0 then u else u.orFlags l fl

/-- DQNT (R165): payload words into elements; each lane's scale is its fibre's s[S]. -/
def execDqnt (g : Guard) (f : Fields) (s : State) : Res :=
  issued s fun i =>
    let t := xTy f
    let t2 := xTy2 f
    let w := i.width
    let act := s.active g
    let pay := (List.range 16).foldl (fun p j => p + s.vreg (j % w) (f.a.toNat + j / w) * 2 ^ (32 * j)) 0
    let res := (List.range (bxElems t2)).filterMap fun e =>
      if act.contains (e % w) then
        some (e, roundFloat t (bxElem t2 pay (bitsOf (s.sreg (e % w) (f.xf 12 6)) 8 8) e))
      else none
    let u := res.foldl (fun u r => u.setVval (r.1 % w) (f.d.toNat + r.1 / w) (tyWidth t) r.2.1) s
    let fl := res.foldl (fun a r => a ||| r.2.2) (0 : Flags)
    match act with
    | [] => u
    | l :: _ => if fl == 0 then u else u.orFlags l fl

/-! ### Keep n of m (R166, R167) -/

/-- R167: whether a lane's value ranks before another's: NaN first, then larger magnitude, then lower lane. -/
def vspkBefore (t : Ty) (a b : Nat × Nat) : Bool :=
  let x := floatVal t a.2
  let y := floatVal t b.2
  if x.isNan && y.isNan then decide (a.1 < b.1)
  else if x.isNan then true
  else if y.isNan then false
  else if numLt y.abs x.abs then true
  else if numLt x.abs y.abs then false
  else decide (a.1 < b.1)

/-- VSPK (R167): the n values of largest magnitude of each run of m lanes. -/
def execVspk (g : Guard) (f : Fields) (s : State) : Res :=
  issued s fun _ =>
    let t := xTy f
    let m := 4 * 2 ^ f.xf 12 2
    let n := f.xf 14 5
    let p := f.xf 20 5
    let act := s.active g
    let val := fun l => s.opA f (tyWidth t) l
    let cands := act.map fun l => (l, val l)
    let keep := fun (c : Nat × Nat) =>
      decide ((cands.filter fun x => x.1 / m == c.1 / m && vspkBefore t x c).length < n)
    let res := act.map fun l =>
      let k := keep (l, val l)
      let run := act.filter fun j => j / m == l / m
      let kept := run.filter fun j => keep (j, val j)
      let pos := (run.filter fun j => j < l).length
      let v := if f.xf 19 1 == 0 then (if k then val l else 0)
        else match kept[pos]? with | some j => val j | none => 0
      (l, k, v)
    res.foldl (fun u r => (u.setQ r.1 p r.2.1).setVval r.1 f.d.toNat (tyWidth t) r.2.2) s

end Sys2Proof.Machine
end

