-- ==== Sys2Proof/Machine/CrossLane.lean ====
section
/-! DEFINITION. The cross-lane instructions (06 R168-R176): VR row 6. -/

namespace Sys2Proof.Machine

/-! ### Shuffles (R169) -/

/-- R169: the lane a shuffle reads. -/
def shflLane (w mode b l : Nat) : Nat :=
  match mode with
  | 0 => b % w
  | 1 => if l < b then l else l - b
  | 2 => if w ≤ l + b then l else l + b
  | _ => if w ≤ l ^^^ b then l else l ^^^ b

/-- A shuffle: each lane of active reads A, after A's own pattern, at the chosen lane. -/
def shflExec (m : Form) (g : Guard) (f : Fields) (ctl : State → Nat → Nat) (s : State) : Res :=
  let w := tyWidth (formTyD m f)
  issued s fun i =>
    s.forLanes (s.active g)
      (fun l => (s.opA f w (shflLane i.width (f.xf 12 2) (ctl s l) l), 0))
      (fun u l v => u.setVval l f.d.toNat w v)

/-- SHFL (R169): the control is B[5:0] of the lane. -/
def execShfl (g : Guard) (f : Fields) (s : State) : Res :=
  shflExec .vr g f (fun s l => s.opB f 32 l % 64) s

/-- SHFLI (R169): the control is X[19:14]. -/
def execShfli (m : Form) (g : Guard) (f : Fields) (s : State) : Res :=
  shflExec m g f (fun _ _ => f.xf 14 6) s

/-! ### Combining (R170-R173) -/

/-- Table 6.10: the identity of an operation. -/
def combId (t : Ty) (op : Nat) : Nat :=
  let k := floatFmt t
  let w := tyWidth t
  match op with
  | 0 => if tyFloat t then 2 ^ (w - 1) else 0
  | 1 => if tyFloat t then k.infBits else wrapN (intMax t) w
  | 2 => if tyFloat t then 2 ^ (w - 1) + k.infBits else wrapN (intMin t) w
  | 3 => 2 ^ w - 1
  | _ => 0

/-- R170: one step of a combining operation. Float addition rounds to T. -/
def combOp (t : Ty) (op : Nat) (a b : Nat) : Nat × Flags :=
  let w := tyWidth t
  match op with
  | 0 =>
    if tyFloat t then
      let x := floatVal t a
      let y := floatVal t b
      floatExpr t [x, y] (numAdd x y)
    else ((a + b) % 2 ^ w, 0)
  | 1 => (if tyFloat t then fminmax t false a b else if intVal t b < intVal t a then b else a, 0)
  | 2 => (if tyFloat t then fminmax t true a b else if intVal t a < intVal t b then b else a, 0)
  | 3 => (a &&& b, 0)
  | 4 => (a ||| b, 0)
  | _ => (a ^^^ b, 0)

/-- One value with flags at each lane. -/
abbrev LaneVals := List (Nat × Flags)

def laneAt (t : LaneVals) (l : Nat) : Nat := (t.getD l (0, 0)).1

/-- R111: one step of the reduction tree. -/
def redStep (ty : Ty) (op d : Nat) (t : LaneVals) : LaneVals :=
  t.mapIdx fun l v =>
    if l % (2 * d) == 0 && l + d < t.length then
      let (r, fl) := combOp ty op v.1 (laneAt t (l + d))
      (r, v.2 ||| fl ||| (t.getD (l + d) (0, 0)).2)
    else v

/-- R111, R172: one step of the scan; every lane reads the values before the step. -/
def scanStep (ty : Ty) (op d : Nat) (t : LaneVals) : LaneVals :=
  t.mapIdx fun l v =>
    if d ≤ l then
      let (r, fl) := combOp ty op (laneAt t (l - d)) v.1
      (r, v.2 ||| fl)
    else v

/-- R173: one step of the segmented scan. -/
def segStep (ty : Ty) (op d : Nat) (t : LaneVals) (h : List Bool) : LaneVals × List Bool :=
  (t.mapIdx fun l v =>
      if d ≤ l && !h.getD l true then
        let (r, fl) := combOp ty op (laneAt t (l - d)) v.1
        (r, v.2 ||| fl)
      else v,
    h.mapIdx fun l b => b || (d ≤ l && h.getD (l - d) true))

/-- d = 1, 2, 4, … below W, for W up to 64. -/
def doublings (w : Nat) : List Nat := ([1, 2, 4, 8, 16, 32] : List Nat).filter (· < w)

/-- The value each lane brings: A in active, else the identity. -/
def State.combIn (s : State) (g : Guard) (f : Fields) : LaneVals :=
  let t := xTy f
  let act := s.active g
  (List.range s.iss.width).map fun l =>
    (if act.contains l then s.opA f (tyWidth t) l else combId t (f.xf 12 4), 0)

def orAll (t : LaneVals) : Flags := t.foldl (fun a v => a ||| v.2) 0

/-- VRED (R171): one result over active, to every lane of active or to a scalar. -/
def execVred (g : Guard) (f : Fields) (s : State) : Res :=
  issued s fun i =>
    let ty := xTy f
    let t := (doublings i.width).foldl (fun t d => redStep ty (f.xf 12 4) d t) (s.combIn g f)
    let r := laneAt t 0
    let fl := (t.headD (0, 0)).2
    let u := if f.xf 16 1 == 1 then
        (s.onceUnits g).foldl (fun u l => u.setS l f.d.toNat (r % 2 ^ tyWidth ty)) s
      else (s.active g).foldl (fun u l => u.setVval l f.d.toNat (tyWidth ty) r) s
    match s.active g with
    | [] => u
    | l :: _ => if fl == 0 then u else u.orFlags l fl

/-- VSCAN (R172): inclusive or exclusive prefix scan. -/
def execVscan (g : Guard) (f : Fields) (s : State) : Res :=
  issued s fun i =>
    let ty := xTy f
    let op := f.xf 12 4
    let t := (doublings i.width).foldl (fun t d => scanStep ty op d t) (s.combIn g f)
    let out := fun l =>
      if f.xf 17 1 == 1 then (if l == 0 then combId ty op else laneAt t (l - 1)) else laneAt t l
    let u := (s.active g).foldl (fun u l => u.setVval l f.d.toNat (tyWidth ty) (out l)) s
    match s.active g with
    | [] => u
    | l :: _ => if orAll t == 0 then u else u.orFlags l (orAll t)

/-- VSEGS (R173): scan within segments that start at lane 0 and at every active lane whose q[P] is 1. -/
def execVsegs (g : Guard) (f : Fields) (s : State) : Res :=
  issued s fun i =>
    let ty := xTy f
    let op := f.xf 12 4
    let act := s.active g
    let h := (List.range i.width).map fun l => l == 0 || (act.contains l && s.q l (f.xf 18 5))
    let r := (doublings i.width).foldl (fun th d => segStep ty op d th.1 th.2) (s.combIn g f, h)
    let u := act.foldl (fun u l => u.setVval l f.d.toNat (tyWidth ty) (laneAt r.1 l)) s
    match act with
    | [] => u
    | l :: _ => if orAll r.1 == 0 then u else u.orFlags l (orAll r.1)

/-! ### Votes (R174) -/

/-- The ballot mask of a predicate over active. -/
def State.ballot (s : State) (act : List Nat) (p : Nat) : Nat :=
  act.foldl (fun m l => if s.q l p then m + 2 ^ l else m) 0

/-- VBAL (R174): the mask, its count, or each lane's prefix count. -/
def execVbal (g : Guard) (f : Fields) (s : State) : Res :=
  issued s fun _ =>
    let act := s.active g
    let m := s.ballot act (f.xf 18 5)
    if f.xf 12 2 == 2 then
      act.foldl (fun u l => u.setVreg l f.d.toNat (popCount (m % 2 ^ l) 64)) s
    else
      (s.onceUnits g).foldl (fun u l => u.setS l f.d.toNat (if f.xf 12 2 == 0 then m else popCount m 64)) s

/-- VVOTE (R174). -/
def execVvote (g : Guard) (f : Fields) (s : State) : Res :=
  issued s fun _ =>
    let act := s.active g
    let p := f.xf 18 5
    let w := tyWidth (xTy f)
    let r := match f.xf 12 2 with
      | 0 => act.any fun l => s.q l p
      | 1 => act.all fun l => s.q l p
      | 2 => (act.all fun l => s.q l p) || (act.all fun l => !s.q l p)
      | _ => act.all fun l => s.opA f w l == s.opA f w (act.headD 0)
    act.foldl (fun u l => u.setQ l (f.d.toNat % 32) r) s

/-! ### Sorting, matching, compacting (R175, R176) -/

/-- R175: the order of VCMPX; for .f32 the total order with NaNs equal and greatest. -/
def vcmpxLt (t : Ty) (a b : Nat) : Bool :=
  if t == .f32 then
    let x := floatVal t a
    let y := floatVal t b
    if x.isNan then false
    else if y.isNan then true
    else numLt x y || (x.isZero && y.isZero && signBit t a && !signBit t b)
  else decide (intVal t a < intVal t b)

/-- VCMPX (R175): one compare-exchange step. With d ≥ W and two registers, the pseudocode is followed: each lane's own A
and B are compared (log entry 42). -/
def execVcmpx (g : Guard) (f : Fields) (s : State) : Res :=
  issued s fun _ =>
    let t := xTy f
    let w := tyWidth t
    let d := 2 ^ (f.bp.toNat - 2)
    let k := f.xf 12 3
    let res := (s.active g).map fun l =>
      let a := s.opA f w l
      let b := s.opB f w l
      let asc := (bitsOf l k 1 == 0) != (f.xf 15 1 == 1)
      let wantMin := ((l &&& d) == 0) == asc
      let take := if wantMin then vcmpxLt t b a else vcmpxLt t a b
      (l, take, if take then b else a)
    res.foldl (fun u r => (u.setVval r.1 f.d.toNat w r.2.2).setQ r.1 (f.xf 18 5) r.2.1) s

/-- VMATCH (R176): the first lane holding each value. -/
def execVmatch (g : Guard) (f : Fields) (s : State) : Res :=
  issued s fun _ =>
    let w := tyWidth (xTy f)
    let act := s.active g
    let res := act.map fun l => (l, (act.find? fun j => s.opA f w j == s.opA f w l).getD l)
    res.foldl (fun u r => (u.setVreg r.1 f.d.toNat r.2).setQ r.1 (f.xf 18 5) (r.2 == r.1)) s

/-- VCOMP (R176): selected values into the lowest active lanes. -/
def execVcomp (g : Guard) (f : Fields) (s : State) : Res :=
  issued s fun _ =>
    let w := tyWidth (xTy f)
    let act := s.active g
    let sel := act.filter fun l => s.q l (f.xf 18 5)
    let res := act.mapIdx fun i l => (l, match sel[i]? with | some j => s.opA f w j | none => 0)
    res.foldl (fun u r => u.setVval r.1 f.d.toNat w r.2) s

end Sys2Proof.Machine
end

