-- ==== Sys2Proof/Machine/Memory.lean ====
section
/-! DEFINITION. Bytes in canonical cells, scratchpads, the package's physical memory with its lines, descriptors,
check values and leases (16 R384-R390, 18 R410-R419, R430-R432), time, and the event log's ring (19 R461). -/

namespace Sys2Proof.Machine

/-! ### Cells: addresses rising, no entry holding what an unlisted address reads as (zero) -/

/-- The byte at an address; an unlisted one reads zero (18 R416, 15 R362). -/
def cellRead (m : List Host.Cell) (a : Nat) : Byte :=
  match m with
  | [] => 0
  | (b, v) :: r => if b == a then v else if a < b then 0 else cellRead r a

/-- A byte written, the form kept: a zero removes the entry. -/
def cellWrite (m : List Host.Cell) (a : Nat) (v : Byte) : List Host.Cell :=
  match m with
  | [] => if v == 0 then [] else [(a, v)]
  | (b, w) :: r =>
    if b == a then (if v == 0 then r else (a, v) :: r)
    else if a < b then (if v == 0 then (b, w) :: r else (a, v) :: (b, w) :: r)
    else (b, w) :: cellWrite r a v

/-- The canonical form: addresses strictly rising from `lo`, no zero entry. -/
def cellsFrom (lo : Nat) (m : List Host.Cell) : Bool :=
  match m with
  | [] => true
  | (a, v) :: r => decide (lo ≤ a) && v != 0 && cellsFrom (a + 1) r

def cellsWf (m : List Host.Cell) : Bool := cellsFrom 0 m

/-- The little-endian number of `n` bytes at an address (R2). -/
def cellLoad (m : List Host.Cell) (a : Nat) : Nat → Nat
  | 0 => 0
  | n + 1 => (cellRead m a).toNat + 256 * cellLoad m (a + 1) n

/-- The `n` low bytes of a number stored little-endian (R2). -/
def cellStore (m : List Host.Cell) (a : Nat) (v : Nat) : Nat → List Host.Cell
  | 0 => m
  | n + 1 => cellStore (cellWrite m a (BitVec.ofNat 8 v)) (a + 1) (v / 256) n

/-- The form of every memory of the machine. -/
def Memory.wf (s : State) : Bool := cellsWf s.mem && (s.scratch.all fun p => cellsWf p.2)

/-! ### Time (01 R14, 19 R459) -/

def State.die (s : State) (d : Nat) : Die := Tab.getD s.dies d {}
def State.modDie (s : State) (d : Nat) (f : Die → Die) : State := { s with dies := Tab.set s.dies d (f (s.die d)) }
/-- gtc() on a die: 64 bits, which never decrease, so that the highest value stays (log entry 43). -/
def State.gtc (s : State) (d : Nat) : Nat := min (s.time + Tab.getD s.gtcOff d 0) (2 ^ 64 - 1)

def boolNat (b : Bool) : Nat := if b then 1 else 0

/-- The die of a core. -/
def coreDie (k : Nat) : Nat := k / 128 % 4
/-- Die `d` itself as an agent: it has no TLB and no line cache of its own. -/
def dieAgent (d : Nat) : Nat := 1024 + 128 * d
def coreCluster (k : Nat) : Nat := k / 8

/-! ### Scratchpad bytes (R184) -/

def State.scratchOf (s : State) (k : Nat) : List Host.Cell :=
  match s.iss.view with
  | none => Tab.getD s.scratch k []
  | some v => Tab.getD v.scratch k []

def State.scrLoad (s : State) (k a n : Nat) : Nat := cellLoad (s.scratchOf k) a n

/-- A wait ends with a result in a scalar of the waiting group (R145, R400). -/
def State.wake (s : State) (g dst v : Nat) : State := (s.modGroup g fun gr => gr.putScal dst v).resume g

/-- R144, R145: an armed watch triggers; a group parked on it in MWAIT ends with reason 0, unless its deadline has
passed, and is disarmed. A saved team's deadlines are looked at only when it is restored (R146). -/
def State.trigger (s : State) (g : Nat) (w : Watch) : State :=
  let now := s.gtc (coreDie (s.group g).core)
  match (s.group g).parked with
  | some { wait := .mwait dl dst, .. } =>
    (s.wake g dst (if now ≤ dl || (s.teamOf (s.group g).team).out then 0 else 1)).modGroup g fun gr => { gr with watch := none }
  | _ => s.modGroup g fun gr => { gr with watch := some { w with triggered := some now } }

/-- Triggers every armed watch that a write hits. -/
def State.triggerIf (s : State) (hit : Watch → Bool) : State :=
  List.foldl (fun s (p : Nat × Group) =>
    match p.2.watch with
    | some w => if w.triggered.isNone && hit w then s.trigger p.1 w else s
    | none => s) s s.groups

/-- R144: a write to a watched span of a scratchpad triggers the watch, whoever writes. -/
def State.triggerScratch (s : State) (k a n : Nat) : State :=
  s.triggerIf fun w => w.core == some k && decide (a / 64 ≤ w.span) && decide (w.span ≤ (a + n - 1) / 64)

def State.scrStore (s : State) (k a v n : Nat) : State :=
  ({ s with scratch := Tab.set s.scratch k (cellStore (Tab.getD s.scratch k []) a v n) }).triggerScratch k a n

/-- Words of a scratchpad written whole have new check bits (07 R187). -/
def State.mendWords (s : State) (k a z : Nat) : State :=
  let lo := (a + 3) / 4
  let hi := (a + z) / 4
  if (s.core k).badWords.isEmpty then s else s.modCore k fun c =>
    { c with badWords := c.badWords.filter fun w => !(decide (lo ≤ w.1) && decide (w.1 < hi)) }

/-- δ of R386, R459. -/
def gtcSkew : Nat := 4

/-! ### Bytes at physical addresses -/

def paRegion (pa : Nat) : Nat := pa / 2 ^ 48 % 16
def paLa (pa : Nat) : Nat := pa % 2 ^ 40

/-- A byte of memory that is no register: local memory, or memory outside the package (log entry 7). -/
def State.paByte (s : State) (pa : Nat) : Byte :=
  if paRegion pa == 0 then cellRead s.mem (paLa pa)
  else match Tab.get? s.outside pa with
    | some b => b
    | none => Config.outsideByte pa

def State.paLoad (s : State) (pa : Nat) : Nat → Nat
  | 0 => 0
  | n + 1 => (s.paByte pa).toNat + 256 * s.paLoad (pa + 1) n

def State.setPaByte (s : State) (pa : Nat) (v : Byte) : State :=
  if paRegion pa == 0 then { s with mem := cellWrite s.mem (paLa pa) v }
  else { s with outside := Tab.set s.outside pa v }

def State.setPaBytes (s : State) (pa v : Nat) : Nat → State
  | 0 => s
  | n + 1 => (s.setPaByte pa (BitVec.ofNat 8 v)).setPaBytes (pa + 1) (v / 256) n

/-! ### Homes and paths (18 R411, 19 R450, R457, 21 R484) -/

/-- The home die of a physical address of the package: its line's for local memory, its register's for the control
space, die 0 for host memory. -/
def homeDie (pa : Nat) : Nat :=
  if paRegion pa == 0 then pa / 2 ^ 38 % 4 else if paRegion pa == 1 then pa / 2 ^ 28 % 4 else 0

/-- R411: the home slice of a line of local memory within its die. -/
def homeSlice (la : Nat) : Nat := bitsOf la 9 5 ^^^ bitsOf la 14 5 ^^^ bitsOf la 19 5 ^^^ bitsOf la 24 5

/-- R457: the hash lane of a line. -/
def laneOf (la : Nat) : Nat := bitsOf la 9 4 ^^^ bitsOf la 13 4 ^^^ bitsOf la 17 4 ^^^ bitsOf la 21 4

/-- A sector's status before use: 0, 0x08 uncorrectable, 0x0F check mismatch (R432, Table 7.5). -/
def State.sectorStatus (s : State) (pa : Nat) : Nat :=
  if paRegion pa == 0 then
    match Tab.get? s.faults (paLa pa / 64) with
    | some .mismatch => 0x0F
    | some .uncorrectable => 0x08
    | _ => 0
  else 0

/-- R484: where the window of an address of another package stands, and the window. -/
def State.windowAddr (s : State) (pa : Nat) : Nat := s.rwBase.toNat + 8 * bitsOf pa 40 11
def State.windowOf (s : State) (pa : Nat) : Nat := s.paLoad (s.windowAddr pa) 8
/-- Where the route of its package stands. -/
def State.routeAddr (s : State) (pa : Nat) : Nat := s.rtBase.toNat + 2 * bitsOf (s.windowOf pa) 0 13

/-- R484: the Oneza Link port by which a request to another package leaves: the one of its hash lane among those the
route table sets for the window's package. None for an invalid window or an empty mask, nor where a sector of the tables
fails its check (log entry 43). -/
def State.onezaPort (s : State) (pa : Nat) : Option Nat :=
  let ports := (List.range 16).filter (bitOf (s.paLoad (s.routeAddr pa) 2))
  if bitOf (s.windowOf pa) 13 && s.sectorStatus (s.windowAddr pa) == 0 && s.sectorStatus (s.routeAddr pa) == 0 then
    ports[laneOf (paLa pa) % ports.length]?
  else none

/-- R484: what an address names: of another package, the package and LA, whatever its window; any other, itself. -/
def State.placeOf (s : State) (pa : Nat) : Nat :=
  if 8 ≤ paRegion pa then 2 ^ 52 * (1 + bitsOf (s.windowOf pa) 0 13) + 2 ^ 51 + paLa pa else pa

/-- The die at which a request is served, or from which it leaves the package (01 R10). -/
def State.homeOf (s : State) (pa : Nat) : Nat :=
  if 8 ≤ paRegion pa then (s.onezaPort pa).getD 0 / 4 else homeDie pa

def moduleKey (d p m : Nat) : Nat := 8 * d + 4 * p + m
def State.module (s : State) (d p m : Nat) : Module := Tab.getD s.modules (moduleKey d p m) {}
def neighbour (d p : Nat) : Nat := if p == 0 then d ^^^ 1 else d ^^^ 2

/-- R454: a module works unless it is down, or is down and being retrained. -/
def Module.works (m : Module) : Bool := m.state != 2 && m.goal != some 2

/-- R454: a die's side of a pair works while one of its four modules does. -/
def State.sideUp (s : State) (d p : Nat) : Bool := (List.range 4).any fun m => (s.module d p m).works
/-- A pair works while both sides do. -/
def State.pairUp (s : State) (d p : Nat) : Bool := s.sideUp d p && s.sideUp (neighbour d p) p

/-- R450: the ports a request takes from one die to another: bit 0 first, else the other way round the square. -/
def State.route (s : State) (a b : Nat) : Option (List Nat) :=
  if a == b then some []
  else if a ^^^ b == 1 then
    if s.pairUp a 0 then some [0]
    else if s.pairUp a 1 && s.pairUp (a ^^^ 2) 0 && s.pairUp (a ^^^ 3) 1 then some [1, 0, 1] else none
  else if a ^^^ b == 2 then
    if s.pairUp a 1 then some [1]
    else if s.pairUp a 0 && s.pairUp (a ^^^ 1) 1 && s.pairUp (a ^^^ 3) 0 then some [0, 1, 0] else none
  else if s.pairUp a 0 && s.pairUp (a ^^^ 1) 1 then some [0, 1]
  else if s.pairUp a 1 && s.pairUp (a ^^^ 2) 0 then some [1, 0]
  else none

/-- Whether a die reaches the home of a physical address. -/
def State.reaches (s : State) (d pa : Nat) : Bool := (s.route d (s.homeOf pa)).isSome

/-- R430: one step of the CRC-16 with polynomial 0x8BB7, most significant bit first. -/
def crcBit (c : Nat) (b : Bool) : Nat :=
  let t := bitOf c 15 != b
  let c := c * 2 % 65536
  if t then c ^^^ 0x8BB7 else c

def crcByte (c x : Nat) : Nat := (List.range 8).foldl (fun c i => crcBit c (bitOf x (7 - i))) c

/-- R430: the check value of a 64-byte sector given as a number. -/
def checkValue (sec : Nat) : Nat := (List.range 64).foldl (fun c i => crcByte c (bitsOf sec (8 * i) 8)) 0

/-- The cause of a failed sector met by an instruction, not an engine (R61, R75, R396). -/
def statusCause (st : Nat) : Nat :=
  if st == 0x08 then 0x68 else if st == 0x09 then 0x69 else if st == 0x0A then 0x6A
  else if st == 0x0B then 0x6B else 0x72

/-! ### Writes as others see them (16 R386, R400, 05 R144) -/

/-- R386: the global write completion time of a write performed now. -/
def State.gwct (s : State) (pa : Nat) : Nat :=
  max (s.gtc (s.homeOf pa)) (if paRegion pa == 0 then Tab.getD s.leases (paLa pa / 512) 0 else 0) + gtcSkew

/-- R400: whether a flag value ends a wait for a target. -/
def flagMeets (g target : Nat) : Bool :=
  g != 0 && (target == 0 || decide ((g + 2 ^ 32 - target) % 2 ^ 32 < 2 ^ 31))

def pteCls (e : Nat) : Nat := bitsOf e 9 2

/-- R415: a request served at gtc() after its deadline counts in the counter of its requester and class. -/
def State.countMiss (s : State) (d src cls : Nat) (deadline : Option Nat) : State :=
  match deadline with
  | some t =>
    if t < s.gtc d then
      s.modDie d fun di =>
        let i := 4 * src + cls
        { di with miss := Tab.set di.miss i (min (Tab.getD di.miss i 0 + 1) 0xFFFFFFFF) }
    else s
  | none => s

/-- R220, R415: a request of a waiting group's flag or cell, served at a die, carries the class of its page and the deadline
of its issue. -/
def State.serveWait (s : State) (d g : Nat) : State :=
  let gr := s.group g
  match gr.parked with
  | some p =>
    let c := ((p.passed.getLast?).map fun x => pteCls x.2).getD 0
    s.countMiss d (gr.core % 512) c (p.deadlines.getD c none)
  | none => s

/-- R144, R400: a write performed at its home triggers every watch armed on its sector, and a TWAIT parked on a flag
of the sector reads it again, or stops where no path is left (R396). One of a saved team is executed again at its restore
(R400). -/
def State.triggerDevice (s : State) (pa : Nat) : State :=
  let s := s.triggerIf fun w => w.core == none && w.span == pa / 64
  List.foldl (fun s (p : Nat × Group) =>
    match p.2.parked with
    | some { wait := .twait _ fa t _ dst, .. } =>
      if s.placeOf fa / 64 != pa / 64 || (s.teamOf p.2.team).out then s
      else if !s.reaches (coreDie p.2.core) fa then s.stopParked p.1 0x69
      else if flagMeets (s.paLoad (s.placeOf fa) 4) t then (s.serveWait (s.homeOf fa) p.1).wake p.1 dst 0
      else s
    | _ => s) s s.groups

/-! ### Lines and sectors (18 R416, R418-R420) -/

/-- Sectors a line occupies. -/
def lineSectors (l : Option LineState) : Nat :=
  match l with
  | none => 0
  | some (.compressed n) => n
  | some .flat => 8

/-- R420: a line lies in a flat frame. -/
def State.isFlat (s : State) (line : Nat) : Bool := (Tab.get? s.flat (line / 128)).isSome

/-- Backs a line at a write: the home alone decides how many sectors a compressed line needs (R416, log entry 8). A
line of a flat frame has its eight. None: the line must grow and too few sectors are free (R419). -/
def State.backLine (s : State) (line : Nat) : Option State :=
  let d := line * 512 / 2 ^ 38 % 4
  let old := Tab.get? s.lines line
  let n := if s.isFlat line then 8 else 1 + Config.choice s.free % 8
  let st := if s.isFlat line then LineState.flat else .compressed n
  let o := lineSectors old
  if o < n && decide ((s.die d).freeSectors < n - o) then none
  else
    some ({ s with lines := Tab.set s.lines line st, free := s.free + 1 }.modDie d fun di =>
      { di with freeSectors := di.freeSectors + o - n })

/-- R420: the bank that holds a byte of a flat frame: die, stack and bank of its frame's place, and pseudo-channel. -/
def State.bankOf (s : State) (la : Nat) : Nat :=
  let c := Tab.getD s.flat (la / 65536) 0
  (((la / 2 ^ 38 % 4) * 2 + c % 2) * 64 + la / 1024 % 64) * 16 + c / 2 % 16

/-- A wait for sectors still stands: what it is a write of has not ended. -/
def State.waitStands (s : State) (k : SectorWait) : Bool :=
  match k with
  | .op id => (Tab.get? s.ops id).isSome
  | .row key => (Tab.get? s.nmRows key).isSome
  | .posted g => match (s.group g).parked with | some { wait := .posted .., .. } => true | _ => false
  | .done id => (Tab.get? s.dones id).isSome
  | .order d => (s.die d).preempt.busy
  | .clone => s.control.busy && s.control.finishing.isNone
  | .outer _ _ _ => true
  | .log d => !(s.die d).logWait.isEmpty

/-- STALL (R418): some write waits for sectors of a die. -/
def State.stalledOn (s : State) (d : Nat) : Bool := s.sectorWaits.any fun w => w.2 == d && s.waitStands w.1

/-- The wait ends: its write is performed. -/
def State.endWait (s : State) (k : SectorWait) : State :=
  if s.sectorWaits.isEmpty then s else { s with sectorWaits := s.sectorWaits.filter fun w => w.1 != k }

/-! ### The event log (01 R21, R22; 18 R419; 19 R461, R462) -/

/-- Fields packed from bit 0 upward: value and width of each. -/
def packFields (fs : List (Nat × Nat)) : Nat :=
  match fs with
  | [] => 0
  | (v, w) :: r => v % 2 ^ w + 2 ^ w * packFields r

/-- An event record of a unit, with the stamp of its event, is to be stored in its die's ring; or it is dropped and
counted. The first record after a drop carries GAP (R22, R461, R462). Writers never wait. -/
def State.pushRecord (s : State) (d src kind stamp : Nat) (payload : List (Nat × Nat)) : State :=
  if !(s.die d).logEn then s
  else s.modDie d fun di =>
    if 2 ^ 40 ≤ di.logBase.toNat || 2 ^ di.logN ≤ (di.logHead + di.logWait.length + 2 ^ 32 - di.logTail) % 2 ^ 32 then
      { di with logDrops := min (di.logDrops + 1) (2 ^ 32 - 1), gapOwed := true }
    else
      { di with
        logWait := di.logWait ++ [packFields [(stamp, 64), (src, 12), (boolNat di.gapOwed, 1), (0, 3), (kind, 8), (0, 40),
          (packFields payload, 128)]]
        gapOwed := false }

/-- A capacity record of a die: 0 a write waits for sectors, 1 FREE fell below SOFT, 2 it rose to SOFT. -/
def State.pushCapacity (s : State) (d event : Nat) : State :=
  s.pushRecord d (0x248 + d) 0x09 (s.gtc d) [(event, 2), ((s.die d).freeSectors, 32), ((s.die d).soft, 32)]

/-- R418, R419: FREE crossing SOFT is recorded each time. -/
def State.pushPress (s : State) (d : Nat) : State :=
  let di := s.die d
  let p := decide (di.freeSectors < di.soft)
  if p == di.pressed then s
  else (s.modDie d fun di => { di with pressed := p }).pushCapacity d (if p then 1 else 2)

/-- R419: a write waits for sectors of a die; the first such wait is recorded. -/
def State.pushWait (s : State) (k : SectorWait) (d : Nat) : State :=
  if s.sectorWaits.contains (k, d) then s
  else
    let s := if s.stalledOn d then s else s.pushCapacity d 0
    { s with sectorWaits := s.sectorWaits ++ [(k, d)] }

/-- The stack, pseudo-channel and bank of a sector: its flat frame's, or the home's choice (log entry 8). -/
def State.sectorBank (s : State) (pa : Nat) : Nat :=
  if s.isFlat (paLa pa / 512) then s.bankOf (paLa pa) else (homeDie pa * 2048) + Config.choice s.free % 2048

/-- R432: a corrected DRAM error is written back, and its record is to be stored. -/
def State.pushCorrected (s : State) (pa : Nat) (patrol : Bool) : State :=
  match Tab.get? s.faults (paLa pa / 64) with
  | some .corrected =>
    let b := s.sectorBank pa
    ({ s with faults := Tab.erase s.faults (paLa pa / 64) }.pushRecord (homeDie pa) (0x300 + b / 1024) 0x0C
      (s.gtc (homeDie pa)) [(paLa pa / 64, 34), (b / 16, 6), (b, 4), (boolNat patrol, 1)]).draw
  | _ => s

/-- The vectors whose mask has the KIND of a stored record are sent, if its die has a way to the host port (01 R10, 21
R483). -/
def State.sendMsix (s : State) (d r : Nat) : State :=
  if (s.route d 0).isNone then s
  else { s with msixSent := s.msixSent ++
    (List.filter (fun (v : Nat × List Nat) => v.2.contains (bitsOf r 80 8)) s.msixMask).map Prod.fst }

/-- The next record of a die is stored at slot HEAD. A slot whose sector fails its check (18 R431), or whose home has no
path (R450), drops it (log entry 43). None: it waits for a sector. -/
def State.storeRecord (s : State) (d r : Nat) : Option State :=
  let di := s.die d
  let pa := di.logBase.toNat + 32 * (di.logHead % 2 ^ di.logN)
  if s.sectorStatus pa != 0 || !s.reaches d pa then
    some (s.modDie d fun di => { di with logDrops := min (di.logDrops + 1) (2 ^ 32 - 1), gapOwed := true })
  else
    match (s.pushCorrected pa false).backLine (paLa pa / 512) with
    | none => none
    | some s =>
      some (((s.sendMsix d r).setPaBytes pa r 32).triggerDevice pa |>.modDie d fun di =>
        { di with logHead := (di.logHead + 1) % 2 ^ 32 })

/-- A record of a die has been written or dropped: a control command that waits for its own record (21 R479) is one
nearer to its end. -/
def State.recordWritten (s : State) (d : Nat) : State :=
  match s.control.finishing with
  | none => s
  | some n =>
    if d != 0 then s
    else if n ≤ 1 then { s with control := { s.control with busy := false, finishing := none } }
    else { s with control := { s.control with finishing := some (n - 1) } }

/-- Stores a die's records, oldest first, while none of them waits for a sector. -/
def State.storeRecords (s : State) (d : Nat) : Nat → State
  | 0 => s
  | n + 1 =>
    match (s.die d).logWait with
    | [] => s.endWait (.log d)
    | r :: rest =>
      match s.storeRecord d r with
      | none => s.pushWait (.log d) ((s.die d).logBase.toNat / 2 ^ 38 % 4)
      | some s =>
        (((s.modDie d fun di => { di with logWait := rest ++ di.logWait.drop (rest.length + 1) }).recordWritten d).pushPress
          d).storeRecords d n

/-- Every die's records are stored: twice round, for what storing one die's brings another. -/
def State.storeLogs (s : State) : State :=
  [0, 1, 2, 3, 0, 1, 2, 3].foldl (fun s d =>
    if (s.die d).logWait.isEmpty then s else s.storeRecords d ((s.die d).logWait.length + 8)) s

/-- Stores an event record of a unit, with the stamp of its event (R21). -/
def State.logAt (s : State) (d src kind stamp : Nat) (payload : List (Nat × Nat)) : State :=
  (s.pushRecord d src kind stamp payload).storeLogs

def State.log (s : State) (d src kind : Nat) (payload : List (Nat × Nat)) : State :=
  s.logAt d src kind (s.gtc d) payload

def State.notePress (s : State) (d : Nat) : State := (s.pushPress d).storeLogs
def State.noteWait (s : State) (k : SectorWait) (d : Nat) : State := (s.pushWait k d).storeLogs

/-- R432: a corrected DRAM error of a sector of local memory is written back and logged. -/
def State.noteCorrected (s : State) (pa : Nat) (patrol : Bool) : State :=
  if Tab.get? s.faults (paLa pa / 64) == some .corrected && paRegion pa == 0 then (s.pushCorrected pa patrol).storeLogs
  else s

/-- R432: the tables of a request to another package are read (R484). -/
def State.noteRoute (s : State) (pa : Nat) : State :=
  (s.noteCorrected (s.windowAddr pa) false).noteCorrected (s.routeAddr pa) false

/-- R420: the control plane makes a 64 KiB frame flat: its backed lines take eight sectors at the place, once there are
so many. What the manual leaves to the control plane, and how the place is found, is log entry 21. -/
def State.makeFlat (s : State) (frame : Nat) : State :=
  let d := frame / 2 ^ 22 % 4
  let mine := s.lines.filter fun l => l.1 / 128 == frame
  let need := (mine.map fun l => 8 - lineSectors (some l.2)).sum
  if 2 ^ 24 ≤ frame || (Tab.get? s.flat frame).isSome || decide ((s.die d).freeSectors < need) then s
  else
    ({ s with
      flat := Tab.set s.flat frame (Config.frameBank s.free frame), free := s.free + 1
      lines := s.lines.map fun (l : Nat × LineState) => if l.1 / 128 == frame then (l.1, .flat) else l }.modDie d fun di =>
        { di with freeSectors := di.freeSectors - need }).notePress d

/-- A word of a team's sync state is read, by the key of `Team.syncBad` (R187, R330): a corrected error is repaired and
recorded; true: the word is lost. A saved team's lies in memory. -/
def State.readSync (s : State) (t n : Nat) : State × Bool :=
  let tm := s.teamOf t
  match Tab.get? tm.syncBad n with
  | some .uncorrectable => (s, true)
  | some (.corrected b) =>
    if tm.out then (s, false)
    else
      let cl := coreCluster (tm.cores.headD 0) % 64
      ((s.modTeam t fun tm => { tm with syncBad := Tab.erase tm.syncBad n }).log (cl / 16) (0x200 + cl) 0x02
        [(5, 4), (n, 32), (b, 8)], false)
  | none => (s, false)

/-- Stores a sector of local memory for a unit of a die, with its check value; without a path to its home nothing is
stored (19 R450). None: it waits for sectors. -/
def State.putSector (s : State) (d pa v : Nat) : Option State :=
  if !s.reaches d pa then some s
  else
    (s.backLine (paLa pa / 512)).map fun s =>
      (({ s with faults := Tab.erase s.faults (paLa pa / 64) }.setPaBytes pa v 64).triggerDevice pa).notePress (homeDie pa)

/-! ### Line caches (07 R188, 14 R326, R328) -/

def State.cluster (s : State) (c : Nat) : Cluster := Tab.getD s.clusters c {}

/-- R328: the slice of a fused cluster that holds a line. -/
def cacheSlice (pa : Nat) : Nat := bitsOf pa 9 3 ^^^ bitsOf pa 12 3 ^^^ bitsOf pa 15 3 ^^^ bitsOf pa 18 3

/-- The array that may hold a line for a core: its own, or its cluster's slice when fused. -/
def State.cacheKey (s : State) (k pa : Nat) : Nat :=
  if (s.cluster (coreCluster k)).act then 8 * coreCluster k + cacheSlice pa else k

/-- Every array that serves a core (R328). -/
def State.cacheKeys (s : State) (k : Nat) : List Nat :=
  if (s.cluster (coreCluster k)).act then (List.range 8).map fun j => 8 * coreCluster k + j else [k]

/-- Drops from the arrays that serve a core the lines of a range (11 R303, 14 R329). -/
def State.dropLines (s : State) (k lo hi : Nat) : State :=
  { s with caches := s.caches.map fun (c : Nat × Tab CacheLine) =>
      if (s.cacheKeys k).contains c.1 then (c.1, c.2.filter fun l => !(decide (lo ≤ l.1) && decide (l.1 ≤ hi))) else c }

/-- Drops a line from a cache (16 R385). -/
def State.dropLine (s : State) (key line : Nat) : State :=
  { s with caches := Tab.modify s.caches key fun c => Tab.erase c line }

end Sys2Proof.Machine
end

