-- ==== Sys2Proof/Machine/Links.lean ====
section
/-! DEFINITION. The die-to-die links (19 R450-R457): hash lanes, flits, replay, fallback and modules that go down, and
the carriage of exactly-once requests and their responses. -/

namespace Sys2Proof.Machine

def State.modModule (s : State) (d p m : Nat) (f : Module → Module) : State :=
  { s with modules := Tab.set s.modules (moduleKey d p m) (f (s.module d p m)) }

/-- Both ends of a module. -/
def State.modEnds (s : State) (d p m : Nat) (f : Module → Module) : State :=
  (s.modModule d p m f).modModule (neighbour d p) p m f

/-! ### Lanes and modules (R457, R454) -/

/-- The next working module of a port from `m` upward, modulo 4. -/
def State.nextModule (s : State) (d p m : Nat) : Nat :=
  (((List.range 4).map fun j => (m + j) % 4).find? fun j => (s.module d p j).works).getD m

/-- A lane has flits or messages on a module. -/
def Module.carries (m : Module) (lane : Nat) : Bool :=
  (m.buf.any fun f => f.msg.lane == lane) || m.queue.any fun x => x.lane == lane

/-- R457, R454: the module a lane's next flit uses: the one that took the lane over, while its flits there are not all
acknowledged. -/
def State.laneModule (s : State) (d p lane : Nat) : Nat :=
  match Tab.get? s.laneMods (16 * (2 * d + p) + lane) with
  | some m =>
    if (s.module d p m).works && (s.module d p m).carries lane then m else s.nextModule d p (lane % 4)
  | none => s.nextModule d p (lane % 4)

/-! ### The order of service (18 R413, R414) -/

/-- A request that waits: since when, its class and deadline, and its place in the order of arrival. -/
structure Queued where
  since : Nat
  cls : Nat
  deadline : Option Nat
  id : Nat
  deriving DecidableEq, Repr, Inhabited

/-- An earlier deadline; none comes after every other. -/
def deadlineLt (a b : Option Nat) : Bool :=
  match a, b with
  | some x, some y => decide (x < y)
  | some _, none => true
  | none, _ => false

/-- R414: which of two waiting requests is served first. -/
def Queued.before (a b : Queued) (now age : Nat) : Bool :=
  let old := fun (q : Queued) => decide (q.since + max age 1 ≤ now)
  let tie := decide (a.since < b.since) || (a.since == b.since && decide (a.id < b.id))
  if old a || old b then old a && (!old b || tie)
  else if a.cls != b.cls then decide (a.cls < b.cls)
  else if deadlineLt a.deadline b.deadline then true
  else if deadlineLt b.deadline a.deadline then false
  else tie

def Msg.waiting (x : Msg) (j : Nat) : Queued := { since := x.since, cls := x.cls, deadline := x.deadline, id := j }

/-- R414, R457: of the messages that wait at a port, each the first of its lane, the one that is served first. -/
def portFirst (xs : List Msg) (now age : Nat) : Option Nat :=
  (List.range xs.length).foldl (fun (b : Option Nat) j =>
    let x := xs.getD j default
    if (xs.take j).any fun y => y.lane == x.lane then b
    else
      match b with
      | none => some j
      | some i => if (x.waiting j).before ((xs.getD i default).waiting i) now age then some j else some i) none

/-! ### Transmission (R452) -/

def fsnAfter (n : Nat) : Nat := (n + 1) % 4096

/-- FSN `a` is not later than `b`. -/
def fsnLe (a b : Nat) : Bool := decide ((b + 4096 - a) % 4096 < 2048)

/-- A message becomes the next flit. -/
def Module.emit (m : Module) (now : Nat) (x : Msg) : Module :=
  let f : Flit := { fsn := m.fsn, msg := x, since := now }
  { m with fsn := fsnAfter m.fsn, buf := m.buf ++ [f], wire := m.wire ++ [f] }

/-- Up to `n` messages leave, in the order of R414. -/
def Module.pumpN (now age : Nat) : Nat → Module → Module
  | 0, m => m
  | n + 1, m =>
    match portFirst m.queue now age with
    | none => m
    | some j => Module.pumpN now age n ({ m with queue := m.queue.eraseIdx j }.emit now (m.queue.getD j default))

/-- Messages leave while the module is not training and its replay buffer of 512 flits has room. -/
def Module.pump (m : Module) (now age : Nat) : Module :=
  if 2 ≤ m.state then m else m.pumpN now age (512 - m.buf.length)

/-- A message is queued on its lane's module of a port. -/
def State.put (s : State) (d p : Nat) (x : Msg) : State :=
  let m := s.laneModule d p x.lane
  let now := s.gtc d
  { s with laneMods := Tab.set s.laneMods (16 * (2 * d + p) + x.lane) m }.modModule d p m fun r =>
    { r with queue := r.queue ++ [x] }.pump now (s.die d).age

/-- Where a message goes: a response to its source's die. -/
def Msg.target (x : Msg) : Nat := if x.reply.isSome then x.org else x.dst

def State.addReply (s : State) (x : Msg) : State :=
  { s with replies := Tab.set s.replies x.src (Tab.getD s.replies x.src [] ++ [x]) }

/-- R450: a message leaves a die on its route; a request without a path ends with status 0x09. -/
def State.sendOff (s : State) (d : Nat) (x : Msg) : State :=
  match s.route d x.target with
  | some (p :: _) => s.put d p { x with since := s.gtc d }
  | _ => if x.plain then s else s.addReply { x with reply := some { status := 0x09 } }

/-- A message that has reached a die is delivered there, or goes on. -/
def State.hop (s : State) (d : Nat) (x : Msg) : State :=
  if d != x.target then s.sendOff d x
  else if x.plain then (if x.reply.isSome then s else s.sendOff d { x with reply := some {} })
  else if x.reply.isSome then s.addReply x
  else { s with atHome := Tab.set s.atHome d (Tab.getD s.atHome d [] ++ [x]) }

/-- The flits of a request that may be repeated, and of its response, when it crosses from a die to a home. -/
def State.crossing (s : State) (d pa : Nat) : State :=
  if d == s.homeOf pa then s else s.sendOff d { plain := true, org := d, dst := s.homeOf pa, lane := laneOf (paLa pa) }

/-! ### Exactly-once requests (R455) -/

def State.unanswered (s : State) (src dst : Nat) : List Req :=
  (s.reqs.filter fun p => p.2.msg.src == src && p.2.msg.dst == dst).map Prod.snd

/-- The source's oldest unanswered TSN to a die. -/
def State.oldestTsn (s : State) (src dst : Nat) : Nat :=
  match s.unanswered src dst with
  | r :: _ => r.msg.tsn
  | [] => Tab.getD s.tsns (4 * src + dst) 0

/-- TSN `a` lies in a window of 256 entries that starts at `lo` (R456). -/
def tsnIn (lo a : Nat) : Bool := decide ((a + 65536 - lo) % 65536 < 256)

/-- R457: an exactly-once request of a source to a die is in flight in a hash lane, not yet performed. -/
def State.laneBusy (s : State) (src dst lane : Nat) : Bool :=
  s.reqs.any fun r => r.2.msg.src == src && r.2.msg.dst == dst && r.2.msg.lane == lane &&
    (Tab.get? (Tab.getD s.filters (4 * src + dst) {}).marks r.2.msg.tsn).isNone

def State.hasJob (s : State) (j : Job) : Bool := s.reqs.any fun p => p.2.job == j

/-- The ports by which a request leaves for a die now (R450). -/
def State.wayTo (s : State) (org dst : Nat) : List Nat := (s.route org dst).getD []

/-- R457: an earlier request of a lane, not yet performed, went by another way; a later one might overtake it. -/
def State.laneElsewhere (s : State) (src org dst lane : Nat) : Bool :=
  s.laneBusy src dst lane && s.reqs.any fun r =>
    r.2.msg.src == src && r.2.msg.dst == dst && r.2.msg.lane == lane && r.2.via != s.wayTo org dst

/-- R455-R457: a source sends an exactly-once request to another die, unless 256 of its requests to that die are
unanswered, its TSN lies outside the filter's window, or it might overtake an earlier one (log entry 36). It carries a class and a
deadline. -/
def State.sendJob (s : State) (src org dst lane : Nat) (j : Job) (cls : Nat := 2) (deadline : Option Nat := none) : State :=
  let t := Tab.getD s.tsns (4 * src + dst) 0
  if s.hasJob j || 256 ≤ (s.unanswered src dst).length || !tsnIn (s.oldestTsn src dst) t ||
    s.laneElsewhere src org dst lane then s
  else
    let x : Msg := { src := src, org := org, dst := dst, lane := lane, tsn := t, cls := cls, deadline := deadline }
    let s := { s with
      seq := s.seq + 1, tsns := Tab.set s.tsns (4 * src + dst) ((t + 1) % 65536)
      reqs := Tab.set s.reqs s.seq { job := j, msg := x, via := s.wayTo org dst } }
    s.sendOff org { x with oldest := s.oldestTsn src dst }

/-! ### Replay (R452) -/

/-- Every buffered flit from an FSN is sent again, in order; REPLAY counts each. -/
def Module.resend (m : Module) (n now : Nat) : Module :=
  let again := m.buf.filter fun f => fsnLe n f.fsn
  { m with
    buf := m.buf.map fun f => if fsnLe n f.fsn then { f with since := now } else f
    wire := m.wire ++ again, replay := min (m.replay + again.length) (2 ^ 32 - 1) }

def Module.resendAll (m : Module) (now : Nat) : Module :=
  match m.buf with
  | f :: _ => m.resend f.fsn now
  | [] => m

/-! ### Fallback, and modules that go down (R453, R454) -/

/-- R453, R454: a link record, from the port that saw the event. -/
def State.linkLog (s : State) (d p m event : Nat) : State :=
  s.log d (0x308 + 2 * d + p) 0x0D [(d, 2), (p, 1), (m, 2), (event, 2)]

/-- A training begins: what is on the way is lost, but for ACKs. -/
def Module.train (m : Module) (goal : Nat) : Module :=
  { m with
    state := 3, wire := [], discarding := false, goal := some goal, led := false
    notes := m.notes.filter fun n => match n with | .ack _ => true | .nak _ => false }

/-- A training ends in a state; the whole buffer is sent again, and the replay timers start from zero. -/
def Module.trained (m : Module) (st now age : Nat) : Module :=
  let m := { m with state := st, goal := none, led := false }
  if st < 2 then (m.resendAll now).pump now age else m

/-- The messages a module holds, buffered ones first. -/
def Module.held (m : Module) : List Msg := m.buf.map Flit.msg ++ m.queue

/-- A way from a die along ports uses a pair, named by one of its ends. -/
def usesPair (a : Nat) (ps : List Nat) (d p : Nat) : Bool :=
  match ps with
  | [] => false
  | q :: r => (q == p && (a == d || a == neighbour d p)) || usesPair (neighbour a q) r d p

/-- A request is sent again, by the way that now leads to its home. -/
def State.resendReq (s : State) (n : Nat) (r : Req) : State :=
  { s with reqs := Tab.set s.reqs n { r with via := s.wayTo r.msg.org r.msg.dst } }.sendOff r.msg.org
    { r.msg with oldest := s.oldestTsn r.msg.src r.msg.dst }

/-- R454: once a pair is down, the sources send again, in order, every unanswered request that went by it or whose
response was lost with it. -/
def State.reroute (s : State) (lost : List Msg) (d p m : Nat) : State :=
  let rs := s.reqs.filter fun r =>
    usesPair r.2.msg.org r.2.via d p ||
      lost.any fun x => !x.plain && x.src == r.2.msg.src && x.dst == r.2.msg.dst && x.tsn == r.2.msg.tsn
  let s := rs.foldl (fun (s : State) (r : Nat × Req) => s.resendReq r.1 r.2) s
  if rs.isEmpty then s else s.linkLog d p m 3

/-- R396: a TWAIT to whose flag no path is left stops with 0x69. -/
def State.stopUnreached (s : State) : State :=
  s.groups.foldl (fun (s : State) (g : Nat × Group) =>
    match g.2.parked with
    | some { wait := .twait _ pa _ _ _, .. } =>
      if (s.teamOf g.2.team).out || s.reaches (coreDie g.2.core) pa then s else s.stopParked g.1 0x69
    | _ => s) s

/-- R454: a module goes down at both ends; its lanes move with what it held. -/
def State.goDown (s : State) (d p m : Nat) : State :=
  let e := neighbour d p
  let xs := (s.module d p m).held
  let ys := (s.module e p m).held
  let fx := (s.module d p m).fsn
  let fy := (s.module e p m).fsn
  let down := fun (f : Nat) (r : Module) =>
    { r with
      state := 2, goal := none, led := false, buf := [], queue := [], wire := [], notes := [], discarding := false
      expect := f }
  let s := ((s.modModule d p m (down fy)).modModule e p m (down fx)).linkLog d p m 1
  if s.pairUp d p then
    ys.foldl (fun (s : State) x => s.put e p x) (xs.foldl (fun (s : State) x => s.put d p x) s)
  else ((s.linkLog d p m 2).reroute (xs ++ ys) d p m).stopUnreached

/-- R453, R454: EMAX is reached at an end: the module falls back, or, at 32 lanes, goes down. A fallback clears the
count, at both ends, and begins a new window (Table 19.1). -/
def State.fallBack (s : State) (d p m : Nat) : State :=
  if (s.module d p m).state == 0 then
    (s.modEnds d p m fun r => { r.train 4 with crc := 0, windowAt := s.gtc d }).modModule d p m fun r =>
      { r with led := true }
  else s.goDown d p m

def Module.crcLimit (m : Module) : Nat := max m.emax 1
/-- WIN ticks have passed since the CRC window began (R453). -/
def Module.windowOver (m : Module) (now : Nat) : Bool := decide (m.windowAt + max m.win 1 ≤ now)

/-! ### Receiving -/

/-- A flit is discarded and the expected one asked for. -/
def State.refuseFlit (s : State) (d p m : Nat) : State :=
  let n := (s.module d p m).expect
  (s.modModule d p m fun r => { r with discarding := true }).modModule (neighbour d p) p m fun r =>
    { r with notes := r.notes ++ [.nak n] }

/-- FLIT_RECEIVE (R452, R453): the next flit on the way to an end of a module. -/
def execFlitReceive (die port module : Nat) (crcOk : Bool) (s : State) : Res :=
  .next <|
    let e := neighbour die port
    let rx := s.module die port module
    match (s.module e port module).wire with
    | [] => s
    | f :: rest =>
      if 2 ≤ rx.state then s
      else
        let s := s.modModule e port module fun r => { r with wire := rest }
        if !crcOk then
          let now := s.gtc die
          let rx := if rx.windowOver now then { rx with crc := 0, windowAt := now } else rx
          let s := s.modModule die port module fun _ => { rx with crc := min (rx.crc + 1) 65535 }
          if rx.crcLimit ≤ rx.crc + 1 then s.fallBack die port module else s.refuseFlit die port module
        else if f.fsn == rx.expect then
          ((s.modModule die port module fun r => { r with expect := fsnAfter r.expect, discarding := false }).modModule e port
            module fun r => { r with notes := r.notes ++ [.ack f.fsn] }).hop die f.msg
        else if fsnLe f.fsn rx.expect || rx.discarding then s
        else s.refuseFlit die port module

/-- ACK_RECEIVE (R452): a cumulative ACK frees flits. -/
def execAckReceive (die port module : Nat) (s : State) : Res :=
  .next <|
    let now := s.gtc die
    let age := (s.die die).age
    s.modModule die port module fun r =>
      match r.notes with
      | .ack n :: rest =>
        if r.state == 3 then r
        else { r with notes := rest, buf := r.buf.filter fun f => !fsnLe f.fsn n }.pump now age
      | _ => r

/-- NAK_RECEIVE (R452): go-back-N. -/
def execNakReceive (die port module : Nat) (s : State) : Res :=
  .next <|
    let now := s.gtc die
    s.modModule die port module fun r =>
      match r.notes with
      | .nak n :: rest => if r.state == 3 then r else { r with notes := rest }.resend n now
      | _ => r

/-- REPLAY_TIMEOUT (R452). -/
def execReplayTimeout (die port module : Nat) (s : State) : Res :=
  .next <|
    let now := s.gtc die
    s.modModule die port module fun r =>
      match r.buf with
      | f :: _ => if r.state < 2 && decide (f.since + 2000 ≤ now) then r.resendAll now else r
      | [] => r

/-- CRC_WINDOW_END (R453): the count is cleared; one that stands at a limit lowered meanwhile is a fallback. -/
def execCrcWindowEnd (die port module : Nat) (s : State) : Res :=
  .next <|
    let r := s.module die port module
    if !r.windowOver (s.gtc die) then s
    else
      let now := s.gtc die
      let s := s.modModule die port module fun r => { r with windowAt := now }
      if r.state < 2 && decide (r.crcLimit ≤ r.crc) then s.fallBack die port module
      else s.modModule die port module fun r => { r with crc := 0 }

end Sys2Proof.Machine
end

