-- ==== Sys2Proof/Machine/Translate.lean ====
section
/-! DEFINITION. The context table, translation and its checks (18 R421-R426), and copy-on-write (18 R428). -/

namespace Sys2Proof.Machine

/-! ### The context table (21 Table 21.4) -/

/-- Where entry `c` of the context table stands. -/
def State.ctxAddr (s : State) (c : Nat) : Nat := s.ctxBase.toNat + 64 * c

/-- Entry `c` of the context table, 64 bytes, as a die reads it. One whose sector fails its check (18 R432), or to which
the die has no path (19 R450), is taken as all zero, a context that is not enabled (log entry 43). -/
def State.ctxEntry (s : State) (d c : Nat) : Nat :=
  if s.sectorStatus (s.ctxAddr c) == 0 && s.reaches d (s.ctxAddr c) then s.paLoad (s.ctxAddr c) 64 else 0
def ctxEn (e : Nat) : Bool := bitOf e 0
def ctxCompat (e : Nat) : Bool := bitOf e 1
def ctxCtl (e : Nat) : Bool := bitOf e 2
def ctxPolicy (e : Nat) : Nat := bitsOf e 16 14
def ctxRoot (e : Nat) : Nat := bitsOf e 64 40 * 4096
def ctxHvec (e : Nat) : Nat := bitsOf e 128 57
/-- The 16-bit budget of a class, in units of 64 ticks (R413). -/
def ctxBudget (e cls : Nat) : Nat := bitsOf e (192 + 16 * cls) 16
def ctxSave (e : Nat) : Nat := bitsOf e 256 52
def ctxSaveSize (e : Nat) : Nat := bitsOf e 320 32

/-- R413, R220: the deadline of a request of a class that a die accepts now; none for the budget 0xFFFF. -/
def State.deadline (s : State) (d ctx cls : Nat) : Option Nat :=
  let b := ctxBudget (s.ctxEntry d ctx) cls
  if b == 0xFFFF then none else some (s.gtc d + 64 * b)

/-- The deadlines of the four classes. -/
def State.deadlinesAt (s : State) (d ctx : Nat) : List (Option Nat) := (List.range 4).map fun c => s.deadline d ctx c

/-! ### Addresses -/

/-- R181: an address of the on-chip region. -/
def onchip (va : Nat) : Bool := bitsOf va 41 16 == 0xFFFF

def pageOf (va : Nat) : Nat := va % 2 ^ 57 / 4096

/-! ### Page-table entries (Table 18.5) -/

def pteV (e : Nat) : Bool := bitOf e 0
def pteLeaf (e : Nat) : Bool := bitOf e 1
def pteR (e : Nat) : Bool := bitOf e 2
def pteW (e : Nat) : Bool := bitOf e 3
def pteX (e : Nat) : Bool := bitOf e 4
def pteCow (e : Nat) : Bool := bitOf e 5
def pteFlat (e : Nat) : Bool := bitOf e 6
def pteTag (e : Nat) : Bool := bitOf e 7
def pteNm (e : Nat) : Bool := bitOf e 8
def pteC64 (e : Nat) : Bool := bitOf e 11
def pteAddr (e : Nat) : Nat := bitsOf e 12 40 * 4096

/-- Bytes a leaf maps at a level (R421). -/
def pageBytes (level : Nat) : Nat := 2 ^ (12 + 9 * level)

/-- R410: whether an address lies in a region a translation may yield. -/
def regionOk (pa : Nat) : Bool :=
  let r := paRegion pa
  if r == 0 then bitsOf pa 40 8 == 0 else r == 1 || r == 2 || 8 ≤ r

/-- R423: a valid entry at a level is well formed. -/
def pteOk (level e : Nat) : Bool :=
  bitsOf e 52 12 == 0 &&
    (if pteLeaf e then
      level != 4 && pteAddr e % pageBytes level == 0 && !(pteC64 e && level != 0) && !(pteFlat e && pteTag e) &&
        !(pteNm e && !pteFlat e) && !(pteCow e && (pteW e || level != 0)) &&
        !((pteFlat e || pteTag e || pteNm e || pteCow e) && paRegion (pteAddr e) != 0) && regionOk (pteAddr e)
    else level != 0 && bitsOf e 2 10 == 0 && paRegion (pteAddr e) == 0 && regionOk (pteAddr e))

/-- What a translation yields: the physical address, the leaf and its level, and where the leaf stands. -/
structure Xlate where
  pa : Nat
  pte : Nat
  level : Nat
  at_ : Nat
  deriving DecidableEq, Repr, Inhabited

def xlateOf (va e level at_ : Nat) : Xlate :=
  { pa := pteAddr e + va % pageBytes level, pte := e, level := level, at_ := at_ }

/-- The sixteen entries of an address's block stand at the first of these; its own is at the second. -/
def blockAt (va tbl : Nat) : Nat × Nat :=
  let i := bitsOf va 12 9
  (tbl + 8 * (i / 16 * 16), tbl + 8 * i)

/-- Some entry of a block is the leaf of a 64 KiB page (R425). -/
def State.blockBig (s : State) (va tbl : Nat) : Bool :=
  (List.range 16).any fun j =>
    let e := s.paLoad ((blockAt va tbl).1 + 8 * j) 8
    pteV e && pteLeaf e && pteC64 e

/-- R425: which entry translates an address at level 0: its own; of a block with a C64 entry any of the sixteen, by a
free choice. -/
def State.entryOf (s : State) (ctx va tbl : Nat) : Nat :=
  if s.blockBig va tbl then (blockAt va tbl).1 + 8 * (Config.entry64 s.free ctx va % 16) else (blockAt va tbl).2

/-- The entry that translates an address at level 0, with ADDR[15:12] of the address for a 64 KiB page, and where the
rewrite of a copy-on-write finds it. -/
def State.blockEntry (s : State) (ctx va tbl : Nat) : Nat × Nat :=
  let e := s.paLoad (s.entryOf ctx va tbl) 8
  if s.blockBig va tbl then (setBits e 12 4 (bitsOf va 12 4), (blockAt va tbl).1) else (e, (blockAt va tbl).2)

/-- What keeps the walker of a die from an entry: no path to it (R450), or a sector that fails its check (R432). -/
def State.entryCause (s : State) (die a : Nat) : Option Nat :=
  if !s.reaches die a then some 0x69
  else if s.sectorStatus a != 0 then some (statusCause (s.sectorStatus a)) else none

/-- R421-R423: the walk from a table at a level, or the cause it raises. -/
def State.walkFrom (s : State) (die ctx va : Nat) (tbl : Nat) : Nat → Except Nat Xlate
  | 0 =>
    match s.entryCause die (s.entryOf ctx va tbl) with
    | some c => .error c
    | none =>
      let (e, a) := s.blockEntry ctx va tbl
      if pteV e && pteOk 0 e then .ok (xlateOf va e 0 a) else .error 0x20
  | n + 1 =>
    let a := tbl + 8 * bitsOf va (12 + 9 * (n + 1)) 9
    match s.entryCause die a with
    | some c => .error c
    | none =>
      let e := s.paLoad a 8
      if !(pteV e && pteOk (n + 1) e) then .error 0x20
      else if pteLeaf e then .ok (xlateOf va e (n + 1) a)
      else s.walkFrom die ctx va (pteAddr e) n

/-- The entries a walk from a table reads, with the tables it passes, by level. -/
def State.walkPath (s : State) (ctx va tbl : Nat) : Nat → List (Nat × Nat × Nat)
  | 0 => [(0, tbl, s.entryOf ctx va tbl)]
  | n + 1 =>
    let a := tbl + 8 * bitsOf va (12 + 9 * (n + 1)) 9
    let e := s.paLoad a 8
    (n + 1, tbl, a) ::
      (if pteV e && pteOk (n + 1) e && !pteLeaf e then s.walkPath ctx va (pteAddr e) n else [])

/-- A walk of a context's table (R421), whose root is read from the context table. -/
def State.walk (s : State) (die ctx va : Nat) : Except Nat Xlate :=
  if onchip va then .error 0x20
  else
    match s.entryCause die (s.ctxAddr ctx) with
    | some c => .error c
    | none => s.walkFrom die ctx (va % 2 ^ 57) (ctxRoot (s.ctxEntry die ctx)) 4

def tlbKey (ctx va : Nat) : Nat := ctx * 2 ^ 45 + pageOf va

/-- The key of an upper-level pointer: the level of the table it leads to, the context, and the bits of the address that
lead there. -/
def ptrKey (level ctx va : Nat) : Nat := (level * 2 ^ 12 + ctx) * 2 ^ 45 + pageOf va / 2 ^ (9 * (level + 1))

/-- The table at a level for an address, by a pointer that the core's TLB or its cluster's holds (R426). -/
def State.heldTable (s : State) (k ctx va level : Nat) : Option Nat :=
  match Tab.get? (Tab.getD s.ptrs k []) (ptrKey level ctx va) with
  | some t => some t
  | none => Tab.get? (Tab.getD s.ptrs (512 + coreCluster k) []) (ptrKey level ctx va)

/-- R426: where a core's walk starts: at the lowest level for which a pointer is held, if the walker still has it (log
entry 8); otherwise nowhere but at the root. -/
def State.walkStart (s : State) (k ctx va : Nat) : Option (Nat × Nat) :=
  (List.range 4).findSome? fun n =>
    match s.heldTable k ctx va n with
    | some t => if Config.choice (s.free + n) % 2 == 0 then some (n, t) else none
    | none => none

/-- A walk on behalf of a core, by the pointers held. -/
def State.walkFor (s : State) (k ctx va : Nat) : Except Nat Xlate :=
  match s.walkStart k ctx va with
  | some (n, t) => if onchip va then .error 0x20 else s.walkFrom (coreDie k) ctx (va % 2 ^ 57) t n
  | none => s.walk (coreDie k) ctx va

/-- The leaf held for an address by the core's TLB or its cluster's. -/
def State.heldLeaf (s : State) (k ctx va : Nat) : Option Leaf :=
  match Tab.get? (Tab.getD s.tlbs k []) (tlbKey ctx va) with
  | some l => some l
  | none => Tab.get? (Tab.getD s.tlbs (512 + coreCluster k) []) (tlbKey ctx va)

/-- R426, R427: a TLB's leaf translates until it is invalidated; any other address is walked. -/
def State.lookup (s : State) (k ctx va : Nat) : Except Nat Xlate :=
  match s.heldLeaf k ctx va with
  | some l => if onchip va then .error 0x20 else .ok (xlateOf (va % 2 ^ 57) l.pte.toNat l.level 0)
  | none => s.walkFor k ctx va

/-- Where the entries stand that a walk from a table, or from the root, reads. -/
def State.walkReads (s : State) (die ctx va : Nat) (start : Option (Nat × Nat)) : List Nat :=
  match start with
  | some (n, t) => (s.walkPath ctx (va % 2 ^ 57) t n).map fun (p : Nat × Nat × Nat) => p.2.2
  | none =>
    s.ctxAddr ctx :: (s.walkPath ctx (va % 2 ^ 57) (ctxRoot (s.ctxEntry die ctx)) 4).map fun (p : Nat × Nat × Nat) => p.2.2

/-- R432: the corrected errors that a walk from a table, or from the root, meets are written back and logged. -/
def State.notePath (s : State) (die ctx va : Nat) (start : Option (Nat × Nat)) : State :=
  if s.faults.isEmpty || onchip va then s
  else (s.walkReads die ctx va start).foldl (fun s a => s.noteCorrected a false) s

/-- The entries that a core's access has walked: none where a leaf is held. -/
def State.walkedBy (s : State) (k ctx va : Nat) : List Nat :=
  if (s.heldLeaf k ctx va).isSome || onchip va then [] else s.walkReads (coreDie k) ctx va (s.walkStart k ctx va)

/-- R414, R415: a page walk has class 0 and the deadline of its access; its requester is the walkers of a die. Each read is
served at its entry's home. -/
def State.serveWalk (s : State) (die : Nat) (as : List Nat) (deadline : Option Nat) : State :=
  as.foldl (fun (s : State) a => s.countMiss (s.homeOf a) (0x248 + die) 0 deadline) s

/-- The same for the walk of a core's access, if it walks. -/
def State.noteWalk (s : State) (k ctx va : Nat) : State :=
  if (s.heldLeaf k ctx va).isSome then s else s.notePath (coreDie k) ctx va (s.walkStart k ctx va)

/-- What an access needs (R424). NMRED needs what an update does and writes nothing: it copies no page (R438). -/
inductive Acc where
  | fetch | read | write | atomic | near | nearRead
  deriving DecidableEq, Repr, Inhabited

def Acc.writes (a : Acc) : Bool := match a with | .write | .atomic | .near => true | _ => false

/-- R424: the cause of an access the leaf does not permit. A near-memory command needs, besides, a flat page marked NM. -/
def rightsCause (a : Acc) (e : Nat) : Option Nat :=
  let wr := pteW e || pteCow e
  match a with
  | .fetch => if pteX e then none else some 0x23
  | .read => if pteR e then none else some 0x21
  | .write => if wr then none else some 0x22
  | .atomic => if !pteR e then some 0x21 else if wr then none else some 0x22
  | .near | .nearRead =>
    if !pteR e then some 0x21 else if !wr then some 0x22 else if pteFlat e && pteNm e then none else some 0x25

/-- R424: the cause of an access to what a translation gives; a near-memory command needs a flat frame there. -/
def State.accessCause (s : State) (a : Acc) (x : Xlate) : Option Nat :=
  match rightsCause a x.pte with
  | some c => some c
  | none => if (a == .near || a == .nearRead) && !s.isFlat (paLa x.pa / 512) then some 0x25 else none

/-! ### Entries that change under accesses (R427) -/

/-- Pages of a range, each with the entry it was checked with, that a walk now gives otherwise. -/
def State.stale (s : State) (die ctx p n : Nat) (ps : List (Nat × Nat)) : List Nat :=
  (ps.filter fun x => decide (p ≤ x.1) && decide (x.1 < p + n) &&
    (match s.walk die ctx (4096 * x.1) with
      | .ok y => y.pte != x.2
      | .error _ => true)).map Prod.fst

/-- R427: accesses to pages of a range that passed their check with an entry which is no longer the page's are refused:
those of operations and rows with status 0x0B, waits with cause 0x6B. One not yet accepted is checked again (log entry
43). -/
def State.withdraw (s : State) (ctx p n : Nat) : State :=
  let s := { s with
    ops := s.ops.map fun (o : Nat × Op) =>
      if o.2.ctx == ctx && !o.2.passed.isEmpty then
        (o.1, { o.2 with
          withdrawn := o.2.withdrawn ++ (s.stale (coreDie o.2.core) ctx p n o.2.passed).map fun q => (q, 1) })
      else o
    nmRows := s.nmRows.map fun (r : Nat × NmRow) =>
      if r.2.ctx == ctx && !(s.stale (coreDie r.2.core) ctx p n [(pageOf r.2.va, r.2.pte)]).isEmpty then
        (r.1, { r.2 with gone := true })
      else r }
  s.groups.foldl (fun (s : State) (g : Nat × Group) =>
    match g.2.parked with
    | some q =>
      if q.passed.isEmpty || (s.teamOf g.2.team).ctx != ctx || (s.teamOf g.2.team).out then s
      else if (s.stale (coreDie g.2.core) ctx p n q.passed).isEmpty then s
      else s.stopParked g.1 0x6B
    | none => s) s

/-! ### Copy-on-write (R428, R429) -/

/-- The bytes of `[a, a+n)` of a memory. -/
def cellsIn (m : List Host.Cell) (a n : Nat) : List Host.Cell :=
  List.filter (fun c => decide (a ≤ c.1) && decide (c.1 < a + n)) m

/-- The faults of a line's copy: an error that DRAM corrects is corrected in what is read; a check value is copied with
its sector, and does not match what DRAM could not restore (R26, log entry 43). -/
def copyFault (f : SectorFault) : Option SectorFault :=
  match f with
  | .corrected => none
  | .mismatch | .uncorrectable => some .mismatch

/-- R104, R428: a line copied whole, with its descriptors and check values; an unbacked line stays unbacked. -/
def State.copyLine (s : State) (src dst : Nat) : State :=
  let s := (List.range 8).foldl (fun (s : State) j => s.noteCorrected (64 * (8 * src + j)) false) s
  match Tab.get? s.lines src with
  | none => s
  | some st =>
    let a := 512 * src
    let b := 512 * dst
    let st := if s.isFlat dst then LineState.flat else .compressed (lineSectors (some st))
    let mem := List.foldl (fun m c => cellWrite m (b + (c.1 - a)) c.2) s.mem (cellsIn s.mem a 512)
    let desc := List.foldl (fun t j =>
      match Tab.get? s.desc (8 * src + j) with | some d => Tab.set t (8 * dst + j) d | none => t) s.desc (List.range 8)
    let flt := List.foldl (fun t j =>
      match (Tab.get? s.faults (8 * src + j)).bind copyFault with
      | some d => Tab.set t (8 * dst + j) d
      | none => t) s.faults (List.range 8)
    let s := { s with mem := mem, desc := desc, faults := flt, lines := Tab.set s.lines dst st }.modDie (dst / 2 ^ 29 % 4)
      fun di => { di with freeSectors := di.freeSectors - lineSectors (some st) }
    (List.range 8).foldl (fun (s : State) j => s.triggerDevice (64 * (8 * dst + j))) s

/-- Pages of 4 KiB that a leaf's page has (R421, R425). -/
def Leaf.pages (l : Leaf) : Nat := if pteC64 l.pte.toNat then 16 else 2 ^ (9 * l.level)

/-- Drops every leaf whose page meets pages `[p, p+n)` of a context from every TLB (R427). -/
def State.dropLeaves (s : State) (ctx p n : Nat) : State :=
  { s with tlbs := s.tlbs.map fun t =>
      (t.1, t.2.filter fun (l : Nat × Leaf) =>
        let q := l.1 % 2 ^ 45 / l.2.pages * l.2.pages
        l.1 / 2 ^ 45 != ctx || !(decide (p < q + l.2.pages) && decide (q < p + n))) }

/-- Drops the upper-level pointers that lead to pages `[p, p+n)` of a context from every TLB (R426, R427). -/
def State.dropPtrs (s : State) (ctx p n : Nat) : State :=
  { s with ptrs := s.ptrs.map fun t =>
      (t.1, t.2.filter fun x =>
        let size := 2 ^ (9 * (x.1 / 2 ^ 57 + 1))
        let q := x.1 % 2 ^ 45 * size
        x.1 / 2 ^ 45 % 2 ^ 12 != ctx || !(decide (q < p + n) && decide (p < q + size))) }

/-- The checks of the issue under way that passed with a page's old entry have passed with its new one (R427). -/
def State.renewChecks (s : State) (p n e : Nat) : State :=
  s.modIss fun i =>
    { i with checked := i.checked.map fun (x : Nat × Nat) =>
        if p ≤ x.1 && x.1 < p + n then (x.1, if n == 1 then e else setBits e 12 4 (x.1 % 16)) else x }

/-- The frame of a copy-on-write leaf: its address and size. -/
def cowFrame (e : Nat) : Nat × Nat :=
  if pteC64 e then (pteAddr e / 65536 * 65536 % 2 ^ 40, 65536) else (pteAddr e % 2 ^ 40, 4096)

/-- What a copy would take from a die: sectors, by the backed lines of the frame. -/
def State.copySectors (s : State) (e : Nat) : Nat :=
  let (old, size) := cowFrame e
  ((List.range (size / 512)).map fun i =>
    match Tab.get? s.lines (old / 512 + i) with
    | some l => if pteFlat e then 8 else lineSectors (some l)
    | none => 0).sum

/-- R428: why a copy is refused: an entry's sector fails its check (R431), or a line's bytes are lost (R432, log entry
43); no frame is left; or it needs sectors under pressure, or more than are free. -/
def State.copyRefused (s : State) (x : Xlate) (pool : List Nat) (di : Die) : Option Nat :=
  let e := x.pte
  let (old, size) := cowFrame e
  let entries := if pteC64 e then [x.at_ / 128 * 128, x.at_ / 128 * 128 + 64] else [x.at_]
  match entries.find? fun a => s.sectorStatus a != 0 with
  | some a => some (statusCause (s.sectorStatus a))
  | none =>
    let need := s.copySectors e
    if pool.isEmpty || (need != 0 && decide (di.freeSectors < di.soft)) || decide (di.freeSectors < need) then some 0x28
    else if (List.range (size / 64)).any fun j =>
        (Tab.get? s.lines (old / 512 + j / 8)).isSome && s.sectorStatus (old + 64 * j) == 0x08 then some 0x68
    else none

/-- R428: the entries of a copied page are rewritten: ADDR the new frame's, COW 0, W 1. -/
def State.rewriteLeaf (s : State) (x : Xlate) (n : Nat) : State :=
  let big := pteC64 x.pte
  (List.range (if big then 16 else 1)).foldl (fun (s : State) j =>
    let a := if big then x.at_ / 128 * 128 + 8 * j else x.at_
    let f := setBits (setBits (s.paLoad a 8) 5 1 0) 3 1 1
    (s.setPaBytes a (setBits f 12 40 ((n + 4096 * j) / 4096)) 8).triggerDevice a) s

/-- R428: the copy of the page at `va` whose leaf has COW = 1, or the cause that refuses it. Accesses under the old entry
that are not yet performed are refused, as R427 has it. The record's VA is the page's first address (DEDUCED, log entry
37). -/
def State.copyPage (s : State) (ctx va : Nat) (x : Xlate) : State × Option Nat :=
  let e := x.pte
  let big := pteC64 e
  let (old, size) := cowFrame e
  let d := old / 2 ^ 38
  let di := s.die d
  let pool := if pteFlat e then (if big then di.poolFlat else []) else if big then di.pool64k else di.pool4k
  match s.copyRefused x pool di with
  | some c => (s, some c)
  | none =>
    let n := pool.headD 0
    let s := s.modDie d fun di =>
      if pteFlat e then { di with poolFlat := pool.drop 1 } else if big then { di with pool64k := pool.drop 1 }
      else { di with pool4k := pool.drop 1 }
    let s := List.foldl (fun s i => s.copyLine (old / 512 + i) (n / 512 + i)) s (List.range (size / 512))
    let s := s.rewriteLeaf x n
    let p := if big then pageOf va / 16 * 16 else pageOf va
    let k := if big then 16 else 1
    let f := setBits (setBits (setBits e 5 1 0) 3 1 1) 12 40 (n / 4096)
    let s := ((s.dropLeaves ctx p k).renewChecks p k f).withdraw ctx p k
    ((s.log d (0x248 + d) 0x0A [(ctx, 12), (4096 * p, 57), (old / 4096, 28), (n / 4096, 28)]).notePress d, none)

/-- A check passes: the page and its entry are noted for R427, but for a fetch, which is performed at once. -/
def State.passed (s : State) (va : Nat) (a : Acc) (x : Xlate) : State × Except Nat Xlate :=
  (if a == .fetch then s else s.modIss fun i => { i with checked := i.checked ++ [(pageOf va, x.pte)] }, .ok x)

/-- The end of a check: the cause, or its pass. -/
def State.checkEnd (s : State) (va : Nat) (a : Acc) (x : Xlate) : State × Except Nat Xlate :=
  match s.accessCause a x with
  | some c => (s, .error c)
  | none => s.passed va a x

/-- R424, R428: translates and checks one access of a core's agents; a write to a copy-on-write page copies it
first, and is then checked against the new entry. Gives the address, or the cause. -/
def State.access (s : State) (k ctx va : Nat) (a : Acc) : State × Except Nat Xlate :=
  let s := s.noteWalk k ctx va
  match s.lookup k ctx va with
  | .error c => (s, .error c)
  | .ok x =>
    match s.accessCause a x with
    | some c => (s, .error c)
    | none =>
      if a.writes && pteCow x.pte then
        let s := s.notePath (coreDie k) ctx va none
        match s.walk (coreDie k) ctx va with
        | .error c => (s, .error c)
        | .ok y =>
          if !pteCow y.pte then s.checkEnd va a y
          else
            match s.copyPage ctx va y with
            | (s, some c) => (s, .error c)
            | (s, none) =>
              match s.walk (coreDie k) ctx va with
              | .error c => (s, .error c)
              | .ok z => s.checkEnd va a z
      else s.passed va a x

/-- Checks every page of `[va, va + n)`; gives the cause and the address of the first that fails. -/
def State.accessPages (s : State) (k ctx : Nat) (a : Acc) (p : Nat) (va : Nat) : Nat → State × Option (Nat × Nat)
  | 0 => (s, none)
  | n + 1 =>
    let v := max va (4096 * p) % 2 ^ 57
    match s.access k ctx v a with
    | (s', .error c) => (s', some (c, v))
    | (s', .ok _) => s'.accessPages k ctx a (p + 1) va n

def State.accessRange (s : State) (k ctx va n : Nat) (a : Acc) : State × Option (Nat × Nat) :=
  if n == 0 then (s, none) else s.accessPages k ctx a (va / 4096) va ((va + n - 1) / 4096 - va / 4096 + 1)

/-- R102: whether a page is tagged. -/
def Xlate.tagged (x : Xlate) : Bool := pteTag x.pte

end Sys2Proof.Machine
end

