-- ==== Sys2Proof/Machine/Registers.lean ====
section
/-! DEFINITION. The control space (21 R476): each register's words as they read, and what a write of a word does,
field by field under its access code (00 R3, R4). A register is read and written in words of 64 bits. -/

namespace Sys2Proof.Machine

/-! ### Reading (Tables 14.1, 15.1, 15.6, 15.12, 18.3, 18.4, 19.1, 19.3, 21.2, 21.3, 21.5, 21.6) -/

def Queue.word (q : Queue) (i : Nat) : Nat :=
  match i with
  | 0 => packFields [(q.base, 57), (q.logn, 4), (boolNat q.en, 1)]
  | 1 => packFields [(q.ctx, 12), (q.prio, 6), (q.cls, 2)]
  | 2 => packFields [(q.tail, 32), (q.head, 32)]
  | _ => 0

def Graph.word (g : Graph) (i : Nat) : Nat :=
  match i with
  | 0 => g.nodes
  | 1 => g.edges
  | 2 => packFields [(g.nnm1, 8), (g.nem1, 8), (g.ctx, 12), (g.prio, 6), (g.cls, 2), (boolNat g.en, 1),
      (boolNat g.run, 1)]
  | 3 => g.dl
  | _ => 0

def Preempt.word (p : Preempt) (i : Nat) : Nat :=
  match i with
  | 0 => packFields [(p.ctx, 12), (boolNat p.kind, 1), (p.cores, 8), (0, 41), (boolNat p.busy, 1)]
  | 1 => p.gseq
  | 2 => p.report
  | _ => 0

def Cluster.word (c : Cluster) : Nat :=
  packFields [(boolNat c.fuse, 1), (boolNat c.act, 1), (boolNat (c.fuse != c.act), 1)]

/-- Table 18.4; STALL is given (R418). -/
def Die.freeWord (d : Die) (stall : Bool) (i : Nat) : Nat :=
  match i with
  | 0 => packFields [(d.freeSectors, 32), (d.soft, 32)]
  | 1 => packFields [(boolNat (decide (d.freeSectors < d.soft)), 1), (boolNat stall, 1), (0, 14),
      (d.pool4k.length, 16), (d.pool64k.length, 16), (d.poolFlat.length, 16)]
  | _ => 0

def Module.word (m : Module) (i : Nat) : Nat :=
  match i with
  | 0 => packFields [(m.state, 2), (0, 6), (m.emax, 8), (m.crc, 16), (m.win, 32)]
  | 1 => m.replay
  | _ => 0

/-- Table 19.3. -/
def Die.logWord (d : Die) (i : Nat) : Nat :=
  match i with
  | 0 => packFields [(d.logBase.toNat, 52), (d.logN, 4), (boolNat d.logEn, 1)]
  | 1 => packFields [(d.logHead, 32), (d.logTail, 32)]
  | 2 => d.logDrops
  | _ => 0

/-- Table 21.5. -/
def Manage.limitWord (m : Manage) (i : Nat) : Nat :=
  match i with
  | 0 => packFields [(m.plim, 11), (0, 5), (m.clim, 11), (0, 5), (m.cclk, 11), (0, 5), (m.pwr, 11), (0, 4),
      (boolNat m.safe, 1)]
  | 1 => packFields ((List.range 4).map fun d => (m.tj.getD d 0, 8))
  | _ => 0

def Control.word (c : Control) (i : Nat) : Nat :=
  match i with
  | 0 => packFields [(c.op, 4), (c.ctx, 12), (c.ctx2, 12), (0, 34), (boolNat c.busy, 1)]
  | 1 => c.a0
  | 2 => c.a1
  | 3 => c.a2
  | 4 => packFields [(c.status, 8), (c.count, 24)]
  | _ => 0

/-- Table 21.6. -/
def Manage.firmWord (m : Manage) (i : Nat) : Nat :=
  match i with
  | 0 => packFields [(Config.fusedSvn.toNat, 32), (0, 1), (boolNat m.safe, 1)]
  | 1 => m.hwbase.getD 0
  | 2 => m.hwsize.getD 0
  | _ => 0

def Die.queue (d : Die) (q : Nat) : Queue := Tab.getD d.queues q {}
def Die.graph (d : Die) (g : Nat) : Graph := Tab.getD d.graphs g {}

/-- R476: the 64-bit word at a register offset of a die; an unlisted one reads zero. -/
def State.regWord (s : State) (d off : Nat) : Nat :=
  let di := s.die d
  let within := fun (base size : Nat) => decide (base ≤ off) && decide (off < base + size)
  let wd := fun (base size : Nat) => (off - base) % size / 8
  if within 0 0x8000 then (di.queue (off / 32)).word (wd 0 32)
  else if within 0x10000 0x800 then (di.graph ((off - 0x10000) / 32)).word (wd 0x10000 32)
  else if within 0x11000 24 then di.preempt.word (wd 0x11000 32)
  else if within 0x12000 0x80 then (s.cluster (16 * d + (off - 0x12000) / 8)).word
  else if within 0x13000 32 then di.freeWord (s.stalledOn d) (wd 0x13000 32)
  else if within 0x14000 8 then di.age
  else if within 0x15000 0x80 then
    (s.module d ((off - 0x15000) / 64) ((off - 0x15000) / 16 % 4)).word (wd 0x15000 16)
  else if within 0x16000 24 then di.logWord (wd 0x16000 32)
  else if within 0x20000 0x20000 then Tab.getD di.miss ((off - 0x20000) / 8) 0
  else if d != 0 then 0
  else if within 0x17000 16 then s.manage.limitWord (wd 0x17000 32)
  else if within 0x18000 64 then s.control.word (wd 0x18000 64)
  else if within 0x19000 32 then
    match wd 0x19000 32 with
    | 0 => s.ctxBase.toNat
    | 1 => s.rwBase.toNat
    | 2 => s.rtBase.toNat
    | _ => s.pkg.toNat
  else if within 0x1A000 24 then s.manage.firmWord (wd 0x1A000 32)
  else 0

/-! ### Writing -/

def Die.modQueue (d : Die) (q : Nat) (f : Queue → Queue) : Die := { d with queues := Tab.set d.queues q (f (d.queue q)) }
def Die.modGraph (d : Die) (g : Nat) (f : Graph → Graph) : Die := { d with graphs := Tab.set d.graphs g (f (d.graph g)) }

/-- R355: the doorbell. A TAIL that would overfill the queue, or lowers the distance, is ignored and logged. -/
def State.doorbell (s : State) (d q tail : Nat) : State :=
  let qu := (s.die d).queue q
  let v := tail % 2 ^ 32
  let dist := (v + 2 ^ 32 - qu.head) % 2 ^ 32
  let old := (qu.tail + 2 ^ 32 - qu.head) % 2 ^ 32
  if 2 ^ qu.logn < dist || dist < old then
    s.log d (0x240 + d) 0x07 [(0, 1), (q, 10), (qu.ctx, 12), (v, 32)]
  else s.modDie d fun di => di.modQueue q fun qu => { qu with tail := v }

/-- A write reaches some byte `[b, b + k)` of a word: it covers the bytes `[lo, lo + n)`. -/
def writesBytes (lo n b k : Nat) : Bool := decide (0 < n) && decide (lo < b + k) && decide (b < lo + n)

/-- Table 15.1, R355: BASE, LOGN and CTX do not change while EN = 1. A write that reaches TAIL is a doorbell. -/
def State.setQueueWord (s : State) (d q i v lo n : Nat) : State :=
  match i with
  | 0 => s.modDie d fun di => di.modQueue q fun qu =>
      if qu.en then { qu with en := bitOf v 61 }
      else { qu with base := bitsOf v 0 57, logn := bitsOf v 57 4, en := bitOf v 61 }
  | 1 => s.modDie d fun di => di.modQueue q fun qu =>
      { qu with ctx := if qu.en then qu.ctx else bitsOf v 0 12, prio := bitsOf v 12 6, cls := bitsOf v 18 2 }
  | 2 => if writesBytes lo n 0 4 then s.doorbell d q (bitsOf v 0 32) else s
  | _ => s

/-- Table 15.6: EN changing to 1 has the tables read; 0 stops new launches. -/
def Graph.setWord (g : Graph) (i v : Nat) : Graph :=
  match i with
  | 0 => { g with nodes := bitsOf v 0 57 }
  | 1 => { g with edges := bitsOf v 0 57 }
  | 2 =>
    let en := bitOf v 36
    { g with
      nnm1 := bitsOf v 0 8, nem1 := bitsOf v 8 8, ctx := bitsOf v 16 12, prio := bitsOf v 28 6
      cls := bitsOf v 34 2, en := en, run := g.run && en
      starting := if !g.en && en then true else g.starting && en }
  | 3 => { g with dl := bitsOf v 0 64 }
  | _ => g

/-- Table 15.12, R377: GO starts the order held, unless one runs. -/
def Preempt.setWord (p : Preempt) (i v : Nat) : Preempt :=
  match i with
  | 0 =>
    let q := { p with ctx := bitsOf v 0 12, kind := bitOf v 12, cores := bitsOf v 13 8 }
    if bitOf v 63 && !p.busy then
      { q with busy := true, order := some (q.ctx, q.kind, q.cores, q.gseq, q.report), chosen := [], started := false
               short := false }
    else q
  | 1 => { p with gseq := bitsOf v 0 32 }
  | 2 => { p with report := bitsOf v 0 57 }
  | _ => p

/-- Table 18.4: PUSH adds an unbacked frame of the die to the copy-on-write pool, or is ignored. -/
def State.pushFrame (s : State) (d la : Nat) (psz pflat : Bool) : State :=
  let di := s.die d
  let pool := if pflat then di.poolFlat else if psz then di.pool64k else di.pool4k
  let size := if psz then 65536 else 4096
  let meets := fun (f fsize : Nat) => decide (f < la + size) && decide (la < f + fsize)
  if (pflat && !psz) || la / 2 ^ 38 % 4 != d || 65535 ≤ pool.length
      || (s.lines.any fun l => decide (la / 512 ≤ l.1) && decide (l.1 < (la + size) / 512))
      || (di.pool4k.any fun f => meets f 4096) || ((di.pool64k ++ di.poolFlat).any fun f => meets f 65536)
      || (psz && bitsOf la 12 4 != 0) then s
  else (if pflat then s.makeFlat (la / 65536) else s).modDie d fun di =>
    if pflat then { di with poolFlat := di.poolFlat ++ [la / 65536 * 65536] }
    else if psz then { di with pool64k := di.pool64k ++ [la] }
    else { di with pool4k := di.pool4k ++ [la] }

/-- The bytes a write reaches, of `v`; the others of `old`. -/
def byteMerge (old v lo n : Nat) : Nat := setBits old (8 * lo) (8 * n) (bitsOf v (8 * lo) (8 * n))

/-- The words of Table 18.4. A write of the low word of PUSH is kept, byte by byte, until one reaches the last byte of
PUSH, which pushes (log entry 15). -/
def State.setFreeWord (s : State) (d i v lo n : Nat) : State :=
  match i with
  | 0 => (s.modDie d fun di => { di with soft := bitsOf v 32 32 }).notePress d
  | 2 =>
    s.modDie d fun di =>
      let (low, psz, pflat) := di.pushLow
      let w := byteMerge (packFields [(boolNat psz, 1), (boolNat pflat, 1), (0, 38), (low, 24)]) v lo n
      { di with pushLow := (bitsOf w 40 24, bitOf w 0, bitOf w 1) }
  | 3 =>
    let (low, psz, pflat) := (s.die d).pushLow
    if writesBytes lo n 0 1 then s.pushFrame d ((low + 2 ^ 24 * bitsOf v 0 4) * 4096) psz pflat else s
  | _ => s

def Die.setLogWord (d : Die) (i v : Nat) : Die :=
  match i with
  | 0 => { d with logBase := BitVec.ofNat 52 v, logN := bitsOf v 52 4, logEn := bitOf v 56 }
  | 1 => { d with logTail := bitsOf v 32 32 }
  | 2 => { d with logDrops := d.logDrops &&& (2 ^ 32 - 1 - bitsOf v 0 32) }
  | _ => d

/-- Table 21.3, R479: GO starts the command held in the register, unless one runs. -/
def Control.setWord (c : Control) (i v : Nat) : Control :=
  match i with
  | 0 =>
    let q := { c with op := bitsOf v 0 4, ctx := bitsOf v 4 12, ctx2 := bitsOf v 16 12 }
    if bitOf v 63 && !c.busy then
      { q with busy := true, latched := (q.op, q.ctx, q.ctx2, q.a0, q.a1, q.a2) }
    else q
  | 1 => { c with a0 := bitsOf v 0 64 }
  | 2 => { c with a1 := bitsOf v 0 64 }
  | 3 => { c with a2 := bitsOf v 0 64 }
  | _ => c

/-- Table 21.5: a limit as last written; what is in force follows by R23. -/
def Manage.setLimit (m : Manage) (clim : Bool) (v : Nat) : Manage :=
  if clim then { m with clim := v % 2 ^ 11, pending := true } else { m with plim := v % 2 ^ 11, pending := true }

/-- Table 21.6: HWBASE (bytes 0 to 6 of its word) and HWSIZE (bytes 0 to 4) keep their first write until reset; KICK
restarts the watchdog (R487). -/
def State.setFirmWord (s : State) (i v lo n : Nat) : State :=
  match i with
  | 0 => if bitOf v 32 then { s with manage := { s.manage with kicked := s.gtc 0 } } else s
  | 1 =>
    if writesBytes lo n 0 7 then { s with manage := { s.manage with hwbase := some (s.manage.hwbase.getD (bitsOf v 0 52)) } } else s
  | 2 =>
    if writesBytes lo n 0 5 then { s with manage := { s.manage with hwsize := some (s.manage.hwsize.getD (bitsOf v 0 40)) } } else s
  | _ => s

/-- The limits whose bytes a write reaches (Table 21.5). -/
def Manage.setLimits (m : Manage) (v lo n : Nat) : Manage :=
  let m := if writesBytes lo n 0 2 then m.setLimit false (bitsOf v 0 11) else m
  if writesBytes lo n 2 2 then m.setLimit true (bitsOf v 16 11) else m

/-- R476, R3: what a write of the 64-bit word at a register offset of a die, which reaches its bytes `[lo, lo + n)`, puts
into the registers; an unlisted one ignores it. -/
def State.putRegWord (s : State) (d off v lo n : Nat) : State :=
  let within := fun (base size : Nat) => decide (base ≤ off) && decide (off < base + size)
  let wd := fun (base size : Nat) => (off - base) % size / 8
  if within 0 0x8000 then s.setQueueWord d (off / 32) (wd 0 32) v lo n
  else if within 0x10000 0x800 then
    s.modDie d fun di => di.modGraph ((off - 0x10000) / 32) fun g => g.setWord (wd 0x10000 32) v
  else if within 0x11000 24 then s.modDie d fun di => { di with preempt := di.preempt.setWord (wd 0x11000 32) v }
  else if within 0x12000 0x80 then
    let c := 16 * d + (off - 0x12000) / 8
    { s with clusters := Tab.set s.clusters c { s.cluster c with fuse := bitOf v 0 } }
  else if within 0x13000 32 then s.setFreeWord d (wd 0x13000 32) v lo n
  else if within 0x14000 8 then s.modDie d fun di => { di with age := bitsOf v 0 16 }
  else if within 0x15000 0x80 && wd 0x15000 16 == 0 then
    let p := (off - 0x15000) / 64
    let m := (off - 0x15000) / 16 % 4
    let r := { s.module d p m with emax := bitsOf v 8 8, win := bitsOf v 32 32 }
    { s with modules := Tab.set s.modules (moduleKey d p m) r }
  else if within 0x16000 24 then s.modDie d fun di => di.setLogWord (wd 0x16000 32) v
  else if within 0x20000 0x20000 then
    s.modDie d fun di => { di with miss := Tab.set di.miss ((off - 0x20000) / 8) (bitsOf v 0 32) }
  else if d != 0 then s
  else if within 0x17000 8 then
    { s with manage := s.manage.setLimits v lo n }
  else if within 0x18000 64 then { s with control := s.control.setWord (wd 0x18000 64) v }
  else if within 0x19000 32 then
    match wd 0x19000 32 with
    | 0 => { s with ctxBase := BitVec.ofNat 52 v }
    | 1 => { s with rwBase := BitVec.ofNat 52 v }
    | 2 => { s with rtBase := BitVec.ofNat 52 v }
    | _ => { s with pkg := BitVec.ofNat 13 v }
  else if within 0x1A000 24 then s.setFirmWord (wd 0x1A000 32) v lo n
  else s

/-- The write, which triggers a watch on the register (05 R144). -/
def State.setRegWord (s : State) (d off v lo n : Nat) : State :=
  (s.putRegWord d off v lo n).triggerDevice (2 ^ 48 + 2 ^ 28 * d + off)

/-- R476: the die and offset of a region 0x1 address; PA[47:30] must be zero. -/
def regAddr (pa : Nat) : Option (Nat × Nat) :=
  if bitsOf pa 30 18 == 0 then some (bitsOf pa 28 2, bitsOf pa 0 28) else none

/-- The word of the control space that holds an address. -/
def State.ctlLoad (s : State) (pa : Nat) : Nat :=
  match regAddr pa with
  | some (d, off) => s.regWord d (off / 8 * 8)
  | none => 0

/-- Bytes of the control space, read word by word: `n` bytes from an address. -/
def State.ctlBytes (s : State) (pa : Nat) : Nat → Nat
  | 0 => 0
  | n + 1 => bitsOf (s.ctlLoad pa) (8 * (pa % 8)) 8 + 256 * s.ctlBytes (pa + 1) n

/-- Writes the bytes `[a, a + n)` of one word of the control space; its other bytes are written as they read, and
in DROPS, whose bits a 1 clears, as 0. -/
def State.ctlStoreWord (s : State) (pa v n : Nat) : State :=
  match regAddr pa with
  | some (d, off) =>
    let o := off / 8 * 8
    s.setRegWord d o (setBits (if o == 0x16010 then 0 else s.regWord d o) (8 * (pa % 8)) (8 * n) v) (pa % 8) n
  | none => s

/-- A write of up to a sector to the control space, in ascending words. -/
def State.ctlStore (s : State) (pa v n : Nat) : Nat → State
  | 0 => s
  | fuel + 1 =>
    if n == 0 then s
    else
      let k := min n (8 - pa % 8)
      (s.ctlStoreWord pa v k).ctlStore (pa + k) (v / 2 ^ (8 * k)) (n - k) fuel

end Sys2Proof.Machine
end

