-- ==== Sys2Proof/Machine/Device.lean ====
section
/-! DEFINITION. Device sectors as an agent of a core reads and writes them: line caches and leases (07 R188,
16 R384-R386, R390), homes (18 R411, R412), tagged sectors (04 R102, R104), check values (18 R430-R432), and the
paths out of the package (21 R477, R484). -/

namespace Sys2Proof.Machine

/-- A sector as read: its 64 bytes, its descriptor, 0 or the status that refuses it, and whether a line cache served it
(R415). -/
structure Sector where
  val : Nat := 0
  desc : Nat := 0
  status : Nat := 0
  cached : Bool := false
  deriving DecidableEq, Repr, Inhabited

/-- R484: a remote address has a valid window, and a route toward its package. -/
def State.remoteOk (s : State) (pa : Nat) : Bool := (s.onezaPort pa).isSome

/-- R102: the descriptor a sector holds. -/
def State.descOf (s : State) (sec : Nat) : Nat := (Tab.getD s.desc sec 0).toNat
def State.setDesc (s : State) (sec d : Nat) : State :=
  { s with desc := if d % 65536 == 0 then Tab.erase s.desc sec else Tab.set s.desc sec (BitVec.ofNat 16 d) }

/-- A read of a sector at its home, as it stands (R385, R390). -/
def State.readHome (s : State) (d pa : Nat) : State × Sector :=
  let pa := pa / 64 * 64
  if !s.reaches d pa || (8 ≤ paRegion pa && !s.remoteOk pa) then (s, { status := 0x09 })
  else
    match paRegion pa with
    | 0 =>
      let s := (s.crossing d pa).noteCorrected pa false
      (s, { val := s.paLoad pa 64, desc := s.descOf (paLa pa / 64), status := s.sectorStatus pa })
    | 2 => (s.crossing d pa, { val := s.paLoad pa 64 })
    | _ => ((s.crossing d pa).noteRoute pa, { val := s.paLoad (s.placeOf pa) 64 })

/-- A line cache array holds 512 lines; to take another it gives up one of its own choice (07 R188, log entry 8). -/
def Tab.room (t : Tab CacheLine) (line free : Nat) : Tab CacheLine :=
  if t.length < 512 || (Tab.get? t line).isSome then t else t.eraseIdx (Config.choice free % t.length)

/-- A sector is filled into an array with its lease, beside those its line already holds (R188); the latest lease end of
the line grows (R386). -/
def State.grantLease (s : State) (key line sec : Nat) (x : Sector) (fin : Nat) : State :=
  let t := Tab.room (Tab.getD s.caches key []) line s.free
  let cl := Tab.getD t line {}
  let cl := { cl with sectors := Tab.set cl.sectors sec { val := x.val, desc := x.desc, lease := fin } }
  { s with
    leases := Tab.set s.leases line (max fin (Tab.getD s.leases line 0))
    caches := Tab.set s.caches key (Tab.set t line cl) }

/-- The sector an array serves at a time: one filled whose lease has not ended. -/
def State.cachedSector (s : State) (key line sec now : Nat) : Option Fill :=
  match Tab.get? (Tab.getD s.caches key []) line with
  | some cl => (Tab.get? cl.sectors sec).filter fun f => decide (now < f.lease)
  | none => none

/-- R385: a read by an engine or a fetch of core `k`: served by the line cache it uses while it holds the sector under
a valid lease, and otherwise by the home, which grants a lease. Whether a cache still holds a line is the cache's
(log entry 8). The control space answers a context only if its entry allows it (R477). -/
def State.readSector (s : State) (k ctx : Nat) (x : Xlate) : State × Sector :=
  let pa := x.pa / 64 * 64
  let d := coreDie k
  if paRegion pa == 1 then
    if !s.reaches d pa then (s, { status := 0x09 })
    else (s, { val := if ctxCtl (s.ctxEntry (homeDie pa) ctx) then s.ctlBytes pa 64 else 0 })
  else if paRegion pa != 0 then s.readHome d pa
  else
    let line := paLa pa / 512
    let sec := paLa pa / 64
    let key := s.cacheKey k pa
    let now := s.gtc d
    match (s.cachedSector key line sec now).filter fun _ => Config.choice s.free % 2 == 0 with
    | some f => (s.draw, { val := f.val, desc := f.desc, cached := true })
    | none =>
      let (s, r) := s.readHome d pa
      if r.status != 0 then (s, r)
      else
        let fin := now + (if pteW x.pte || pteCow x.pte then 512 else 4096)
        ((s.grantLease key line sec r fin).draw, r)

/-- How a write at a home ended. -/
inductive Written where
  /-- Performed, with its global write completion time. -/
  | done (gwct : Nat)
  /-- Refused with a status. -/
  | refused (status : Nat)
  /-- It waits for sectors on a die (R419). -/
  | waits (die : Nat)
  deriving DecidableEq, Repr, Inhabited

/-- A write of `n` bytes within one sector, performed at its home by an agent of a die. A part of a sector is
written only when the old value passes its check (R431). A tagged sector takes the descriptor given (R104). -/
def State.writeHome (s : State) (d : Nat) (x : Xlate) (v n desc : Nat) : State × Written :=
  let pa := x.pa
  if !s.reaches d pa || (8 ≤ paRegion pa && !s.remoteOk pa) then (s, .refused 0x09)
  else
    match paRegion pa with
    | 0 =>
      let st := s.sectorStatus pa
      if n < 64 && st != 0 then (s, .refused st)
      else
        let s := if n < 64 then s.noteCorrected pa false else s
        match s.backLine (paLa pa / 512) with
        | none => (s, .waits (homeDie pa))
        | some s =>
          let s := s.crossing d pa
          let sec := paLa pa / 64
          let s := if n < 64 then s else { s with faults := Tab.erase s.faults sec }
          let s := s.setPaBytes pa v n
          let s := if x.tagged then s.setDesc sec desc else s
          let g := s.gwct pa
          ((s.triggerDevice pa).notePress (homeDie pa), .done g)
    | 2 =>
      let s := (s.crossing d pa).setPaBytes pa v n
      (s.triggerDevice pa, .done (s.gwct pa))
    | _ =>
      let g := s.gwct pa
      let q := s.placeOf pa
      ((((s.crossing d pa).noteRoute pa).setPaBytes q v n).triggerDevice q, .done g)

/-- A write on behalf of an agent of core `k`, that leaves for the home from a die. It invalidates the copy in the core's
own cache (R385). -/
def State.writeAt (s : State) (d k ctx : Nat) (x : Xlate) (v n desc : Nat) : State × Written :=
  if paRegion x.pa == 1 then
    if !s.reaches d x.pa then (s, .refused 0x09)
    else (if ctxCtl (s.ctxEntry (homeDie x.pa) ctx) then s.ctlStore x.pa v n 8 else s, .done (s.gwct x.pa))
  else
    let (s, r) := s.writeHome d x v n desc
    (if paRegion x.pa == 0 then s.dropLine (s.cacheKey k x.pa) (paLa x.pa / 512) else s, r)

/-- A write by an agent of core `k`. -/
def State.writeSector (s : State) (k ctx : Nat) (x : Xlate) (v n desc : Nat) : State × Written :=
  s.writeAt (coreDie k) k ctx x v n desc

end Sys2Proof.Machine
end

