-- ==== Sys2Proof/Machine/Issue.lean ====
section
/-! DEFINITION. What an issue checks before an instruction's own meaning (03 R75 steps 6 and 7): which registers it
names and whether they exist and are held (R28, R70), engine grants (R37), free fibres (R55); pending tokens and
result registers (07 R189, 12 R307), joins (07 R191), and register-file errors (07 R187). -/

namespace Sys2Proof

/-! ### The registers a word names -/

/-- Vector registers an operand field names. -/
def opndVec (o : Opnd) (reg : BitVec 8) (pat : BitVec 4) : List Nat :=
  match o with
  | .vs w => if pat == 15 then [] else if w then [reg.toNat, reg.toNat + 1] else [reg.toNat]
  | .v n _ => (List.range n).map fun j => reg.toNat + j
  | _ => []

/-- Scalars an operand field names. -/
def opndScal (o : Opnd) (reg : BitVec 8) (pat : BitVec 4) : List Nat :=
  match o with
  | .vs _ => if pat == 15 then [reg.toNat] else []
  | .s | .sP => [reg.toNat]
  | .s6 => [reg.toNat % 64]
  | _ => []

/-- Scalars an instruction reads, and writes; vector registers it names. -/
def Row.reads (r : Row) (f : Fields) : List Nat :=
  opndScal r.a f.a f.ap ++ (if r.bOut then [] else opndScal r.b f.b f.bp) ++
    (if r.cOut then [] else opndScal r.c f.c f.cp) ++ (if r.dRead then opndScal r.d f.d 0 else []) ++ r.xr

def Row.writes (r : Row) (f : Fields) : List Nat :=
  (if r.dRead then [] else opndScal r.d f.d 0) ++ (if r.bWrite || r.bOut then opndScal r.b f.b f.bp else []) ++
    (if r.cOut then opndScal r.c f.c f.cp else []) ++ r.token.toList ++ r.xw

def Row.vecs (r : Row) (f : Fields) : List Nat :=
  opndVec r.a f.a f.ap ++ opndVec r.b f.b f.bp ++ opndVec r.c f.c f.cp ++ opndVec r.d f.d 0

/-- R70: an odd first register of a pair does not exist. -/
def pairOk (o : Opnd) (reg : BitVec 8) (pat : BitVec 4) : Bool :=
  match o with
  | .vs true => pat == 15 || reg.toNat % 2 == 0
  | .v _ true => reg.toNat % 2 == 0
  | _ => true

/-- Table 2.4: the grant bit of an engine command. -/
def Instr.grant (i : Instr) : Option Nat :=
  match i with
  | .cpg _ _ | .cps _ _ | .cpt _ _ | .cpr _ _ | .cpa _ _ | .cpq _ _ | .cpf _ _ | .cpgx _ _ | .cpsx _ _
  | .cpm _ _ => some 0
  | .mzro _ _ | .mldb _ _ | .mma _ _ | .mmat _ _ | .mdrn _ _ | .mqef _ _ | .mstsh _ _ | .mldsh _ _ | .mrda _ _
  | .mwra _ _ | .mseq _ _ | .maddt _ _ | .mscl _ _ => some 1
  | .mxpose _ _ => some 2
  | .tex _ _ | .texn _ _ | .txq _ _ | .texg _ _ => some 3
  | .rbox _ _ | .rtri _ _ | .rpush _ _ | .rpop _ _ => some 4
  | .hcfg _ _ | .hgath _ _ | .hscat _ _ => some 5
  | .tspawn _ _ | .trange _ _ | .tsend _ _ | .tdone _ _ | .trecv _ _ | .tqry _ _ | .tclose _ _
  | .tgrain _ _ => some 6
  | .nmadd _ _ | .nmred _ _ | .nmscl _ _ | .nmopt _ _ | .nmfence _ _ | .nmq _ _ => some 7
  | .ared _ _ | .arwait _ _ | .arcfg _ _ | .arqry _ _ => some 8
  | _ => none

/-- R55: what a free fibre may not issue. -/
def Instr.groupedOnly (i : Instr) : Bool :=
  match i with
  | .bar _ _ | .arrive _ _ | .waitb _ _ | .psendRsv _ _ | .psendCmt _ _ | .precv _ _ | .pfree _ _
  | .xacq _ _ _ | .xrel _ _ _ => true
  | .mxpose _ _ => true
  | _ => i.grant == some 1

end Sys2Proof

namespace Sys2Proof.Machine

def State.roleOf (s : State) (g : Nat) : Role :=
  let gr := s.group g
  ((s.teamOf gr.team).roles[gr.role]?).getD { width := 1, nb := 0 }

/-- R28: a vector register exists for a role. -/
def Role.hasReg (r : Role) (n : Nat) : Bool := n < r.nb || (64 ≤ n && n < 64 + 32 * r.extmax)

/-- The group of the issue's lowest fibre. -/
def Issue.gid (i : Issue) : Nat := ((i.groups.head?).map Prod.fst).getD 0

/-- R70: every register the word names exists for the group; in a stream kernel no result, and no scale of DQNT (06
R164), names s0-s47. -/
def State.namesExist (s : State) (r : Row) (f : Fields) : Bool :=
  let ro := s.roleOf s.iss.gid
  ((r.vecs f).all ro.hasReg) && pairOk r.a f.a f.ap && pairOk r.b f.b f.bp && pairOk r.c f.c f.cp &&
    pairOk r.d f.d 0 && ((r.reads f ++ r.writes f).all (· < 64)) &&
    (!s.iss.stream || ((r.writes f ++ r.own).all (48 ≤ ·)))

/-- R75 step 6: why a decoded instruction takes the emulation trap in this group, if it does: an encoding reserved
for its width (1), a register that does not exist (2). A word that is both gives 1 (log entry 42). -/
def State.trapReason (s : State) (i : Instr) : Option Nat :=
  match i.parts with
  | none => none
  | some (_, _, g, f) =>
    if !i.legal s.iss.width g f then some 1
    else if !s.namesExist (i.row s.iss.width) f then some 2 else none

/-! ### Grants (R37, R227) -/

/-- R37: the role has the grant that the instruction needs. -/
def State.granted (s : State) (i : Instr) : Bool :=
  match i.grant with
  | none => true
  | some b => (s.roleOf s.iss.gid).grant.getLsbD b

/-- R227, R257: an MX instruction also needs its team to own the core's engine. -/
def State.owns (s : State) (i : Instr) : Bool :=
  !(i.grant == some 1 || i.grant == some 2) || (s.core s.iss.core).marrow.owner == some s.iss.team

/-! ### The gate -/

/-- Instructions of other formats than SR and SI whose guard is taken under R32 (10 R257, 16 R396). -/
def Instr.scalarGuard (i : Instr) : Bool :=
  match i with
  | .mxpose _ _ | .mstsh _ _ | .mldsh _ _ | .mseq _ _ | .trdy _ _ | .twait _ _ | .tclr _ _ | .vpub _ _ | .vacq _ _
  | .vrel _ _ => true
  | _ => false

/-- Whether the instruction executes at all: in some fibre of active, or for a scalar form under its own guard. -/
def State.executes (s : State) (i : Instr) (g : Guard) : Bool :=
  match i.parts with
  | some (fmt, _, _, _) =>
    if fmt == 2 || fmt == 3 || Instr.scalarGuard i then !(s.scalarUnits g).isEmpty else !(s.active g).isEmpty
  | none => false

/-- The groups or free fibres that take part. -/
def State.takers (s : State) (g : Guard) : List Nat :=
  if s.iss.stream then (s.active g).filterMap fun l => (s.iss.at? l).map Prod.fst else [s.iss.gid]

/-- Vector registers that an unfinished operation of a group will write (R307). -/
def State.pendingVecs (s : State) (g : Nat) : List Nat :=
  List.flatMap (fun (p : Nat × Op) => if p.2.lanes.any fun x => x.2.1 == g then p.2.results else []) s.ops

/-- An operation works for a group or fibre (R306, R238). -/
def Op.serves (o : Op) (g : Nat) : Bool :=
  o.gid == g || (o.members.any fun m => m.1 == g) || o.lanes.any fun x => x.2.1 == g

/-- The lanes whose registers a source is read from: those of active under its pattern (R72), those a shuffle chooses
(R169), those that hold payload words (R165). -/
def State.sourceLanes (s : State) (i : Instr) (o : Opnd) (pat : BitVec 4) (g : Guard) : List Nat :=
  let w := s.iss.width
  let under := fun l => match o with | .vs _ => patLane w pat.toNat l | _ => l
  match i with
  | .shfl _ f => (s.active g).flatMap fun l => [under (shflLane w (f.xf 12 2) (s.opB f 32 l % 64) l), under l]
  | .shfli _ _ f => (s.active g).map fun l => under (shflLane w (f.xf 12 2) (f.xf 14 6) l)
  | .dqnt _ _ => List.range (min 16 w)
  | _ => (s.active g).map under

/-- The lane-registers the instruction reads, as slot lanes and registers; FSPAWN copies its requesters' v0-v7 (02
R42), and PPACK keeps three bytes of its destination. -/
def State.sources (s : State) (i : Instr) (r : Row) (g : Guard) (f : Fields) : List (Nat × Nat) :=
  let of := fun (o : Opnd) (reg : BitVec 8) (pat : BitVec 4) =>
    (s.sourceLanes i o pat g).flatMap fun l => (opndVec o reg pat).map fun n => (l, n)
  of r.a f.a f.ap ++ (if r.bOut then [] else of r.b f.b f.bp) ++ (if r.cOut then [] else of r.c f.c f.cp) ++
    match i with
    | .fspawn _ _ | .fspawnr _ _ => (s.active g).flatMap fun l => (List.range 8).map fun n => (l, n)
    | .ppack _ _ => of r.d f.d 0
    | _ => []

/-- An instruction of an issue with what its word names and the groups or fibres that take part. -/
structure IssueMember where
  instr : Instr
  row : Row
  guard : Guard
  f : Fields
  takers : List Nat
  deriving DecidableEq, Repr, Inhabited

/-- The members of an issue that execute. -/
def State.members (s : State) (is : List Instr) : List IssueMember :=
  is.filterMap fun i =>
    match i.parts with
    | some (_, _, g, f) => if s.executes i g then some ⟨i, i.row s.iss.width, g, f, s.takers g⟩ else none
    | none => none

/-- R75 step 7: the cause that a member raises before its own checks, by its place in the step. -/
def State.stepSeven (s : State) (m : IssueMember) : Option Nat :=
  let h := (s.group s.iss.gid).h
  if (m.row.vecs m.f).any fun n => 64 ≤ n && h ≤ (n - 64) / 32 then some 0
  else if !s.granted m.instr then some 1
  else if s.iss.stream && m.instr.groupedOnly then some 2
  else none

/-- The cause of a place in step 7. -/
def sevenCause (n : Nat) : Nat :=
  match n with
  | 0 => 0x42
  | 1 => 0x14
  | _ => 0x30

/-- R189, R307: whether a member must wait for a token or a result register it names or reads. -/
def State.mustWait (s : State) (m : IssueMember) : Bool :=
  (m.takers.any fun g =>
    ((m.row.reads m.f ++ m.row.writes m.f).any fun n => (s.group g).pending.contains n) ||
      ((m.row.vecs m.f).any fun n => (s.pendingVecs g).contains n)) ||
  (s.sources m.instr m.row m.guard m.f).any fun p =>
    match s.iss.at? p.1 with
    | some (g, _) => (s.pendingVecs g).contains p.2
    | none => false

/-- R142: whether the counters of a group, or of its stream team, have fallen to the thresholds. A pair's WAITC reads
them as they stood before its other member (R62). -/
def Shared.within (sh : Shared) (f : Fields) : Bool :=
  sh.ld ≤ f.xf 0 8 && sh.st ≤ f.xf 8 8 && sh.cp ≤ f.xf 16 8 && sh.tl ≤ f.xf 24 8

/-- R193: the failing statuses of the completed operations that a WAITC of a group covers: those of its group, or of its
team in a stream kernel, accepted before it issued. -/
def State.coveredAll (s : State) (g : Nat) : List (Nat × Unjoined) :=
  let gr := s.group g
  let gs := if s.iss.stream then s.groups.filter fun p => p.2.team == gr.team else [(g, gr)]
  gs.flatMap fun p =>
    (p.2.unjoined.filter fun u => match gr.waitcAt with | some n => decide (u.op < n) | none => true).map fun u => (p.1, u)

/-- That with the lowest token. -/
def State.covered (s : State) (g : Nat) : Option (Nat × Unjoined) :=
  List.foldl (fun (m : Option (Nat × Unjoined)) u =>
    match m with
    | none => some u
    | some v => if u.2.token < v.2.token then some u else some v) none (s.coveredAll g)

/-- R191, R193: the failing statuses that a member joins: those of the tokens it reads, and those a WAITC covers as it
releases. -/
def State.joinsOf (s : State) (m : IssueMember) : List (Nat × Unjoined) :=
  (m.takers.flatMap fun g =>
    ((s.group g).unjoined.filter fun u => !u.gone && (m.row.reads m.f).contains u.token).map fun u => (g, u)) ++
    match m.instr with
    | .waitc _ f => if (s.rsharedOf s.iss.gid).within f then s.coveredAll s.iss.gid else []
    | _ => []

/-- R191, R280: the failing status of the lowest token that the members join, with its group. -/
def State.joinOf (s : State) (ms : List IssueMember) : Option (Nat × Unjoined) :=
  let us := ms.flatMap s.joinsOf
  List.foldl (fun (m : Option (Nat × Unjoined)) u =>
    match m with
    | none => some u
    | some v => if u.2.token < v.2.token then some u else some v) none us

/-- The stored error of a lane-register of a slot lane's fibre. -/
def State.regError (s : State) (l n : Nat) : Option SramError :=
  match s.iss.at? l with
  | none => none
  | some (g, j) => ((s.group g).lanes[j]?).bind fun ln => Tab.get? ln.bad n

/-- R187: a corrected error of a lane-register is repaired and logged. -/
def State.repairReg (s : State) (l n : Nat) : State :=
  match s.iss.at? l, s.regError l n with
  | some (g, j), some (.corrected b) =>
    (s.modGroup g fun gr => gr.modLane j fun ln => { ln with bad := Tab.erase ln.bad n }).log (coreDie s.iss.core)
      s.iss.core 0x02 [(0, 4), ((s.group g).fileNum j n, 32), (b, 8)]
  | _, _ => s

/-- The stored errors of the free fibres' scalars that the members read (R52, R187): fibre, key, error. -/
def State.scalarErrors (s : State) (ms : List IssueMember) : List (Nat × Nat × SramError) :=
  ms.flatMap fun m => m.takers.flatMap fun g =>
    ((s.group g).badScal.filter fun e => (m.row.reads m.f).contains (e.1 / 2)).map fun e => (g, e.1, e.2)

/-- R187: a corrected error of a free fibre's scalar, which stands above its base block (R52). -/
def State.repairScalar (s : State) (e : Nat × Nat × SramError) : State :=
  match e with
  | (g, key, .corrected b) =>
    let gr := s.group g
    let wb := ((gr.lanes.head?).map fun ln => ln.wbase.toNat).getD 0
    (s.modGroup g fun gr => { gr with badScal := Tab.erase gr.badScal key }).log (coreDie gr.core) gr.core 0x02
      [(0, 4), (8 * wb + (s.roleOf g).nb + (key - 96), 32), (b, 8)]
  | _ => s

/-- R75 step 7 and ranks 4 and 5 of Table 11.3, over the one instruction of an issue or a pair's two: the state in
which the issue stops or stalls, if it does; if not, the state in which its own checks follow. -/
def State.gate (s : State) (is : List Instr) : State × Bool :=
  let ms := s.members is
  match (ms.filterMap s.stepSeven).min? with
  | some c => (s.raise (sevenCause c), false)
  | none =>
    if ms.any s.mustWait then (s.stall, false)
    else
      match s.joinOf ms with
      | some (h, u) => (s.raise u.cause u.token 0 true (some h), false)
      | none =>
        let srcs := ms.flatMap fun m => s.sources m.instr m.row m.guard m.f
        let sers := s.scalarErrors ms
        if (srcs.any fun p => s.regError p.1 p.2 == some .uncorrectable) || (sers.any fun e => e.2.2 == .uncorrectable) then
          (s.raise 0x73, false)
        else (List.foldl State.repairScalar (List.foldl (fun s p => s.repairReg p.1 p.2) s srcs) sers, true)

end Sys2Proof.Machine
end

