-- ==== Sys2Proof/Machine/Fetch.lean ====
section
/-! DEFINITION. Fetch lines: reading them, parity, malformed line words, pairs and checked transfers (03 R57-R64). -/

namespace Sys2Proof.Machine

def fetchKey (ctx : Nat) (line : BitVec 57) : Nat := ctx * 2 ^ 57 + line.toNat

/-- R75 step 1: the 64 bytes of a line as a number, or the cause of its translation or read. A line a core has
fetched stays with it until IFENCE, as long as the core keeps it (R303, log entry 8). A line whose home die no path
reaches raises 0x69 (log entry 42). -/
def State.fetchLine (s : State) (k ctx : Nat) (line : BitVec 57) : State × Except Nat Nat :=
  let (s, x) := s.access k ctx line.toNat .fetch
  match x with
  | .error c => (s, .error c)
  | .ok x =>
    let kept := match Tab.get? (s.core k).fetched (fetchKey ctx line) with
      | some v => if Config.choice s.free % 2 == 0 then some v else none
      | none => none
    match kept with
    | some v => (s.draw, .ok v)
    | none =>
      let (s, r) := s.readSector k ctx x
      if r.status != 0 then (s, .error (statusCause r.status))
      else (s.modCore k fun c => { c with fetched := Tab.set c.fetched (fetchKey ctx line) r.val }, .ok r.val)

/-- 19 R457: an exactly-once request of the core is on the way before the fetch of a line, which neither the core nor a
cache serves. -/
def State.fetchHeld (s : State) (k ctx : Nat) (line : BitVec 57) : Bool :=
  match s.lookup k ctx line.toNat with
  | .error _ => false
  | .ok x =>
    let kept := (Tab.get? (s.core k).fetched (fetchKey ctx line)).isSome ||
      (s.cachedSector (s.cacheKey k x.pa) (paLa x.pa / 512) (paLa x.pa / 64) (s.gtc (coreDie k))).isSome
    s.homeOf x.pa != coreDie k && s.laneBusy (k % 512) (s.homeOf x.pa) (laneOf (paLa x.pa)) &&
      !(kept && Config.choice s.free % 2 == 0)

/-- The line word (Table 3.2). -/
def lineWord (v : Nat) : Nat := bitsOf v 480 32
def tgtBit (v slot : Nat) : Bool := bitOf (lineWord v) slot
def pairBit (v slot : Nat) : Bool := slot < 4 && bitOf (lineWord v) (5 + slot)

/-- R59: every PAR bit matches its 15 bytes. -/
def parityOk (v : Nat) : Bool :=
  (List.range 4).all fun j => (popCount (bitsOf v (120 * j) 120) 120 + bitsOf (lineWord v) (9 + j) 1) % 2 == 0

/-- R60: a malformed line word. -/
def malformed (v : Nat) : Bool :=
  let w := lineWord v
  bitsOf w 13 19 != 0 || ((List.range 3).any fun k => bitOf w (5 + k) && bitOf w (6 + k)) ||
    ((List.range 4).any fun k => bitOf w (5 + k) && bitOf w (k + 1))

/-- The instruction word in a slot of a line (Table 3.1). -/
def slotWord (v slot : Nat) : Word96 := BitVec.ofNat 96 (bitsOf v (96 * slot) 96)

/-- Table 11.1: the slot at a PC is a pair's lower member, as far as its line can be read. -/
def State.pairAt (s : State) (k ctx : Nat) (pc : BitVec 57) : Bool :=
  validPc pc &&
    match s.fetchLine k ctx (lineOf pc) with
    | (_, .ok v) => pairBit v (slotOf pc)
    | (_, .error _) => false

/-- Table 3.3: the class of a format: 0 V, 1 S, 2 M, 3 E, 4 B, none for the others. -/
def pairClass (w : Word96) : Option Nat :=
  match bitsOf w.toNat 8 4 with
  | 0 | 1 => some 0
  | 2 | 3 => some 1
  | 4 => some 2
  | 5 => some 3
  | 6 => some 4
  | _ => none

/-- R63: classes that may issue as a pair, lower first. -/
def pairClassesOk (lo hi : Word96) : Bool :=
  match pairClass lo, pairClass hi with
  | some a, some b => a != b && a != 4
  | _, _ => false

/-- R61, steps 2 and 3 for one target. -/
def State.targetCause (s : State) (k ctx : Nat) (pc : BitVec 57) : State × Option Nat :=
  let (s, r) := s.fetchLine k ctx (lineOf pc)
  match r with
  | .error c => (s, some c)
  | .ok _ => (s, none)

/-- R61: checks the targets of a transfer. Gives the cause, SUB and faulting address; where the lines of several fibres
fail with different causes, those of the first in lane order (log entry 42). -/
def State.checkTargets (s : State) (k ctx : Nat) (pcs : List (BitVec 57)) : State × Option (Nat × Nat × Nat) :=
  if !(pcs.all validPc) then (s, some (0x12, 0, 0))
  else
    let (s, rs, bad) := List.foldl (fun (a : State × List Bool × Option (Nat × Nat × Nat)) pc =>
      match a with
      | (s, ok, some c) => (s, ok, some c)
      | (s, ok, none) =>
        let (s, r) := s.fetchLine k ctx (lineOf pc)
        match r with
        | .error c =>
          let tr := decide (0x20 ≤ c) && decide (c < 0x30)
          (s, ok, some (c, if tr then 5 else 0, if tr then (lineOf pc).toNat else 0))
        | .ok v => (s, ok ++ [tgtBit v (slotOf pc)], none)) (s, [], none) pcs
    match bad with
    | some c => (s, some c)
    | none => if rs.all id then (s, none) else (s, some (0x12, 0, 0))

/-- The context of the issuing team. -/
def State.curCtx (s : State) : Nat := (s.teamOf s.iss.team).ctx

/-- Runs `k` once the targets pass R61; otherwise the instruction raises, with no effect. It stalls while their fetches
must (19 R457). -/
def State.withTargets (s : State) (pcs : List (BitVec 57)) (k : State → State) : State :=
  if pcs.all validPc && pcs.any fun pc => s.fetchHeld s.iss.core s.curCtx (lineOf pc) then s.stall
  else
  match s.checkTargets s.iss.core s.curCtx (distinct pcs) with
  | (s, none) => k s
  | (s, some (c, sub, ea)) => s.raise c sub ea

end Sys2Proof.Machine
end

