-- ==== Sys2Proof/Machine/Turn.lean ====
section
/-! DEFINITION. The choice of what a core issues (02 R33, R45, R53, R54, 15 R363), what an issue reads before its
instruction runs (03 R57-R64, R75, 11 R296), and what follows it (02 R46, R49, 11 R287, R298). -/

namespace Sys2Proof.Machine

/-- What moves next when the agenda names nothing (log entry 2). -/
opaque nextTurn : Nat → Turn

/-- The head of the agenda, or a free choice. -/
def State.takeTurn (s : State) : Turn × State :=
  match s.agenda with
  | t :: r => (t, { s with agenda := r })
  | [] => (nextTurn s.free, s)

/-- A row that is the step of a unit, not an instruction word. -/
def Instr.isEvent (i : Instr) : Bool :=
  match i with
  | .illegalInstruction _ | .emulationTrap _ _ => false
  | _ => i.parts.isNone

/-- The storage an upset names is of this package. -/
def Upset.exists (u : Upset) : Bool :=
  match u with
  | .sector sec _ => decide (sec < 2 ^ 34)
  | .scratch core word _ => decide (core < 512) && decide (word < 131072)
  | .laneReg _ _ reg _ => decide (reg < 256)
  | .scalar _ key _ => decide (96 ≤ key) && decide (key < 128)
  | .marrow core _ _ | .fetched core _ _ => decide (core < 512)
  | .sync _ index _ => decide (index < 48)
  | .cached cache _ => decide (cache < 512)

/-- The stored bits of an upset have changed; what is stored nowhere stays so. -/
def State.upset (s : State) (u : Upset) : State :=
  match u with
  | .sector sec f => { s with faults := Tab.set s.faults sec f }
  | .scratch core word e => s.modCore core fun c => { c with badWords := Tab.set c.badWords word e }
  | .laneReg g j reg e =>
    if (Tab.get? s.groups g).isSome then s.modGroup g fun gr => gr.modLane j fun ln => { ln with bad := Tab.set ln.bad reg e } else s
  | .scalar g key e =>
    if (s.teamOf (s.group g).team).stream then s.modGroup g fun gr => { gr with badScal := Tab.set gr.badScal key e } else s
  | .marrow core key e => s.modCore core fun c => { c with marrow := { c.marrow with bad := Tab.set c.marrow.bad key e } }
  | .sync team n e =>
    if (Tab.get? s.teams team).isSome && !(s.teamOf team).out then s.modTeam team fun t => { t with syncBad := Tab.set t.syncBad n e } else s
  | .fetched core key bit =>
    s.modCore core fun c => { c with fetched := Tab.modify c.fetched key fun v => v ^^^ 2 ^ (bit % 512) }
  | .cached cache line => { s with caches := Tab.modify s.caches cache fun ls => Tab.erase ls line }

/-- R14, R25: while the package sleeps it only wakes; a step names units that exist. -/
def State.allows (s : State) (t : Turn) : Bool :=
  match t with
  | .issue core slot => !s.asleep && decide (core < 512) && decide (slot < 2)
  | .event i => Instr.isEvent i && i.unitOk && (!s.asleep || (match i with | .packageWake _ _ => true | _ => false))
  | .upset u => !s.asleep && u.exists
  | .placeFlat frame => !s.asleep && decide (frame < 2 ^ 24)
  | .arrive _ sector => !s.asleep && decide (sector < 2 ^ 51)
  | .firmwareWrite die _ _ => !s.asleep && decide (die < 4)

/-! ### Ready groups and their rank -/

/-- R299: a halted group with FRZ stops issue in every other group of its core. -/
def State.frozen (s : State) (k : Nat) : Bool :=
  s.groups.any fun p => p.2.core == k && p.2.halt && (s.sharedOf p.1).dbg.getLsbD 2

/-- The team may issue: it is placed, no pre-emption stops it, and it is not descheduled (R369, R378). -/
def Team.runs (t : Team) : Bool := !t.ended && !t.out && !t.stopping && t.descheduled.isEmpty

/-- Nothing but time and a token keeps the group or fibre from issuing. -/
def State.mayIssue (s : State) (gr : Group) : Bool :=
  !gr.retired && gr.stop.isNone && !gr.halt && gr.parked.isNone && gr.refetch.isNone && !gr.frontier.isEmpty &&
    (s.teamOf gr.team).runs

def Edge.cons (e : Edge) : Nat := bitsOf e.record 80 8

/-- R369: the team is a team of the consumer node of an edge that is over. -/
def State.teamBoosted (s : State) (d : Nat) (t : Team) : Bool :=
  match t.node with
  | none => false
  | some (gs, n) => ((s.die d).graph gs).edgeTab.any fun e => e.overfull && e.cons == n

/-! ### What stands at a PC -/

/-- The issue of a group's selected entry (R45). -/
def State.groupIssue (s : State) (k slot g : Nat) : Option Issue :=
  let gr := s.group g
  (selectEntry gr.frontier).map fun e =>
    { core := k, team := gr.team, slot := slot, width := gr.width, slots := (List.range gr.width).map fun j => some (g, j)
      entry := e.lanes, pc := e.pc, stopPc := e.pc, level := e.level, next := seqPc e.pc }

/-- The issue of a batch of free fibres, each in its slot lane (R53). -/
def State.batchIssue (s : State) (k slot t : Nat) (b : List (Option Nat)) : Option Issue :=
  match b.filterMap id with
  | [] => none
  | g :: _ =>
    ((s.group g).frontier.head?).map fun e =>
      { core := k, team := t, slot := slot, stream := true, width := 64, slots := b.map fun x => x.map fun j => (j, 0)
        entry := (List.range b.length).filter fun l => (b.getD l none).isSome
        pc := e.pc, stopPc := e.pc, level := 0, next := seqPc e.pc }

/-- A group's, or one fibre's, issue by itself. -/
def State.soloIssue (s : State) (g : Nat) : Option Issue :=
  let gr := s.group g
  if (s.teamOf gr.team).stream then s.batchIssue gr.core 0 gr.team [some g] else s.groupIssue gr.core 0 g

/-- A word as it is issued alone (R75 steps 5 and 6). -/
def State.wordInstr (s : State) (w : Word96) : Instr :=
  match decode w with
  | .error e => .emulationTrap (e.reason) w
  | .ok i =>
    match s.trapReason i with
    | some r => .emulationTrap (BitVec.ofNat 2 r) w
    | none => i

/-- A word that raises 0x10 or takes the emulation trap. -/
def Instr.unusable (i : Instr) : Bool :=
  match i with
  | .illegalInstruction _ | .emulationTrap _ _ => true
  | _ => false

/-- What issues at a slot of a line: one instruction, or a pair's two, lower first; none for an illegal pair (R62-R64). -/
def State.lineMembers (s : State) (v slot : Nat) : Option (List Instr) :=
  let lo := s.wordInstr (slotWord v slot)
  if pairBit v slot then
    let hi := s.wordInstr (slotWord v (slot + 1))
    if Instr.unusable lo || Instr.unusable hi || !pairClassesOk (slotWord v slot) (slotWord v (slot + 1)) then none
    else some [lo, hi]
  else some [lo]

/-- R53, R189, R307: what the group or fibre stands at names a pending token or register, so that it is not ready. -/
def State.waits (s : State) (g : Nat) : Bool :=
  if (s.group g).pending.isEmpty && (s.pendingVecs g).isEmpty then false
  else
    match s.soloIssue g with
    | none => false
    | some i =>
      let s := { s with cur := some i }
      validPc i.pc &&
        match s.fetchLine i.core s.curCtx (lineOf i.pc) with
        | (_, .error _) => false
        | (_, .ok v) =>
          parityOk v && !malformed v &&
            match s.lineMembers v (slotOf i.pc) with
            | none => false
            | some is => ((s.members is).filterMap s.stepSeven).isEmpty && (s.members is).any s.mustWait

/-- A group, or a free fibre, that may issue now (R33, R53): what its last issue took has passed (log entry 1), and it
waits for no token. -/
def State.ready (s : State) (g : Nat) (gr : Group) : Bool :=
  s.mayIssue gr && decide (gr.readySince ≤ s.cycle) && !s.waits g

/-! ### Stream batches (R53, R54) -/

/-- A ready free fibre: its group, PC, since when it is ready, slot, and whether it is aged. -/
structure Fibre where
  gid : Nat
  pc : Nat
  since : Nat
  slot : Nat
  aged : Bool
  deriving DecidableEq, Repr, Inhabited

def Fibre.before (a b : Fibre) : Bool :=
  (a.aged && !b.aged) || (a.aged == b.aged && (a.since < b.since || (a.since == b.since && a.slot < b.slot)))

def insertFibre (c : Fibre) : List Fibre → List Fibre
  | [] => [c]
  | d :: r => if c.before d then c :: d :: r else d :: insertFibre c r

/-- The PC of a free fibre. -/
def Group.pcOf (gr : Group) : Nat := (gr.frontier.head?.map fun e => e.pc.toNat).getD 0

/-- R53 step 4: the batch a slot keeps stands while all its fibres have one PC and none of them stalls. -/
def State.stands (s : State) (b : List (Option Nat)) : Bool :=
  let gs := (b.filterMap id).map fun g => (g, s.group g)
  !gs.isEmpty && (gs.all fun p => s.mayIssue p.2 && !p.2.blocked && !s.waits p.1) &&
    (distinct (gs.map fun p => p.2.pcOf)).length == 1

/-- The stream table's ready fibres, which no slot's standing batch holds: aged first, then the longest waiting. Those
whose last turn stalled are taken only when there is no other. -/
def State.fibres (s : State) (t : Nat) : List Fibre :=
  let held := ((s.teamOf t).batches.filter fun b => s.stands b.2).flatMap fun b => b.2.filterMap id
  let all := s.groups.filter fun p => p.2.team == t && !held.contains p.1 && s.ready p.1 p.2
  let free := all.filter fun p => !p.2.blocked
  List.foldl (fun fs (p : Nat × Group) =>
    insertFibre { gid := p.1, pc := p.2.pcOf, since := p.2.readySince, slot := p.2.slot0
                  aged := !p.2.blocked && (p.2.aged || decide (4096 ≤ s.cycle - p.2.readySince)) } fs) []
    (if free.isEmpty then all else free)

def lowestFibre (fs : List Fibre) : Nat := List.foldl (fun m f => min m f.pc) (2 ^ 57) fs

/-- R53 steps 1 and 2, R54: the fibres at the PC of the longest-waiting aged fibre, or else at the lowest PC. -/
def formBatch (fs : List Fibre) : List (Option Nat) :=
  match fs with
  | [] => []
  | f :: _ =>
    let pc := if f.aged then f.pc else lowestFibre fs
    ((fs.filter fun x => x.pc == pc).take 64).map fun x => some x.gid

/-- R53, R54: the batch an issue slot issues next: the one it keeps, or, when that does not stand or a fibre is aged
(log entry 42), one formed from the table and its own. -/
def State.batchFor (s : State) (t slot : Nat) : List (Option Nat) :=
  let kept := Tab.getD (s.teamOf t).batches slot []
  let fs := s.fibres t
  let aged := match fs with
    | f :: _ => f.aged
    | [] => false
  if s.stands kept && !aged then
    if (kept.filterMap id).all fun g => decide ((s.group g).readySince ≤ s.cycle) then kept else []
  else formBatch (State.fibres (s.modTeam t fun tm => { tm with batches := Tab.erase tm.batches slot }) t)

/-! ### Ready groups and their rank -/

/-- A group or stream team that may issue, with its rank (R363). One whose last turn stalled comes after the others. -/
structure Cand where
  blocked : Bool
  low : Nat
  placed : Nat
  slot : Nat
  gid : Nat
  team : Nat
  stream : Bool
  deriving DecidableEq, Repr, Inhabited

def Cand.before (a b : Cand) : Bool :=
  (!a.blocked && b.blocked) || (a.blocked == b.blocked &&
    (a.low < b.low || (a.low == b.low && (a.placed < b.placed || (a.placed == b.placed && a.slot < b.slot)))))

def insertCand (c : Cand) : List Cand → List Cand
  | [] => [c]
  | d :: r => if c.before d then c :: d :: r else d :: insertCand c r

/-- R363: a ready group that has not issued for 65,536 core cycles. -/
def State.starved (s : State) (gr : Group) : Bool := gr.boosted || decide (65536 ≤ s.cycle - gr.lastIssue)

/-- R363: the issue order of a core's slot: the priority, 63 while boosted or starved, then the placement, then the
slot. A stream team stands in it once, when it has a batch for the slot. -/
def State.ranked (s : State) (k slot : Nat) : List Cand :=
  List.foldl (fun cs (p : Nat × Group) =>
    let gr := p.2
    let t := s.teamOf gr.team
    let here := gr.core == k && s.ready p.1 gr && !(t.stream && cs.any fun c => c.team == gr.team) &&
      (!t.stream || !(s.batchFor gr.team slot).isEmpty)
    if here then
      let pr := if s.starved gr || s.teamBoosted (coreDie k) t then 63 else t.prio
      insertCand { blocked := gr.blocked, low := 63 - pr, placed := t.placed, slot := gr.slot0, gid := p.1, team := gr.team
                   stream := t.stream } cs
    else cs) [] s.groups

/-- R33, R363: what core `k` issues in a slot: the highest-ranked ready group, or its stream team's batch. -/
def State.pick (s : State) (k slot : Nat) : Option Issue :=
  if s.frozen k then none
  else
    match s.ranked k slot with
    | [] => none
    | c :: _ => if c.stream then s.batchIssue k slot c.team (s.batchFor c.team slot) else s.groupIssue k slot c.gid

/-! ### What an issue reads first -/

/-- What a turn of a core comes to: nothing to run, or stopped or stalled before its instruction; one instruction;
or a pair. The issue stands in `cur`. -/
inductive Prep where
  | none (s : State)
  | one (s : State) (i : Instr)
  | two (s : State) (lo hi : Instr)
  deriving DecidableEq, Repr, Inhabited

/-- R296: an armed breakpoint at the entry's PC, in a group or fibre whose first issue since a resume is past. -/
def State.breaks (s : State) : Bool :=
  let i := s.iss
  i.groups.any fun p =>
    let sh := s.sharedOf p.1
    sh.dbg.getLsbD 0 && !(s.group p.1).resumed &&
      ((sh.dbg.getLsbD 4 && sh.bpa0 == i.pc) || (sh.dbg.getLsbD 5 && sh.bpa1 == i.pc))

/-- R61: some fibre's first issue is at an ENTRY whose slot is no target. -/
def State.badEntry (s : State) (v : Nat) : Bool :=
  (s.iss.groups.any fun p => (s.group p.1).entering) && !tgtBit v (slotOf s.iss.pc)

/-- R75 from its first step, on the issue in `cur`. The check of R61 at a first issue, and the engine's ownership
(R227), come first among the checks of step 8. -/
def State.fetchIssue (s : State) : Prep :=
  let i := s.iss
  let line := lineOf i.pc
  if s.breaks then
    .none ((s.modIss fun j => { j with pair := s.pairAt i.core s.curCtx i.pc }).raise 0x51)
  else if !validPc i.pc then .none (s.raise 0x12)
  else if s.fetchHeld i.core s.curCtx line then .none s.stall
  else
    match s.fetchLine i.core s.curCtx line with
    | (s, .error c) => .none (s.raise c 0 (if 0x20 ≤ c && c < 0x30 then line.toNat else 0))
    | (s, .ok v) =>
      let s := if pairBit v (slotOf i.pc) then s.modIss fun i => { i with pair := true, next := seqPc (seqPc i.pc) } else s
      if !parityOk v then
        .none ((List.foldl (fun s p => s.modGroup p.1 fun gr => { gr with refetch := some line }) s i.groups).stall)
      else if malformed v then .none (s.raise 0x15)
      else
        match s.lineMembers v (slotOf i.pc) with
        | none => .none (s.raise 0x15)
        | some is =>
          match s.gate is with
          | (s, false) => .none s
          | (s, true) =>
            if s.badEntry v && !(is.any Instr.unusable) then .none (s.raise 0x12)
            else if (s.members is).any fun m => !s.owns m.instr then .none (s.raise 0x14)
            else
              match is with
              | [lo, hi] =>
                .two (s.modIss fun i =>
                  { i with view := some { groups := s.groups, teams := s.teams, scratch := s.scratch } }) lo hi
              | w :: _ => .one s w
              | [] => .none s

/-- What a turn of core `k` comes to. -/
def State.prepare (s : State) (k slot : Nat) : Prep :=
  match s.pick k slot with
  | none => .none { s with cur := none }
  | some i => { s with cur := some i }.fetchIssue

/-! ### After an issue -/

/-- R62: the stop a pair's member recorded, taken again on the state before the pair. -/
def State.retake (s : State) (stop : Option (Nat × Nat × Nat × Bool × Option Nat)) : State :=
  match stop with
  | some (c, sub, ea, a, h) => s.raise c sub ea a h
  | none => s

/-- The issue of one group ends without a cause so far: its fibres move (R46), its other entries age (R49), and it may
issue again after a time of its own (log entry 1). An issue that waits has its end in `State.resume`. -/
def State.finishGroup (s : State) (i : Issue) (g : Nat) : State :=
  let waiting := (s.group g).parked.isSome
  let s := s.modGroup g fun gr =>
    let gr := { gr.issuedAt i.stopPc i.level s.cycle (s.cycle + 1 + Config.choice s.free) with
                resumed := false, entering := false }
    if waiting then
      { gr with parked := gr.parked.map fun p =>
          { p with moves := i.movesIn g, kids := if i.stream then [] else i.children, pair := i.pair } }
    else clearRcnt
      (gr.commit i.stopPc i.level (i.movesIn g) (if i.stream then [] else i.children) (i.yielded && !i.stream))
  if waiting then s else s.stepped g

/-- R53 steps 4 and 5: after an issue without a cause, the fibres with the lowest next PC stay in the slot, in their
lanes; after YIELD the batch is dissolved (R141). -/
def State.keepBatch (s : State) (i : Issue) : State :=
  if !i.stream then s
  else
    let on := i.slots.map fun x => match x with
      | some (g, _) => if s.mayIssue (s.group g) then some (g, (s.group g).pcOf) else none
      | none => none
    let low := (on.filterMap id).foldl (fun m x => min m x.2) (2 ^ 57)
    let b := on.map fun x => match x with
      | some (g, pc) => if pc == low then some g else none
      | none => none
    s.modTeam i.team fun tm =>
      { tm with batches :=
          if i.yielded || i.out == .raised || i.out == .stalled || (b.filterMap id).isEmpty then Tab.erase tm.batches i.slot
          else Tab.set tm.batches i.slot b }

/-- Something happened that a group which stalled may have waited for. -/
def State.wakeStalled (s : State) : State :=
  { s with groups := s.groups.map fun p =>
      if p.2.blocked then (p.1, { p.2 with blocked := false, readySince := s.cycle }) else p }

/-- The turn's issue ends. -/
def State.finish (s : State) : State :=
  match s.cur with
  | none => s
  | some i =>
    let s := match i.out with
      | .done | .parked => List.foldl (fun (s : State) (p : Nat × List Nat) => s.finishGroup i p.1) s i.groups
      | .stalled => List.foldl (fun (s : State) (p : Nat × List Nat) => s.modGroup p.1 fun gr => { gr with blocked := true }) s i.groups
      | .settled => List.foldl (fun (s : State) (p : Nat × List Nat) =>
          if !i.placed.contains p.1 then s.finishGroup i p.1
          else (s.modGroup p.1 fun gr =>
            { gr with lastIssue := s.cycle, lastPc := i.stopPc, readySince := s.cycle + 1 + Config.choice s.free, aged := false
                      blocked := false, boosted := false, resumed := false }).stepped p.1) s i.groups
      | .raised => List.foldl (fun (s : State) (p : Nat × List Nat) =>
          s.modGroup p.1 fun gr => gr.issuedAt i.stopPc i.level s.cycle (s.cycle + 1)) s i.groups
    let s := s.keepBatch i
    let s := if i.out == .stalled then s else s.wakeStalled
    { s with cur := none }

/-- The most that PWR may read: the limit in force, or an earlier one that its millisecond reaches back to (01 R18, R23). -/
def Manage.powerLimit (m : Manage) (now : Nat) : Nat := if now < m.plimOld.2 then max m.plimNow m.plimOld.1 else m.plimNow

/-- What the sensors read in the next millisecond (21 Table 21.5): nothing is known of it but the limit. -/
def Manage.sample (m : Manage) (free now : Nat) : Manage :=
  { m with pwr := Config.choice free % (m.powerLimit now + 1), tj := (List.range 4).map fun d => Config.choice (free + 1 + d) % 256 }

/-- R489: a die stands at 115 °C. -/
def Manage.trips (m : Manage) : Bool := m.tj.any fun t => decide (115 ≤ t)

/-- Time passes (log entry 1), and the next step draws from the next free value. A junction that comes to 115 °C has the
package sleep (21 R489). -/
def State.tick (s : State) : State :=
  let t := s.time + Config.ticks s.free
  let m := if s.time / 1000000 == t / 1000000 then s.manage else s.manage.sample s.free t
  { s with
    cycle := s.cycle + Config.cycles s.free, time := t, free := s.free + 1, manage := m
    asleep := s.asleep || m.trips }

/-- The state in which a pair's higher member runs: at its own PC. -/
def State.second (s : State) : State := s.modIss fun i => { i with pc := seqPc i.stopPc }

/-- A cause of rank 7 (Table 11.3): found in a word or register that an access reads once its checks have passed. -/
def State.lateStop (s : State) : Bool :=
  match s.iss.stop with
  | some (c, _, _, a, _) => !a && (c == 0x73 || c == 0x74)
  | none => false

end Sys2Proof.Machine
end

