-- ==== Sys2Proof/Machine/Engine.lean ====
section
/-! DEFINITION. What all engines share: tokens and status words (07 R189-R193), acceptance and completion (08 R210,
R221), and device accesses of an operation (08 R220, R223, 18 R415, R419, R427). -/

namespace Sys2Proof.Machine

/-! ### Class counters (R192) -/

def Shared.count (sh : Shared) (cls : Nat) : Nat :=
  match cls with
  | 0 => sh.ld
  | 1 => sh.st
  | 2 => sh.cp
  | _ => sh.tl

def Shared.setCount (sh : Shared) (cls v : Nat) : Shared :=
  match cls with
  | 0 => { sh with ld := v }
  | 1 => { sh with st := v }
  | 2 => { sh with cp := v }
  | _ => { sh with tl := v }

/-! ### Status words (R190, R191) -/

/-- Table 7.4. -/
def statusWord (status : Nat) (flags : BitVec 7) (exact : Bool) (detail info : Nat) : Nat :=
  packFields [(status, 8), (flags.toNat, 7), (boolNat exact, 1), (min detail 0xFFFF, 16), (info, 31), (1, 1)]

/-- The cause a status raises at its join (Table 7.5). -/
def joinCause (st : Nat) : Option Nat := if st < 8 then none else some (statusCause st)

/-- Writes a token's status word; its flags go to sr.flags (R110), and a failing status waits for its join. An MX
operation without a token has number 64 (10 R255): its failing status is met by a WAITC alone. -/
def State.writeToken (s : State) (g tok cls status : Nat) (flags : BitVec 7) (exact : Bool) (detail info : Nat)
    (op : Nat := 0) : State :=
  let s := if flags == 0 then s else s.orFlagsOf g flags
  s.modGroup g fun gr =>
    let gr := if tok < 64 then
        { gr.putScal tok (statusWord status flags exact detail info) with pending := gr.pending.filter (· != tok) }
      else gr
    match joinCause status with
    | some c => { gr with unjoined := gr.unjoined ++ [{ token := tok, cause := c, cls := cls, op := op }] }
    | none => gr

/-! ### Acceptance (R210, R306, R343, R373, R439, R467) -/

/-- Whether an execution stalls: its counter stands at 255, or its engine is full. -/
def State.engineBusy (s : State) (g cls : Nat) (full : Bool) : Bool := (s.sharedOf g).count cls == 255 || full

/-- Operations in flight of the engine a predicate names. -/
def State.inFlight (s : State) (p : Op → Bool) : Nat := (s.ops.filter fun o => p o.2).length

/-- R220: the deadlines of what the issuing core accepts now. -/
def State.issueDeadlines (s : State) : List (Option Nat) := s.deadlinesAt (coreDie s.iss.core) s.curCtx

/-- A blank operation of the execution of a slot lane, with the checks it has passed. -/
def State.newOp (s : State) (u : Nat) (i : Instr) (cls tok : Nat) : Op :=
  let (g, _) := (s.iss.at? u).getD (0, 0)
  { instr := i, gid := g, core := s.iss.core, ctx := (s.teamOf s.iss.team).ctx, team := s.iss.team, tok := tok
    cls := cls, deadlines := s.issueDeadlines, passed := s.iss.checked }

/-- An operation is accepted: its counter rises and its token becomes pending. -/
def State.accept (s : State) (o : Op) : State :=
  ({ s with seq := s.seq + 1, ops := Tab.set s.ops s.seq o }.modShared o.gid fun sh =>
      sh.setCount o.cls (sh.count o.cls + 1)).modGroup o.gid fun gr => { gr with pending := gr.pending ++ [o.tok] }

/-- An operation that serves all of `members` is accepted: one counter rises, and each names its token (12 R306). -/
def State.enter (s : State) (o : Op) : State :=
  List.foldl (fun (s : State) (m : Nat × Nat) => s.modGroup m.1 fun gr => { gr with pending := gr.pending ++ [m.2] })
    ({ s with seq := s.seq + 1, ops := Tab.set s.ops s.seq o }.modShared o.gid fun sh =>
      sh.setCount o.cls (sh.count o.cls + 1)) o.members

def State.op (s : State) (id : Nat) : Option Op := Tab.get? s.ops id
def State.modOp (s : State) (id : Nat) (f : Op → Op) : State := { s with ops := Tab.modify s.ops id f }

/-! ### Completion (R221, R192) -/

/-- The GTC has passed every global write completion time the operation's writes returned (R221, R386). -/
def State.settled (s : State) (o : Op) : Bool := o.gwct == 0 || o.gwct < s.gtc (coreDie o.core)

/-- Groups and fibres that wait for an operation's token or registers are ready from its end on (R53, R54). -/
def State.endWaits (s : State) (gs : List Nat) : State :=
  gs.foldl (fun (s : State) g => if s.waits g then s.modGroup g fun gr => { gr with readySince := s.cycle } else s) s

/-- The token is written and the counter falls in one step (R193). -/
def State.finishOp (s : State) (id : Nat) : State :=
  match s.op id with
  | none => s
  | some o =>
    let s := s.endWaits [o.gid]
    let s := { s with ops := Tab.erase s.ops id }.modShared o.gid fun sh => sh.setCount o.cls (sh.count o.cls - 1)
    s.writeToken o.gid o.tok o.cls o.status o.flags o.exact o.detail o.info id

/-- The same for an operation that serves all of `members` (12 R306): each token takes the same word. -/
def State.finishFor (s : State) (id : Nat) : State :=
  match s.op id with
  | none => s
  | some o =>
    let s := s.endWaits (o.members.map Prod.fst)
    let s := { s with ops := Tab.erase s.ops id }.modShared o.gid fun sh => sh.setCount o.cls (sh.count o.cls - 1)
    List.foldl (fun (s : State) (m : Nat × Nat) =>
      s.writeToken m.1 m.2 o.cls o.status o.flags o.exact o.detail o.info id) s o.members

/-- Every status that occurred counts: the highest code stands. -/
def Op.fail (o : Op) (st : Nat) : Op := { o with status := max o.status st }

/-- A destination sector is not delivered. -/
def Op.lose (o : Op) (st sec : Nat) : Op :=
  { o.fail st with lost := if o.lost.contains sec then o.lost else o.lost ++ [sec] }

/-- A unit of an operation waits for sectors (R419). -/
def State.waitsSectors (s : State) (id : Nat) : Bool := s.sectorWaits.any fun w => w.1 == .op id

/-- A unit is done. -/
def Op.took (o : Op) (u : Nat) : Op := { o with rest := o.rest.filter (· != u), moved := true, queued := none }

/-! ### Device accesses of an operation -/

/-- R427: the page of an address was withdrawn after the operation was accepted. -/
def Op.gone (o : Op) (va : Nat) : Bool :=
  o.withdrawn.any fun w => decide (w.1 ≤ pageOf va) && decide (pageOf va < w.1 + w.2)

/-- An operation's team is saved: what it has not done waits for the restore (R378, R381). -/
def State.opOut (s : State) (o : Op) : Bool := (s.teamOf o.team).out

/-- Performs units in order; one that waits for sectors, or for its turn in a queue, holds up those after it. -/
def State.runUnits (s : State) (id : Nat) (perform : State → Nat → Nat → State) (us : List Nat) : State :=
  (List.foldl (fun (a : State × Bool) u =>
    if a.2 then
      let s := perform a.1 id u
      (s, match s.op id with
        | some o => !o.rest.contains u
        | none => false)
    else a) (s, true) us).1

/-- The source number of the unit that makes an operation's requests (19 Table 19.2): the hash-grid engine, the
all-reduce unit, or the core with its engines. -/
def Op.source (o : Op) : Nat :=
  match o.instr with
  | .hcfg _ _ | .hgath _ _ | .hscat _ _ => 0x200 + coreCluster (o.core % 512)
  | .ared _ _ => 0x24C + coreDie o.core
  | _ => o.core % 512

/-- R220: the class of a request: the larger of the operation's and the page's. -/
def Op.classOf (o : Op) (x : Xlate) : Nat := max o.svc (pteCls x.pte)

/-- R415: a request served at its home counts there when it is late. -/
def State.serveAs (s : State) (o : Op) (x : Xlate) : State :=
  s.countMiss (s.homeOf x.pa) o.source (o.classOf x) (o.deadlines.getD (o.classOf x) none)

/-- The status of a translation that fails after acceptance (Table 7.5): the walker's errors as such, else 0x0B. -/
def walkStatus (c : Nat) : Nat := if c == 0x68 then 0x08 else if c == 0x69 then 0x09 else if c == 0x72 then 0x0F else 0x0B

/-- The address of an operation's access, or the status that refuses it (R427). -/
def State.opAddr (s : State) (o : Op) (va : Nat) (acc : Acc) : State × Except Nat Xlate :=
  if o.gone va then (s, .error 0x0B)
  else
    let as := s.walkedBy o.core o.ctx (va % 2 ^ 57)
    match s.access o.core o.ctx (va % 2 ^ 57) acc with
    | (s, .error c) => (s, .error (walkStatus c))
    | (s, .ok x) => (s.serveWalk (coreDie o.core) as (o.deadlines.getD (o.classOf x) none), .ok x)

/-! ### The order of service at a home slice (18 R413, R414) -/

/-- The queue of a sector's home slice. -/
def queueOf (pa : Nat) : Nat := 32 * homeDie pa + homeSlice (paLa pa)

/-- A request that stands in a queue: since when, the queue and the class are `w`; `id` tells requests of one time apart. -/
def queuedIn (w : Option (Nat × Nat × Nat)) (deadlines : List (Option Nat)) (id q : Nat) : Option Queued :=
  match w with
  | some (t, p, c) => if p == q then some { since := t, cls := c, deadline := deadlines.getD c none, id := id } else none
  | none => none

/-- The requests that wait in a queue: those of operations, and posted writes. One that waits for sectors is passed over,
as is one of a saved team. -/
def State.queueAt (s : State) (q : Nat) : List Queued :=
  (s.ops.filterMap fun (p : Nat × Op) =>
      if s.opOut p.2 || s.waitsSectors p.1 then none else queuedIn p.2.queued p.2.deadlines (2 * p.1) q) ++
    s.groups.filterMap fun (p : Nat × Group) =>
      match p.2.parked with
      | some w =>
        if (s.teamOf p.2.team).out || s.sectorWaits.any (fun x => x.1 == .posted p.1) then none
        else queuedIn w.queued w.deadlines (2 * p.1 + 1) q
      | none => none

/-- R414: another request in the queue of an address's home slice goes before one: before its place there, or before it
as it arrives with a class. -/
def State.outrankedAt (s : State) (w : Option (Nat × Nat × Nat)) (deadlines : List (Option Nat)) (id cls pa : Nat) : Bool :=
  let q := queueOf pa
  let d := homeDie pa
  let me := (queuedIn w deadlines id q).getD { since := s.gtc d, cls := cls, deadline := deadlines.getD cls none, id := id }
  paRegion pa == 0 && (s.queueAt q).any fun x => x.id != id && x.before me (s.gtc d) (s.die d).age

/-- The same for a request of an operation. -/
def State.outranked (s : State) (id : Nat) (o : Op) (x : Xlate) : Bool :=
  s.outrankedAt o.queued o.deadlines (2 * id) (o.classOf x) x.pa

/-- An operation's request stands in its home slice's queue from now on, unless one does already. -/
def State.enqueue (s : State) (id : Nat) (o : Op) (x : Xlate) : State :=
  if o.queued.isSome || paRegion x.pa != 0 then s
  else s.modOp id fun o => { o with queued := some (s.gtc (homeDie x.pa), queueOf x.pa, o.classOf x) }

/-- An operation's plain request may be served now: no exactly-once request of its source is on the way before it in its
hash lane (19 R457), unless it has reached its home, and no other in its home's queue goes first; it waits there
otherwise. -/
def State.goesNow (s : State) (id : Nat) (o : Op) (x : Xlate) : State × Bool :=
  if o.queued.isNone && s.homeOf x.pa != coreDie o.core && s.laneBusy o.source (s.homeOf x.pa) (laneOf (paLa x.pa)) then (s, false)
  else if s.outranked id o x then (s.enqueue id o x, false)
  else (s, true)

/-- A request of an operation for a sector arrives at its home. -/
def State.arrive (s : State) (id sector : Nat) : State :=
  match s.op id with
  | none => s
  | some o =>
    match s.lookup o.core o.ctx (64 * sector) with
    | .ok x => if o.rest.isEmpty then s else s.enqueue id o x
    | .error _ => s

/-! ### Reads and writes -/

/-- The sector that holds a device address (R222, R223); a page that is not tagged gives descriptor 0. None: it waits in
its home's queue. -/
def State.opRead (s : State) (id : Nat) (o : Op) (va : Nat) : State × Option Sector :=
  match s.opAddr o va .read with
  | (s, .error st) => (s, some { status := st })
  | (s, .ok x) =>
    match s.goesNow id o x with
    | (s, false) => (s, none)
    | (s, true) =>
      let (s, r) := s.readSector o.core o.ctx x
      let s := s.modOp id fun o => { o with queued := none }
      (if r.cached then s else s.serveAs o x, some { r with desc := if x.tagged then r.desc else 0 })

/-- Runs of one bits of a mask of `n` bytes: first byte and length. -/
def maskRuns (mask : Nat) : Nat → List (Nat × Nat)
  | 0 => []
  | n + 1 =>
    let r := maskRuns mask n
    if bitOf mask n then
      match r.reverse with
      | (a, k) :: t => if a + k == n then t.reverse ++ [(a, k + 1)] else r ++ [(n, 1)]
      | [] => [(n, 1)]
    else r

/-- Bytes of `new` where the mask has ones, of `old` elsewhere. -/
def mergeBytes (old new mask : Nat) : Nat → Nat
  | 0 => 0
  | n + 1 => mergeBytes old new mask n + (if bitOf mask n then bitsOf new (8 * n) 8 else bitsOf old (8 * n) 8) * 2 ^ (8 * n)

/-- Writes the masked bytes of the sector at an address, as one unit (R104, R384, R431). -/
def State.writeMasked (s : State) (k ctx : Nat) (x : Xlate) (v mask desc : Nat) : State × Written :=
  let x := { x with pa := x.pa / 64 * 64 }
  if mask == 2 ^ 64 - 1 then s.writeSector k ctx x v 64 desc
  else if paRegion x.pa == 0 then
    let st := s.sectorStatus x.pa
    if !s.reaches (coreDie k) x.pa then (s, .refused 0x09)
    else if st != 0 then (s, .refused st)
    else (s.noteCorrected x.pa false).writeSector k ctx x (mergeBytes (s.paLoad x.pa 64) v mask 64) 64 desc
  else
    List.foldl (fun (a : State × Written) (r : Nat × Nat) =>
      match a with
      | (s, .done g) =>
        match s.writeSector k ctx { x with pa := x.pa + r.1 } (bitsOf v (8 * r.1) (8 * r.2)) r.2 desc with
        | (s, .done h) => (s, .done (max g h))
        | x => x
      | x => x) (s, .done 0) (maskRuns mask 64)

/-- A masked write of an operation to the sector of a device address: performed, refused, or waiting for sectors or in its
home's queue. `unit` is then taken from the operation, and `info` added when it was delivered. -/
def State.opWrite (s : State) (id : Nat) (o : Op) (va v mask desc unit info : Nat) : State :=
  match s.opAddr o va .write with
  | (s, .error st) => s.modOp id fun o => (o.lose st (va / 64)).took unit
  | (s, .ok x) =>
    match s.goesNow id o x with
    | (s, false) => s
    | (s, true) =>
      match s.writeMasked o.core o.ctx x v mask desc with
      | (s, .done g) =>
        ((s.serveAs o x).modOp id fun o => { o.took unit with gwct := max o.gwct g, info := o.info + info }).endWait (.op id)
      | (s, .refused st) => ((s.serveAs o x).modOp id fun o => (o.lose st (va / 64)).took unit).endWait (.op id)
      | (s, .waits d) => s.noteWait (.op id) d

end Sys2Proof.Machine
end

