-- ==== Sys2Proof/Machine/LocalMemory.lean ====
section
/-! DEFINITION. The MS instructions (08 R196-R203): scratchpad windows, stack slots, the on-chip region with the
register aperture (07 R181-R187), and cluster slices; loads, stores and atomics. -/

namespace Sys2Proof.Machine

/-! ### Places in core SRAM (07 R181-R184) -/

/-- Where an access to core SRAM lands: a physical scratchpad byte of a core, or a byte of a lane-register of a
fibre, under the name the fibre gives it. -/
inductive Place where
  | scr (core byte : Nat)
  | reg (gid lane n off : Nat)
  deriving DecidableEq, Repr, Inhabited

/-- R182 condition 4: the bytes lie in the window of a team of the context on the core. -/
def State.inWindow (s : State) (ctx k off n : Nat) : Bool :=
  s.teams.any fun p =>
    p.2.ctx == ctx && !p.2.ended && !p.2.out && p.2.cores.contains k &&
      (let b := p.2.sbase.getD (p.2.cores.idxOf k) 0
       decide (b ≤ off) && decide (off + n ≤ b + p.2.ssize.getD (p.2.cores.idxOf k) 0))

/-- R182 condition 5: the resident fibre of a context in a slot of a core: its group and lane. -/
def State.fibreAt (s : State) (ctx k slot : Nat) : Option (Nat × Nat) :=
  List.findSome? (fun (p : Nat × Group) =>
    let gr := p.2
    if gr.core == k && !gr.retired && decide (gr.slot0 ≤ slot) && decide (slot < gr.slot0 + gr.lanes.length)
        && (s.teamOf gr.team).ctx == ctx && !(s.teamOf gr.team).out then
      match gr.lanes[slot - gr.slot0]? with
      | some ln => if ln.live then some (p.1, slot - gr.slot0) else none
      | none => none
    else none) s.groups

/-- R182 condition 6. A stream fibre's names 64-95 address s48-s63. -/
def State.regHeld (s : State) (g n : Nat) : Bool :=
  let gr := s.group g
  if (s.teamOf gr.team).stream then n < (s.roleOf g).nb || (64 ≤ n && n < 96)
  else (s.roleOf g).hasReg n && (n < 64 || (n - 64) / 32 < gr.h)

/-- R182: the place of an on-chip access of `n` bytes by a context, or the cause; `own` is the core an MS instruction
must name. -/
def State.onchipPlace (s : State) (ctx : Nat) (own : Option Nat) (a n : Nat) : Except Nat Place :=
  let k := bitsOf a 32 9
  let kind := bitsOf a 30 2
  let off := bitsOf a 0 30
  if !onchip a || 1 < kind || (if kind == 0 then 2 ^ 19 ≤ off else 2 ^ 21 ≤ off) then .error 0x26
  else if (match own with | some c => c != k | none => false) then .error 0x26
  else if kind == 0 then (if s.inWindow ctx k off n then .ok (.scr k off) else .error 0x26)
  else
    match s.fibreAt ctx k (bitsOf off 10 11) with
    | none => .error 0x27
    | some (g, j) => if s.regHeld g (bitsOf off 2 8) then .ok (.reg g j (bitsOf off 2 8) (off % 4)) else .error 0x27

/-- The 32 bits of a lane-register under its aperture name. -/
def State.apReg (s : State) (g j n : Nat) : Nat :=
  let gr := s.rgroup g
  if (s.teamOf gr.team).stream && 64 ≤ n then bitsOf (gr.scal (48 + (n - 64) / 2)) (32 * (n % 2)) 32 else gr.reg j n

/-- Writes a lane-register under its aperture name; written whole, its check bits are new (R187). -/
def State.setApReg (s : State) (g j n v : Nat) (whole : Bool) : State :=
  let st := (s.teamOf (s.group g).team).stream
  s.modGroup g fun gr =>
    if st && 64 ≤ n then
      let i := 48 + (n - 64) / 2
      { gr.setScal i (setBits (gr.scal i) (32 * (n % 2)) 32 v) with
        badScal := if whole then Tab.erase gr.badScal (n + 32) else gr.badScal }
    else if whole then gr.setReg j n v
    else gr.pokeReg j n v

/-- The stored error of a lane-register under its aperture name. -/
def State.apError (s : State) (g j n : Nat) : Option SramError :=
  let gr := s.group g
  if (s.teamOf gr.team).stream && 64 ≤ n then Tab.get? gr.badScal (n + 32)
  else (gr.lanes[j]?).bind fun ln => Tab.get? ln.bad n

/-- A corrected error of a lane-register is repaired in place and logged, under its physical number. -/
def State.repairAp (s : State) (g j n b : Nat) : State :=
  let gr := s.group g
  if (s.teamOf gr.team).stream && 64 ≤ n then s.repairScalar (g, n + 32, .corrected b)
  else
    (s.modGroup g fun gr => gr.modLane j fun ln => { ln with bad := Tab.erase ln.bad n }).log (coreDie gr.core) gr.core
      0x02 [(0, 4), (gr.fileNum j n, 32), (b, 8)]

def State.placeLoad (s : State) (p : Place) (z : Nat) : Nat :=
  match p with
  | .scr k a => s.scrLoad k a z
  | .reg g j n off => bitsOf (s.apReg g j n) (8 * off) (8 * z)

/-- Scratchpad bytes stored by an instruction or engine. -/
def State.storeScr (s : State) (k a v z : Nat) : State := (s.mendWords k a z).scrStore k a v z

def State.placeStore (s : State) (p : Place) (v z : Nat) : State :=
  match p with
  | .scr k a => s.storeScr k a v z
  | .reg g j n off => s.setApReg g j n (setBits (State.apReg { s with cur := none } g j n) (8 * off) (8 * z) v) (z == 4)

/-! ### SRAM errors found by a read (07 R187) -/

/-- Whether a word that `z` bytes at a place cover cannot be corrected. -/
def State.placeLost (s : State) (p : Place) (z : Nat) : Bool :=
  match p with
  | .scr k a => (s.core k).badWords.any fun w =>
      decide (a / 4 ≤ w.1) && decide (w.1 ≤ (a + z - 1) / 4) && w.2 == .uncorrectable
  | .reg g j n _ => s.apError g j n == some .uncorrectable

/-- Corrected errors of the words read are repaired in place and logged. -/
def State.repairPlace (s : State) (p : Place) (z : Nat) : State :=
  match p with
  | .scr k a =>
    let ws := (s.core k).badWords.filter fun w => decide (a / 4 ≤ w.1) && decide (w.1 ≤ (a + z - 1) / 4)
    List.foldl (fun (s : State) (w : Nat × SramError) =>
      match w.2 with
      | .corrected b =>
        (s.modCore k fun c => { c with badWords := Tab.erase c.badWords w.1 }).log (coreDie k) k 0x02
          [(1, 4), (w.1, 32), (b, 8)]
      | .uncorrectable => s) s ws
  | .reg g j n _ =>
    match s.apError g j n with
    | some (.corrected b) => s.repairAp g j n b
    | _ => s

/-! ### Addresses and checks (R197, R198) -/

/-- Table 8.1: address kinds. -/
inductive MsKind where
  | window | slot | onchip | slice
  deriving DecidableEq, Repr, Inhabited

/-- One lane's access: its slot lane, its exact address, the bytes it reads from there on, and its pieces: address,
bytes, and which destination register each fills. -/
structure MsAcc where
  lane : Nat
  base : Int
  span : Nat
  pieces : List (Int × Nat × Nat)
  deriving DecidableEq, Repr, Inhabited

/-- R197. `k` is LDSB's count of registers, and 0 elsewhere; `z` is the width of T in bytes. -/
def State.msAcc (s : State) (kind : MsKind) (f : Fields) (z k l : Nat) : MsAcc :=
  let w := if s.iss.stream then 1 else s.iss.width
  let li := if s.iss.stream then 0 else l
  let off := sextN (f.xf 0 20) 20
  match kind with
  | .window =>
    let a : Int := s.opA f 32 l + off
    { lane := l, base := a, span := if k == 0 then z else 4 * k * w
      pieces := if k == 0 then [(a, z, 0)]
        else (List.range k).map fun r => (a + (4 * (r * w + li) : Nat), 4, r) }
  | .slot =>
    let a : Int := (s.opA f 32 l + (f.xf 0 16 * w + li) * 4 : Nat)
    { lane := l, base := a, span := 4, pieces := if z == 8 then [(a, 4, 0), (a + (4 * w : Nat), 4, 1)] else [(a, 4, 0)] }
  | .onchip =>
    let a : Int := wrapN (s.opA f 64 l + off) 57
    { lane := l, base := a, span := z, pieces := [(a, z, 0)] }
  | .slice =>
    let c : Int := s.opA f 32 l + off
    { lane := l, base := c, span := z, pieces := [(c % 2 ^ 20, z, 0)] }

/-- The window of the team's core `t`: its core, physical base and size. -/
def State.window (s : State) (t : Nat) : Nat × Nat × Nat :=
  let tm := s.teamOf s.iss.team
  (tm.cores.getD t 0, tm.sbase.getD t 0, tm.ssize.getD t 0)

/-- The number of the issuing core in its team. -/
def State.ownIndex (s : State) : Nat := (s.teamOf s.iss.team).cores.idxOf s.iss.core

/-- Table 8.2, check 1. -/
def MsAcc.misaligned (a : MsAcc) (kind : MsKind) (z k : Nat) : Bool :=
  a.base % ((if k != 0 || kind == .slot then 4 else z : Nat) : Int) != 0

/-- Table 8.2, checks 2 and 3. -/
def State.msOutside (s : State) (kind : MsKind) (a : MsAcc) : Bool :=
  let size : Int := (s.window (if kind == .slice then (a.base / 2 ^ 20).toNat else s.ownIndex)).2.2
  match kind with
  | .onchip => false
  | .window => decide (a.base < 0) || decide (size < a.base + a.span)
  | .slot => a.pieces.any fun p => decide (p.1 < 0) || decide (size < p.1 + p.2.1)
  | .slice =>
    decide (a.base < 0) || decide ((2 ^ 22 : Int) ≤ a.base) ||
      decide ((s.teamOf s.iss.team).cores.length ≤ (a.base / 2 ^ 20).toNat) ||
      a.pieces.any fun p => decide (size < p.1 + p.2.1)

/-- The place of a piece, or the cause of R182. -/
def State.msPlace (s : State) (kind : MsKind) (a : MsAcc) (p : Int × Nat × Nat) : Except Nat Place :=
  match kind with
  | .onchip => s.onchipPlace (s.teamOf s.iss.team).ctx (some s.iss.core) p.1.toNat p.2.1
  | .slice =>
    let w := s.window (a.base / 2 ^ 20).toNat
    .ok (.scr w.1 (w.2.1 + p.1.toNat))
  | _ =>
    let w := s.window s.ownIndex
    .ok (.scr s.iss.core (w.2.1 + p.1.toNat))

/-- A placed piece: slot lane, place, bytes, register index. -/
structure Piece where
  lane : Nat
  place : Place
  z : Nat
  j : Nat
  deriving DecidableEq, Repr, Inhabited

/-- The faulting address of a check: that of the lowest failing lane (Table 11.5). -/
def faultAddr (a : Option MsAcc) : Nat := match a with | some x => wrapN x.base 57 | none => 0

/-- R198: the checks of Table 8.2 in order, each over every lane, then the pieces with their places. The address
operand is A. -/
def State.msPlaces (s : State) (kind : MsKind) (f : Fields) (z k : Nat) (ls : List Nat) : Except (Nat × Nat) (List Piece) :=
  let as_ := ls.map (s.msAcc kind f z k)
  let mis := as_.find? fun a => a.misaligned kind z k
  let out := as_.find? (s.msOutside kind)
  let causes := as_.map fun a => (a, a.pieces.map fun p => (p, s.msPlace kind a p))
  let fails := fun (c : Nat) => (causes.find? fun x => x.2.any fun y =>
    match y.2 with | .error e => e == c | .ok _ => false).map Prod.fst
  if mis.isSome then .error (0x24, faultAddr mis)
  else if out.isSome then .error (0x26, faultAddr out)
  else if (fails 0x26).isSome then .error (0x26, faultAddr (fails 0x26))
  else if (fails 0x27).isSome then .error (0x27, faultAddr (fails 0x27))
  else
    .ok (causes.flatMap fun x => x.2.filterMap fun y =>
      match y.2 with
      | .ok p => some { lane := x.1.lane, place := p, z := y.1.2.1, j := y.1.2.2 }
      | .error _ => none)

/-- R187: words the checked access reads. True when all can be used. -/
def State.readPieces (s : State) (ps : List Piece) : State × Bool :=
  match ps.find? fun p => s.placeLost p.place p.z with
  | some p => (s.raise (match p.place with | .scr _ _ => 0x74 | .reg _ _ _ _ => 0x73), false)
  | none => (List.foldl (fun s p => s.repairPlace p.place p.z) s ps, true)

/-- R200: an access to another core of the cluster is performed 12 core cycles after its final beat, or later by its
beats (log entry 1). -/
def State.noteRemote (s : State) (ps : List Piece) : State :=
  if ps.any fun p => match p.place with | .scr k _ => k != s.iss.core | _ => false then
    (List.foldl (fun (s : State) (p : Nat × List Nat) =>
      s.modGroup p.1 fun gr => { gr with accessBy := max gr.accessBy (s.cycle + 12 + Config.choice s.free) }) s
      s.iss.groups).draw
  else s

/-- The words that LDSB reads: all of its bytes, whichever lanes take them (R197). -/
def State.blockPieces (s : State) (kind : MsKind) (f : Fields) (z n : Nat) (ls : List Nat) : List Piece :=
  if n == 0 then []
  else (ls.map (s.msAcc kind f z n)).filterMap fun a =>
    match s.msPlace kind a (a.base, a.span, 0) with
    | .ok p => some { lane := a.lane, place := p, z := a.span, j := 0 }
    | .error _ => none

/-- Runs `k` on the pieces once every check has passed; with `reads`, once the words are read without error. -/
def State.withPieces (s : State) (kind : MsKind) (f : Fields) (z n : Nat) (ls : List Nat) (reads : Bool)
    (k : State → List Piece → State) : State :=
  if ls.isEmpty then s
  else
    match s.msPlaces kind f z n ls with
    | .error (c, ea) => s.raise c 1 ea
    | .ok ps =>
      if reads then
        match s.readPieces (ps ++ s.blockPieces kind f z n ls) with
        | (s, true) => k (s.noteRemote ps) ps
        | (s, false) => s
      else k (s.noteRemote ps) ps

/-! ### Loads and stores (R199) -/

/-- T's width in bytes. -/
def msBytes (f : Fields) : Nat := tyWidth (msTy f) / 8

def loadExec (kind : MsKind) (g : Guard) (f : Fields) (z n : Nat) (s : State) : Res :=
  issued s fun _ =>
    s.withPieces kind f z n (s.active g) true fun s ps =>
      let vs := ps.map fun p => (p, s.placeLoad p.place p.z)
      List.foldl (fun t v => t.setVval v.1.lane (f.d.toNat + v.1.j) (if v.1.z == 8 then 64 else 32) v.2) s vs

def storeExec (kind : MsKind) (g : Guard) (f : Fields) (s : State) : Res :=
  issued s fun _ =>
    s.withPieces kind f (msBytes f) 0 (s.active g) false fun s ps =>
      let vs := ps.map fun p => (p, s.opC f (tyWidth (msTy f)) p.lane / 2 ^ (32 * p.j))
      List.foldl (fun t v => t.placeStore v.1.place v.2 v.1.z) s vs

/-- LDS (R199). -/
def execLds (g : Guard) (f : Fields) (s : State) : Res := loadExec .window g f (msBytes f) 0 s
/-- STS (R199). -/
def execSts (g : Guard) (f : Fields) (s : State) : Res := storeExec .window g f s
/-- LDSB (R199): words to k consecutive registers. -/
def execLdsb (g : Guard) (f : Fields) (s : State) : Res := loadExec .window g f 4 (f.xf 26 4 + 1) s
/-- LDSL (R199). -/
def execLdsl (g : Guard) (f : Fields) (s : State) : Res := loadExec .slot g f (msBytes f) 0 s
/-- STSL (R199). -/
def execStsl (g : Guard) (f : Fields) (s : State) : Res := storeExec .slot g f s
/-- LDA (R199). -/
def execLda (g : Guard) (f : Fields) (s : State) : Res := loadExec .onchip g f (msBytes f) 0 s
/-- STA (R199). -/
def execSta (g : Guard) (f : Fields) (s : State) : Res := storeExec .onchip g f s
/-- LDC (R199). -/
def execLdc (g : Guard) (f : Fields) (s : State) : Res := loadExec .slice g f (msBytes f) 0 s
/-- STC (R199). -/
def execStc (g : Guard) (f : Fields) (s : State) : Res := storeExec .slice g f s

/-- LDSS (R199): once per issue, to a group scalar. -/
def execLdss (g : Guard) (f : Fields) (s : State) : Res :=
  issued s fun _ =>
    s.withPieces .window f (msBytes f) 0 (s.onceUnits g) true fun s ps =>
      let vs := ps.map fun p => (p, s.placeLoad p.place p.z)
      List.foldl (fun t v => t.setS v.1.lane (f.d.toNat % 64) v.2) s vs

/-- STSS (R199). -/
def execStss (g : Guard) (f : Fields) (s : State) : Res :=
  issued s fun _ =>
    s.withPieces .window f (msBytes f) 0 (s.onceUnits g) false fun s ps =>
      let vs := ps.map fun p => (p, s.sreg p.lane f.c.toNat)
      List.foldl (fun t v => t.placeStore v.1.place v.2 v.1.z) s vs

/-! ### Atomics (R202, R203) -/

/-- Table 8.3: the new value and its flags. -/
def atomicNew (op : Nat) (t : Ty) (o c b : Nat) : Nat × Flags :=
  match op with
  | 0 => combOp t 0 o c
  | 1 => satInt t (intVal t o + intVal t c)
  | 2 => combOp t 1 o c
  | 3 => combOp t 2 o c
  | 4 => combOp t 3 o c
  | 5 => combOp t 4 o c
  | 6 => combOp t 5 o c
  | 7 => (c, 0)
  | 8 => (if o == b then c else o, 0)
  | 9 => (if c ≤ o then 0 else o + 1, 0)
  | _ => (if o == 0 || decide (c < o) then c else o - 1, 0)

/-- R203: the chain over ascending lanes: old value, new value and flags of each piece. Each lane sees the result of
the lanes before it. -/
def State.atomChain (s : State) (op : Nat) (t : Ty) (c b : Nat → Nat) (ps : List Piece) : List (Piece × Nat × Nat × Flags) :=
  List.foldl (fun (acc : List (Piece × Nat × Nat × Flags)) p =>
    let o := match acc.reverse.find? fun x => x.1.place == p.place with
      | some x => x.2.2.1
      | none => s.placeLoad p.place p.z
    let r := atomicNew op t o (c p.lane) (b p.lane)
    acc ++ [(p, o, r.1, r.2)]) [] ps

def atomExec (kind : MsKind) (g : Guard) (f : Fields) (s : State) : Res :=
  issued s fun _ =>
    let t := msTy f
    let w := tyWidth t
    s.withPieces kind f (w / 8) 0 (s.active g) true fun s ps =>
      let ch := s.atomChain (f.xf 26 4) t (s.opC f w) (s.opB f w) ps
      let u := List.foldl (fun u x => u.placeStore x.1.place x.2.2.1 x.1.z) s ch
      let u := List.foldl (fun u x => u.setVval x.1.lane f.d.toNat w x.2.1) u ch
      let fl := List.foldl (fun a x => a ||| x.2.2.2) (0 : Flags) ch
      match ch with
      | [] => u
      | x :: _ => if fl == 0 then u else u.orFlags x.1.lane fl

/-- ATS (R203). -/
def execAts (g : Guard) (f : Fields) (s : State) : Res := atomExec .window g f s
/-- ATA (R203). -/
def execAta (g : Guard) (f : Fields) (s : State) : Res := atomExec .onchip g f s
/-- ATC (R203). -/
def execAtc (g : Guard) (f : Fields) (s : State) : Res := atomExec .slice g f s

end Sys2Proof.Machine
end

