-- ==== Sys2Proof/Machine/Copy.lean ====
section
/-! DEFINITION. The copy engine (08 R210-R224): descriptors and issue checks, rows, descriptor arrays, CPM, converting
copies (CPQ) and engine atomics (CPA). An operation's units are 64-byte destination units (by address / 64), scale
sectors of an MXFP8 destination (from 2^60), and words of a descriptor array that the engine writes (from 2^61). CPM's are its
sectors, or the words of the array it writes. -/

namespace Sys2Proof.Machine

/-! ### The descriptor (Table 8.6, R211-R213) -/

/-- Where a side of a copy lies (R213). -/
inductive Side where
  | device | window | onchip | pattern
  deriving DecidableEq, Repr, Inhabited

/-- The commands of Table 8.7. -/
inductive CopyCmd where
  | g | s | t | r | q | f | gx | sx | m
  deriving DecidableEq, Repr, Inhabited

def copyCmd (i : Instr) : Option CopyCmd :=
  match i with
  | .cpg _ _ => some .g
  | .cps _ _ => some .s
  | .cpt _ _ => some .t
  | .cpr _ _ => some .r
  | .cpq _ _ => some .q
  | .cpf _ _ => some .f
  | .cpgx _ _ => some .gx
  | .cpsx _ _ => some .sx
  | .cpm _ _ => some .m
  | _ => none

/-- A copy as the engine holds it: its command, X, descriptor and index words. -/
structure Copy where
  cmd : CopyCmd
  x : Nat
  d : Nat
  idx : List Nat := []
  deriving DecidableEq, Repr, Inhabited

namespace Copy
def srcA (c : Copy) : Nat := bitsOf c.d 0 64
def dstA (c : Copy) : Nat := bitsOf c.d 64 64
def rowlen (c : Copy) : Nat := bitsOf c.d 128 24
def rows (c : Copy) : Nat := bitsOf c.d 160 20
def sstride (c : Copy) : Int := sextN (bitsOf c.d 192 64) 64
def dstride (c : Copy) : Int := sextN (bitsOf c.d 256 64) 64
def stype (c : Copy) : Ty := (tyOfCode (bitsOf c.d 320 6)).getD .none
def dtype (c : Copy) : Ty := (tyOfCode (bitsOf c.d 326 6)).getD .none
def aux (c : Copy) : Nat := bitsOf c.d 384 64
def svc (c : Copy) : Nat := bitsOf c.x 0 2
def sw (c : Copy) : Bool := bitOf c.x 2
def dw (c : Copy) : Bool := bitOf c.x 3
def da (c : Copy) : Bool := bitOf c.x 4
def wr (c : Copy) : Bool := bitOf c.x 5
def daw (c : Copy) : Nat := bitsOf c.x 6 19

/-- R213: the kind of an address; bits [63:57] are zero. -/
def sideOf (a : Nat) (win : Bool) : Option Side :=
  if 2 ^ 57 ≤ a then none else some (if win then .window else if onchip a then .onchip else .device)

def src (c : Copy) : Option Side :=
  if c.cmd == .f then (if c.sw then none else some .pattern) else sideOf c.srcA c.sw
def dst (c : Copy) : Option Side := sideOf c.dstA c.dw

/-- Table 8.7; the scale array of a CPQ with an MXFP8 side is a device address (R212, R218). -/
def kindsOk (c : Copy) : Bool :=
  let loc := fun (x : Option Side) => x == some .window || x == some .onchip
  let dev := fun (x : Option Side) => x == some .device
  match c.cmd with
  | .g | .gx => dev c.src && loc c.dst
  | .s | .sx => loc c.src && dev c.dst
  | .t => loc c.src && loc c.dst
  | .r => dev c.src && dev c.dst
  | .q => (dev c.src || c.src == some .window) && (dev c.dst || c.dst == some .window) &&
      (!(tyMx c.stype || tyMx c.dtype) || dev (sideOf c.aux false))
  | .f => c.src == some .pattern && c.dst.isSome
  | .m => if c.wr then c.src == some .window && dev c.dst else dev c.src && c.dst == some .window

def isBx (t : Ty) : Bool := tyBx t
/-- R218: the types of CPQ. -/
def qType (t : Ty) : Bool := tyFloat5 t || tyMx t || tyBx t

/-- Bytes of a row of `n` elements; a row of blocks holds whole ones (R218). -/
def sideBytes (t : Ty) (n : Nat) : Nat := if tyBx t then n / bxElems t * 64 else n * (tyWidth t / 8)
def wholeBlocks (t : Ty) (n : Nat) : Bool := if tyBx t then n % bxElems t == 0 else if tyMx t then n % 32 == 0 else true

def slen (c : Copy) : Nat := if c.cmd == .q then sideBytes c.stype c.rowlen else c.rowlen
def dlen (c : Copy) : Nat := if c.cmd == .q then sideBytes c.dtype c.rowlen else c.rowlen

/-- R215: where row `i` starts. -/
def srcRow (c : Copy) (i : Nat) : Int :=
  if c.cmd == .gx then c.srcA + (c.idx.getD i 0 : Int) * c.sstride else c.srcA + (i : Int) * c.sstride
def dstRow (c : Copy) (i : Nat) : Int :=
  if c.cmd == .sx then c.dstA + (c.idx.getD i 0 : Int) * c.dstride else c.dstA + (i : Int) * c.dstride

/-- Entries of the descriptor array: one for each sector or block of a side in the window or array (R216-R218). -/
def srcEntries (c : Copy) : Nat := c.rows * (c.slen / 64)
def dstEntries (c : Copy) : Nat := c.rows * (c.dlen / 64)
/-- CPQ: the first destination entry stands after the source entries when both sides are BX in the window. -/
def dstFirst (c : Copy) : Nat := if c.cmd == .q && tyBx c.stype && c.src == some .window then c.srcEntries else 0
def entries (c : Copy) : Nat :=
  match c.cmd with
  | .g => c.srcEntries
  | .s => c.dstEntries
  | .q => c.dstFirst + (if tyBx c.dtype && c.dst == some .window then c.dstEntries else 0)
  | _ => 0

/-- R212: reserved fields are zero. AUXA of a CPQ without an MXFP8 side names nothing, and is not looked at (DESIGN CHOICE,
log entry 42). -/
def reservedOk (c : Copy) : Bool :=
  bitsOf c.d 152 8 == 0 && bitsOf c.d 180 12 == 0 && bitsOf c.d 332 52 == 0 && bitsOf c.d 448 64 == 0 &&
    (c.cmd == .q || bitsOf c.d 320 12 == 0) &&
    (match c.cmd with
      | .q => !(tyMx c.stype || tyMx c.dtype) || c.aux < 2 ^ 57
      | .gx | .sx => c.aux < 2 ^ 57
      | .m => c.aux == 0 && (if c.wr then c.sstride == 0 else c.dstride == 0)
      | _ => c.aux == 0)

/-- R212, R214: the counts. -/
def countsOk (c : Copy) : Bool :=
  1 ≤ c.rowlen && 1 ≤ c.rows && c.rowlen * c.rows ≤ 2 ^ 30 && (!(c.cmd == .gx || c.cmd == .sx) || c.rows ≤ 4096)

/-- R215: a command with a side in the aperture (KIND 1) moves whole words: its addresses, ROWLEN and strides are multiples
of 4. CPF's SRC is no address. -/
def kindOne (c : Copy) : Bool :=
  let ap := fun (side : Option Side) (a : Nat) => side == some .onchip && bitsOf a 30 2 == 1
  !(ap c.src c.srcA || ap c.dst c.dstA) ||
    (c.rowlen % 4 == 0 && c.dstA % 4 == 0 && c.dstride % 4 == 0 && (c.cmd == .f || (c.srcA % 4 == 0 && c.sstride % 4 == 0)))

def al64 (a : Nat) (n : Nat) (st : Int) : Bool := a % 64 == 0 && n % 64 == 0 && st % 64 == 0

/-- R216: what DA = 1 asks of the device sides of a command. -/
def arrayOk (c : Copy) : Bool :=
  !c.da || ((c.src != some .device || al64 c.srcA c.rowlen c.sstride) && (c.dst != some .device || al64 c.dstA c.rowlen c.dstride))

/-- R217, R218: alignment, and the types of CPQ; a BX side of CPQ starts every row on a 64-byte boundary. -/
def formOk (c : Copy) : Bool :=
  match c.cmd with
  | .m => if c.wr then al64 c.dstA c.rowlen c.dstride else al64 c.srcA c.rowlen c.sstride
  | .q =>
    (tyOfCode (bitsOf c.d 320 6)).isSome && (tyOfCode (bitsOf c.d 326 6)).isSome &&
    qType c.stype && qType c.dtype && c.stype != c.dtype && !(tyMx c.stype && tyMx c.dtype) &&
      wholeBlocks c.stype c.rowlen && wholeBlocks c.dtype c.rowlen &&
      (!tyBx c.stype || (c.srcA % 64 == 0 && (c.rows == 1 || c.sstride % 64 == 0) && (c.src != some .window || c.da))) &&
      (!tyBx c.dtype || (c.dstA % 64 == 0 && (c.rows == 1 || c.dstride % 64 == 0) && (c.dst != some .window || c.da))) &&
      (!tyMx c.stype || c.src == some .device) && (!tyMx c.dtype || c.dst == some .device)
  | _ => true

/-- R214, check 2. -/
def valid (c : Copy) : Bool := c.reservedOk && c.countsOk && c.kindsOk && c.arrayOk && c.formOk && c.kindOne

/-- Rows of a side in the window, as first byte and length (check 3); CPM's array is contiguous (R217). -/
def windowRows (c : Copy) : List (Int × Nat) :=
  let n := c.rows
  let arr := 2 * (c.rows * (c.rowlen / 64))
  let srcs := if c.src == some .window then
      (if c.cmd == .m then [((c.srcA : Int), arr)] else [(c.srcRow 0, c.slen), (c.srcRow (n - 1), c.slen)]) else []
  let dsts := if c.dst == some .window then
      (if c.cmd == .m then [((c.dstA : Int), arr)] else [(c.dstRow 0, c.dlen), (c.dstRow (n - 1), c.dlen)]) else []
  let ind := if c.cmd == .gx || c.cmd == .sx then [((c.aux : Int), 4 * n)] else []
  let das := if c.da && c.entries != 0 then [((c.daw : Int), 2 * c.entries)] else []
  srcs ++ dsts ++ das ++ ind

/-- Device ranges with the right each needs (check 4). -/
def deviceRows (c : Copy) : List (Nat × Nat × Acc) :=
  let row := fun (a : Int) (n : Nat) (acc : Acc) => (wrapN a 57, n, acc)
  let scale := c.rows * (c.rowlen / 32)
  (if c.src == some .device then (List.range c.rows).map fun i => row (c.srcRow i) c.slen .read else []) ++
    (if c.cmd == .q && tyMx c.stype then [row c.aux scale .read] else []) ++
    (if c.dst == some .device then (List.range c.rows).map fun i => row (c.dstRow i) c.dlen .write else []) ++
    (if c.cmd == .q && tyMx c.dtype then [row c.aux scale .write] else [])
end Copy

/-! ### Checks and acceptance (R214, R210) -/

/-- Bytes of the issuing team's window, read at issue: its number, or the cause when a word is in error (R187). -/
def State.windowBytes (s : State) (a n : Nat) : State × Except Nat Nat :=
  let w := s.window s.ownIndex
  let p := Place.scr s.iss.core (w.2.1 + a)
  if s.placeLost p n then (s, .error 0x74) else (s.repairPlace p n, .ok (s.placeLoad p n))

/-- Whether a window range leaves the window (R185). -/
def State.outOfWindow (s : State) (a : Int) (n : Nat) : Bool :=
  decide (a < 0) || decide (((s.window s.ownIndex).2.2 : Int) < a + n)

/-- R214 check 4 over ranges: the cause and address of the first page that fails. -/
def State.checkRanges (s : State) (rs : List (Nat × Nat × Acc)) : State × Option (Nat × Nat) :=
  match rs with
  | [] => (s, none)
  | (a, n, acc) :: r =>
    match s.accessRange s.iss.core (s.teamOf s.iss.team).ctx a n acc with
    | (s, none) => s.checkRanges r
    | x => x

/-- R214 check 5: a BX side in device memory lies on tagged pages, an MXFP8 side and its scales on untagged ones. -/
def State.tagsOk (s : State) (c : Copy) : Bool :=
  let page := fun (a : Nat) => match s.lookup s.iss.core (s.teamOf s.iss.team).ctx a with
    | .ok x => some x.tagged
    | .error _ => none
  let all := fun (rs : List (Nat × Nat × Acc)) (want : Bool) => rs.all fun r =>
    (List.range ((r.1 + r.2.1 - 1) / 4096 - r.1 / 4096 + 1)).all fun p =>
      page ((r.1 / 4096 + p) % 2 ^ 45 * 4096) == some want
  let row := fun (a : Int) (n : Nat) => (wrapN a 57, n, Acc.read)
  let srcs := (List.range c.rows).map fun i => row (c.srcRow i) c.slen
  let dsts := (List.range c.rows).map fun i => row (c.dstRow i) c.dlen
  let sc := [row c.aux (c.rows * (c.rowlen / 32))]
  c.cmd != .q ||
    ((c.src != some .device || !tyBx c.stype || all srcs true) && (c.dst != some .device || !tyBx c.dtype || all dsts true) &&
      (!tyMx c.stype || (all srcs false && all sc false)) && (!tyMx c.dtype || (all dsts false && all sc false)))

/-- The words that `n` entries of two bytes take from a window address on, by address / 4. -/
def entryWords (a n : Nat) : List Nat := if n == 0 then [] else (List.range ((a + 2 * n - 1) / 4 - a / 4 + 1)).map fun w => a / 4 + w

/-- The units of a copy: destination units, scale sectors, words of an array. -/
def Copy.units (c : Copy) : List Nat :=
  let sectors := c.rows * (c.rowlen / 64)
  if c.cmd == .m then (if c.wr then List.range sectors else entryWords c.dstA sectors)
  else
    let ds := distinct ((List.range c.rows).flatMap fun i =>
      let a := wrapN (c.dstRow i) 57
      (List.range ((a + c.dlen - 1) / 64 - a / 64 + 1)).map fun j => (a / 64 + j) % 2 ^ 51)
    let sc := if c.cmd == .q && tyMx c.dtype then
        (List.range ((c.aux + c.rows * (c.rowlen / 32) - 1) / 64 - c.aux / 64 + 1)).map fun j => 2 ^ 60 + c.aux / 64 + j
      else []
    let en := if c.cmd == .g && c.da then entryWords c.daw c.srcEntries
      else if c.cmd == .q && tyBx c.dtype && c.dst == some .window then entryWords (c.daw + 2 * c.dstFirst) c.dstEntries
      else []
    ds ++ sc ++ en.map (2 ^ 61 + ·)

def isCopy (i : Instr) : Bool := (copyCmd i).isSome || (match i with | .cpa _ _ => true | _ => false)

/-- R210: 64 operations of a core. -/
def State.copiesFull (s : State) : Bool := decide (64 ≤ s.inFlight fun o => isCopy o.instr && o.core == s.iss.core)

/-- Table 7.6. -/
def CopyCmd.cls (c : CopyCmd) : Nat :=
  match c with
  | .g | .gx => 0
  | .s | .sx => 1
  | _ => 2

/-- A cause of a descriptor's own check; the operand is the descriptor (Table 11.1). -/
def State.raiseDesc (s : State) (c ea : Nat) : State :=
  let tr := 0x20 ≤ c && c < 0x30
  s.raise c (if tr then 4 else 0) (if tr then ea else 0)

/-- The index words of CPGX and CPSX, read at issue (R214 check 4). -/
def State.indexWords (s : State) (c : Copy) : State × Except Nat (List Nat) :=
  if c.cmd == .gx || c.cmd == .sx then
    match s.windowBytes c.aux (4 * c.rows) with
    | (s, .ok v) => (s, .ok ((List.range c.rows).map fun i => bitsOf v (32 * i) 32))
    | (s, .error e) => (s, .error e)
  else (s, .ok [])

/-- R214: the checks from check 2 on a copy, then acceptance. -/
def State.startCopy (s : State) (i : Instr) (tok u : Nat) (c : Copy) : State :=
  if !c.valid then s.raise 0x60
  else
    match c.windowRows.find? fun r => s.outOfWindow r.1 r.2 with
    | some r => s.raiseDesc 0x26 (wrapN r.1 57)
    | none =>
      match s.indexWords c with
      | (s, .error e) => s.raise e
      | (s, .ok idx) =>
        let c := { c with idx := idx }
        match s.checkRanges c.deviceRows with
        | (s, some (e, va)) => s.raiseDesc e va
        | (s, none) =>
          if !s.tagsOk c then s.raise 0x60
          else
            s.accept { s.newOp u i c.cmd.cls tok with args := [c.x, c.d] ++ idx, rest := c.units, svc := c.svc }

/-- One execution of a copy command (R210, R214). Bits [63:32] of the scalar are not part of the window address (log entry
42). -/
def State.copyOne (s : State) (i : Instr) (cmd : CopyCmd) (f : Fields) (u : Nat) : State :=
  if s.iss.out != .done then s
  else
    match s.iss.at? u with
    | none => s
    | some (g, _) =>
      if s.engineBusy g cmd.cls s.copiesFull then s.stall
      else
        let a := s.sreg u (f.a.toNat % 64) % 2 ^ 32
        if a % 64 != 0 then s.raiseDesc 0x24 a
        else if s.outOfWindow a 64 then s.raiseDesc 0x26 a
        else
          match s.windowBytes a 64 with
          | (s, .error e) => s.raise e
          | (s, .ok d) => s.startCopy i (f.d.toNat % 64) u { cmd := cmd, x := f.x.toNat, d := d }

def copyExec (g : Guard) (f : Fields) (i : Instr) (cmd : CopyCmd) (s : State) : Res :=
  issued s fun _ => List.foldl (fun t u => t.copyOne i cmd f u) s (s.onceUnits g)

/-- CPG (R215). -/
def execCpg (g : Guard) (f : Fields) (s : State) : Res := copyExec g f (.cpg g f) .g s
/-- CPS (R215). -/
def execCps (g : Guard) (f : Fields) (s : State) : Res := copyExec g f (.cps g f) .s s
/-- CPT (R215). -/
def execCpt (g : Guard) (f : Fields) (s : State) : Res := copyExec g f (.cpt g f) .t s
/-- CPR (R215). -/
def execCpr (g : Guard) (f : Fields) (s : State) : Res := copyExec g f (.cpr g f) .r s
/-- CPQ (R218). -/
def execCpq (g : Guard) (f : Fields) (s : State) : Res := copyExec g f (.cpq g f) .q s
/-- CPF (R215). -/
def execCpf (g : Guard) (f : Fields) (s : State) : Res := copyExec g f (.cpf g f) .f s
/-- CPGX (R215). -/
def execCpgx (g : Guard) (f : Fields) (s : State) : Res := copyExec g f (.cpgx g f) .gx s
/-- CPSX (R215). -/
def execCpsx (g : Guard) (f : Fields) (s : State) : Res := copyExec g f (.cpsx g f) .sx s
/-- CPM (R217). -/
def execCpm (g : Guard) (f : Fields) (s : State) : Res := copyExec g f (.cpm g f) .m s

/-! ### Source bytes (R215, R222, R223) -/

/-- A datum of an operation: its value; lost with a status; or left unconverted (R218). -/
inductive Got (α : Type) where
  | ok (x : α)
  | lost (status : Nat)
  | skip
  deriving Repr, Inhabited

/-- Every datum, or the worst of what is missing: a lost one before an unconverted one. -/
def gotAll {α : Type} (xs : List (Got α)) : Got (List α) :=
  match xs with
  | [] => .ok []
  | x :: r =>
    match x, gotAll r with
    | .ok v, .ok vs => .ok (v :: vs)
    | .lost a, .lost b => .lost (max a b)
    | .lost a, _ => .lost a
    | _, .lost b => .lost b
    | _, _ => .skip

/-- The copy an operation holds. -/
def Op.copy (o : Op) : Copy :=
  { cmd := (copyCmd o.instr).getD .g, x := o.args.getD 0 0, d := o.args.getD 1 0, idx := o.args.drop 2 }

/-- A sector as the buffer keeps it, and as it is read from there. -/
def Sector.pack (x : Sector) : Nat := packFields [(x.val, 512), (x.desc, 16), (x.status, 8)]
def unpackSector (v : Nat) : Sector := { val := bitsOf v 0 512, desc := bitsOf v 512 16, status := bitsOf v 528 8 }

def Op.sector (o : Op) (k : Nat) : Sector := unpackSector (Tab.getD o.buf k 0)

/-- The window of the operation's team on its core: physical base. -/
def State.opBase (s : State) (o : Op) : Nat :=
  let t := s.teamOf o.team
  t.sbase.getD (t.cores.idxOf o.core) 0

/-- Physical scratchpad byte of a window address, for an operation. -/
def State.opScr (s : State) (o : Op) (a : Nat) : Place := .scr o.core (s.opBase o + a)

/-- The die of an on-chip address (R181). -/
def onchipDie (va : Nat) : Nat := bitsOf va 39 2

/-- A place of core SRAM for an operation: a window address, or an on-chip one (R182), or the status that refuses it: 0x09
where no path leads to the core's die (19 R450), else 0x0A. -/
def State.opPlace (s : State) (o : Op) (side : Side) (a : Int) (n : Nat) : Except Nat Place :=
  match side with
  | .window => .ok (.scr o.core (s.opBase o + a.toNat))
  | .onchip =>
    if (s.route (coreDie o.core) (onchipDie (wrapN a 57))).isNone then .error 0x09
    else
      match s.onchipPlace o.ctx none (wrapN a 57) n with
      | .ok p => .ok p
      | .error _ => .error 0x0A
  | _ => .error 0x0A

/-- The buffer's key of a source word in core SRAM: its number in the window, or its on-chip address / 4. Those of device
sectors, by address / 64, lie below. -/
def wordKey (side : Side) (a : Int) : Nat := if side == .window then 2 ^ 56 + a.toNat / 4 else 2 ^ 55 + wrapN a 57 / 4

/-- A source word as it is read: its value, and the status that refuses it (R182, R187). -/
def State.fetchWord (s : State) (o : Op) (key : Nat) : State × Sector :=
  match (if 2 ^ 56 ≤ key then s.opPlace o .window (4 * (key - 2 ^ 56) : Nat) 4 else s.opPlace o .onchip (4 * (key - 2 ^ 55) : Nat) 4) with
  | .error st => (s, { status := st })
  | .ok p =>
    if s.placeLost p 4 then (s, { status := 0x08 })
    else (s.repairPlace p 4, { val := s.placeLoad p 4 })

/-- The source sectors and words among `ks` that are not yet read are read, each once (R222), while none waits. -/
def State.fetchSectors (s : State) (id : Nat) (ks : List Nat) : State :=
  List.foldl (fun s k =>
    match s.op id with
    | some o =>
      if (Tab.get? o.buf k).isSome then s
      else
        match (if 2 ^ 55 ≤ k then (let r := s.fetchWord o k; (r.1, some r.2)) else s.opRead id o (64 * k)) with
        | (s, some r) => s.modOp id fun o => { o with buf := Tab.set o.buf k r.pack, moved := true }
        | (s, none) => s
    | none => s) s ks

/-- Everything an operation is to read has been read. -/
def Op.hasAll (o : Op) (ks : List Nat) : Bool := ks.all fun k => (Tab.get? o.buf k).isSome

/-- A byte of the source side at an address. -/
def Op.copyByte (o : Op) (c : Copy) (a : Int) : Got Nat :=
  match c.src with
  | some .device =>
    let v := wrapN a 57
    let r := o.sector (v / 64)
    if r.status != 0 then .lost r.status else .ok (bitsOf r.val (8 * (v % 64)) 8)
  | some side =>
    let r := o.sector (wordKey side a)
    if r.status != 0 then .lost r.status else .ok (bitsOf r.val (8 * (wrapN a 57 % 4)) 8)
  | none => .lost 0x0A

/-- A 16-bit entry of the descriptor array in the window (R216). -/
def Op.arrayEntry (o : Op) (c : Copy) (q : Nat) : Got Nat :=
  let a := c.daw + 2 * q
  let r := o.sector (wordKey .window a)
  if r.status != 0 then .lost r.status else .ok (bitsOf r.val (8 * (a % 4)) 16)

/-- Table 4.5: the valid formats of a descriptor. -/
def fmtValid (d : Nat) : Bool :=
  let c := d % 256
  c ≤ 0x0D || (0x12 ≤ c && c ≤ 0x18) || (0x20 ≤ c && c ≤ 0x23)

/-- The bytes of a list of bytes as a number. -/
def gotNum (xs : List (Got Nat)) : Got Nat :=
  match gotAll xs with
  | .ok bs => .ok (ofLeBytes (bs.map fun b => BitVec.ofNat 8 b))
  | .lost st => .lost st
  | .skip => .skip

/-- The sectors or words of the source that bytes `[lo, lo + n)` of row `i` need. -/
def Copy.partsOf (c : Copy) (i lo n : Nat) : List Nat :=
  let at_ := c.srcRow i + (lo : Nat)
  match c.src with
  | some .device =>
    let a := wrapN at_ 57
    (List.range ((a + n - 1) / 64 - a / 64 + 1)).map fun k => (a / 64 + k) % 2 ^ 51
  | some .pattern => []
  | some side => distinct ((List.range n).map fun j => wordKey side (at_ + (j : Nat)))
  | none => []

/-! ### Elements of CPQ (R218) -/

/-- Element `e` of row `i` of the source, decoded exactly (R91, R97, R100). One that has bytes in a sector whose FMT is neither
the STYPE nor 0x00 is not converted (R103, R218). -/
def Op.copyElem (o : Op) (c : Copy) (i e : Nat) : Got Num :=
  let t := c.stype
  let at_ := c.srcRow i
  if tyBx t then
    let b := e / bxElems t
    let pay := gotNum ((List.range 64).map fun j => o.copyByte c (at_ + (64 * b + j : Nat)))
    let desc := match c.src with
      | some .window => o.arrayEntry c (i * (c.slen / 64) + b)
      | _ => .ok (o.sector (wrapN (at_ + (64 * b : Nat)) 57 / 64)).desc
    match pay, desc with
    | .ok p, .ok d =>
      if d % 256 != 0 && d % 256 != tyCode t then .skip
      else .ok (bxElem t p (if d % 256 == 0 then 0 else d / 256 % 256) (e % bxElems t))
    | .lost a, .lost b => .lost (max a b)
    | .lost a, _ => .lost a
    | _, .lost b => .lost b
    | _, _ => .skip
  else if tyMx t then
    let sa := c.aux + i * (c.rowlen / 32) + e / 32
    let r := o.sector (sa / 64)
    match o.copyByte c (at_ + e) with
    | .ok v => if r.status != 0 then .lost r.status else .ok (mxVal t (bitsOf r.val (8 * (sa % 64)) 8) v)
    | .lost a => .lost a
    | .skip => .skip
  else
    let z := tyWidth t / 8
    let fmts := (c.partsOf i (z * e) z).map fun k => if c.src == some .device then (o.sector k).desc % 256 else 0
    match gotNum ((List.range z).map fun j => o.copyByte c (at_ + (z * e + j : Nat))) with
    | .ok v => if fmts.any fun fmt => fmt != 0 && fmt != tyCode t then .skip else .ok (floatVal t v)
    | .lost a => .lost a
    | .skip => .skip

def Op.copyElems (o : Op) (c : Copy) (i e n : Nat) : Got (List Num) :=
  gotAll ((List.range n).map fun j => o.copyElem c i (e + j))

/-- The source is FP8 or MXFP8: IMX is set in place of NX in a block (R98). -/
def Copy.imx (c : Copy) : Bool := c.stype == .e4m3 || c.stype == .e5m2 || tyMx c.stype

/-- Destination block `b` of row `i`: payload, descriptor or scale, and flags. -/
def Op.copyBlock (o : Op) (c : Copy) (i b : Nat) : Got (Nat × Nat × Flags) :=
  let t := c.dtype
  if tyBx t then
    match o.copyElems c i (b * bxElems t) (bxElems t) with
    | .ok xs => .ok (bxBlock t c.imx xs)
    | .lost a => .lost a
    | .skip => .skip
  else
    match o.copyElems c i (b * 32) 32 with
    | .ok xs =>
      let r := mxEncode t xs
      .ok (ofLeBytes (r.2.1.map fun v => BitVec.ofNat 8 v), r.1, r.2.2)
    | .lost a => .lost a
    | .skip => .skip

/-- Byte `j` of destination row `i`, with the flags of the conversion it belongs to. -/
def Op.rowByte (o : Op) (c : Copy) (i j : Nat) : Got (Nat × Flags) :=
  match c.cmd with
  | .f => .ok (bitsOf c.srcA (8 * (j % 8)) 8, 0)
  | .q =>
    let t := c.dtype
    if tyBx t || tyMx t then
      let n := if tyBx t then 64 else 32
      match o.copyBlock c i (j / n) with
      | .ok (p, _, fl) => .ok (bitsOf p (8 * (j % n)) 8, fl)
      | .lost a => .lost a
      | .skip => .skip
    else
      let z := tyWidth t / 8
      match o.copyElem c i (j / z) with
      | .ok x =>
        let r := roundFloat t x
        .ok (bitsOf r.1 (8 * (j % z)) 8, r.2)
      | .lost a => .lost a
      | .skip => .skip
  | _ =>
    match o.copyByte c (c.srcRow i + j) with
    | .ok b => .ok (b, 0)
    | .lost a => .lost a
    | .skip => .skip

/-! ### Destination units (R215, R216, R221) -/

/-- R215: the row and byte that a destination byte ends with: the highest row, and within it the highest byte. -/
def Copy.writer (c : Copy) (a : Nat) : Option (Nat × Nat) :=
  (List.range c.rows).reverse.findSome? fun i =>
    let j := wrapN ((a : Int) - c.dstRow i) 57
    if j < c.dlen then some (i, j) else none

/-- The word of entry `q` of the descriptor array. -/
def Copy.entryKey (c : Copy) (q : Nat) : Nat := wordKey .window (c.daw + 2 * q : Nat)

/-- What byte `j` of destination row `i` needs of the source, the scales of an MXFP8 source and the array entries of a BX
one among it, and the entry of its own sector. -/
def Copy.needs (c : Copy) (i j : Nat) : List Nat :=
  match c.cmd with
  | .f => []
  | .q =>
    let t := c.dtype
    let (e, n) := if tyBx t then (j / 64 * bxElems t, bxElems t) else if tyMx t then (j / 32 * 32, 32)
      else (j / (tyWidth t / 8), 1)
    let u := c.stype
    let first := e / bxElems u
    let last := (e + n - 1) / bxElems u
    let (lo, len) := if tyBx u then (first * 64, (last - first + 1) * 64) else (e * (tyWidth u / 8), n * (tyWidth u / 8))
    let sc := if tyMx u then
        let a := c.aux + i * (c.rowlen / 32) + e / 32
        (List.range ((a + (n - 1) / 32) / 64 - a / 64 + 1)).map fun k => a / 64 + k
      else if tyBx u && c.src == some .window then
        (List.range (last - first + 1)).map fun b => c.entryKey (i * (c.slen / 64) + first + b)
      else []
    c.partsOf i lo len ++ sc
  | .s => c.partsOf i j 1 ++ (if c.da then [c.entryKey (i * (c.dlen / 64) + j / 64)] else [])
  | _ => c.partsOf i j 1

/-- The bytes of a destination unit: mask, value, flags, and what is missing. -/
structure UnitBytes where
  mask : Nat := 0
  val : Nat := 0
  flags : Flags := 0
  lost : Option Nat := none
  skipped : Bool := false
  deriving Repr, Inhabited

def Op.unitBytes (o : Op) (c : Copy) (k : Nat) : UnitBytes :=
  List.foldl (fun (b : UnitBytes) j =>
    match c.writer (64 * k + j) with
    | none => b
    | some (r, n) =>
      match o.rowByte c r n with
      | .ok (v, fl) => { b with mask := b.mask + 2 ^ j, val := b.val + v * 2 ^ (8 * j), flags := b.flags ||| fl }
      | .lost st => { b with lost := some (max st (b.lost.getD 0)) }
      | .skip => { b with skipped := true }) {} (List.range 64)

/-- R216, R218: the descriptor a destination sector takes; lost when its array entry is invalid or in error. A sector that a
CPQ of a plain DTYPE writes holds raw data, and takes 0x0000 (R104, log entry 42). -/
def Op.unitDesc (o : Op) (c : Copy) (k : Nat) : Got Nat :=
  match c.writer (64 * k) with
  | none => .ok 0
  | some (i, j) =>
    match c.cmd with
    | .s =>
      if c.da then
        match o.arrayEntry c (i * (c.dlen / 64) + j / 64) with
        | .ok d => if fmtValid d then .ok d else .lost 0x02
        | x => x
      else .ok 0
    | .r =>
      let a := c.srcRow i + j
      if a % 64 == 0 && j + 64 ≤ c.dlen && (c.writer (64 * k + 63)).any (fun w => w.1 == i) then
        .ok (o.sector (wrapN a 57 / 64)).desc
      else .ok 0
    | .q =>
      if tyBx c.dtype then
        match o.copyBlock c i (j / 64) with
        | .ok (_, d, _) => .ok d
        | .lost a => .lost a
        | .skip => .skip
      else .ok 0
    | _ => .ok 0

/-- The stores of a masked local destination unit: a word that is written whole in one (R183, R187), others by bytes. -/
def localRuns (mask : Nat) : List (Nat × Nat) :=
  (List.range 16).flatMap fun w =>
    if bitsOf mask (4 * w) 4 == 15 then [(4 * w, 4)]
    else ((List.range 4).filter fun j => bitOf mask (4 * w + j)).map fun j => (4 * w + j, 1)

/-- Writes the masked bytes of a local destination unit; none is written when one is not permitted. -/
def State.writeLocal (s : State) (o : Op) (side : Side) (k : Nat) (b : UnitBytes) : Except Nat State :=
  (localRuns b.mask).foldl (fun (a : Except Nat State) r =>
    match a, s.opPlace o side ((64 * k + r.1 : Nat) : Int) r.2 with
    | .ok t, .ok q => .ok (t.placeStore q (bitsOf b.val (8 * r.1) (8 * r.2)) r.2)
    | .ok _, .error st => .error st
    | .error st, _ => .error st) (.ok s)

/-- One destination unit is built and written (R215, R221). -/
def State.copyUnit (s : State) (id k : Nat) : State :=
  match s.op id with
  | none => s
  | some o =>
    let c := o.copy
    let ws := (List.range 64).filterMap fun j => c.writer (64 * k + j)
    let ks := distinct (ws.flatMap fun w => c.needs w.1 w.2)
    let s := s.fetchSectors id ks
    match s.op id with
    | none => s
    | some o =>
      if !o.hasAll ks then s
      else
      let b := o.unitBytes c k
      let n := popCount b.mask 64
      let note := fun (o : Op) =>
        let o := if b.skipped then o.lose 0x02 k else o
        { o with flags := o.flags ||| b.flags }
      match b.lost, o.unitDesc c k with
      | some st, _ => s.modOp id fun o => ((if b.skipped then o.fail 0x02 else o).lose st k).took k
      | none, .lost st => s.modOp id fun o => (o.lose st k).took k
      | none, d =>
        if b.mask == 0 then s.modOp id fun o => (note o).took k
        else
          match c.dst with
          | some .device =>
            let desc := match d with | .ok d => d | _ => 0
            (s.modOp id note).opWrite id o (64 * k) b.val b.mask desc k n
          | some side =>
            match s.writeLocal o side k b with
            | .ok s => s.modOp id fun o => { (note o).took k with info := o.info + n }
            | .error st => s.modOp id fun o => (o.lose st k).took k
          | none => s

/-- The scale sector of an MXFP8 destination. -/
def State.copyScale (s : State) (id k : Nat) : State :=
  match s.op id with
  | none => s
  | some o =>
    let c := o.copy
    let sec := k - 2 ^ 60
    let per := c.rowlen / 32
    let runs := (List.range 64).filterMap fun j =>
      let a := 64 * sec + j
      if c.aux ≤ a && a - c.aux < c.rows * per then some (j, (a - c.aux) / per, (a - c.aux) % per) else none
    let ks := distinct (runs.flatMap fun r => c.needs r.2.1 (32 * r.2.2))
    let s := s.fetchSectors id ks
    match s.op id with
    | none => s
    | some o =>
      if !o.hasAll ks then s
      else
      let b := List.foldl (fun (b : UnitBytes) r =>
        match o.copyBlock c r.2.1 r.2.2 with
        | .ok (_, x, fl) => { b with mask := b.mask + 2 ^ r.1, val := b.val + x * 2 ^ (8 * r.1), flags := b.flags ||| fl }
        | .lost st => { b with lost := some (max st (b.lost.getD 0)) }
        | .skip => { b with skipped := true }) {} runs
      let note := fun (o : Op) =>
        let o := if b.skipped then o.lose 0x02 sec else o
        match b.lost with
        | some st => o.lose st sec
        | none => o
      if b.mask == 0 then s.modOp id fun o => (note o).took k
      else (s.modOp id note).opWrite id o (64 * sec) b.val b.mask 0 k 0

/-- The entries of an array of `n` from a window address that lie in a word, or some of whose bytes do. -/
def entriesIn (a n w : Nat) : List Nat := (List.range n).filter fun q => decide (a + 2 * q < 4 * w + 4) && decide (4 * w < a + 2 * q + 2)

/-- The sector of device memory whose descriptor entry `q` of a CPG's or CPM's array holds (R216, R217). -/
def Copy.sectorOf (c : Copy) (q : Nat) : Nat :=
  let per := c.slen / 64
  wrapN ((if c.cmd == .m && c.wr then c.dstRow (q / per) else c.srcRow (q / per)) + (64 * (q % per) : Nat)) 57 / 64

/-- What entry `q` of an array that the engine writes needs, and its value: the descriptor of a source sector (R216, R217),
or of a destination block (R218). -/
def Copy.entryNeeds (c : Copy) (q : Nat) : List Nat :=
  if c.cmd == .q then c.needs (q / (c.dlen / 64)) (64 * (q % (c.dlen / 64))) else [c.sectorOf q]

def Op.entryVal (o : Op) (c : Copy) (q : Nat) : Got Nat :=
  if c.cmd == .q then
    match o.copyBlock c (q / (c.dlen / 64)) (q % (c.dlen / 64)) with
    | .ok (_, d, _) => .ok d
    | .lost st => .lost st
    | .skip => .lost 0x02
  else
    let r := o.sector (c.sectorOf q)
    if r.status != 0 then .lost r.status else .ok r.desc

/-- A word of an array of `n` entries from a window address is written, in one (R222): its entries that are not lost. -/
def State.copyEntries (s : State) (id k w a n : Nat) : State :=
  match s.op id with
  | none => s
  | some o =>
    let c := o.copy
    let qs := entriesIn a n w
    let ks := distinct (qs.flatMap c.entryNeeds)
    let s := s.fetchSectors id ks
    match s.op id with
    | none => s
    | some o =>
      if !o.hasAll ks then s
      else
        let b := (List.range 4).foldl (fun (b : UnitBytes) j =>
          let q := (4 * w + j - a) / 2
          match (if qs.contains q && decide (a ≤ 4 * w + j) then o.entryVal c q else .skip) with
          | .ok d => { b with mask := b.mask + 2 ^ j, val := b.val + bitsOf d (8 * ((4 * w + j - a) % 2)) 8 * 2 ^ (8 * j) }
          | _ => b) {}
        let s := (localRuns b.mask).foldl (fun (s : State) r =>
          s.storeScr o.core (s.opBase o + 4 * w + r.1) (bitsOf b.val (8 * r.1) (8 * r.2)) r.2) s
        let first := qs.filter fun q => decide (4 * w ≤ a + 2 * q)
        let note := fun (o : Op) (q : Nat) =>
          match o.entryVal c q with
          | .ok _ => if c.cmd == .m then { o with info := o.info + 1 } else o
          | .lost st => if c.cmd == .m then o.lose st (c.sectorOf q) else o.fail st
          | .skip => o
        s.modOp id fun o => (first.foldl note o).took k

/-! ### CPM (R217) -/

/-- Entry `q` of the array that CPM.WR reads, and the words it lies in. -/
def Copy.descKeys (c : Copy) (q : Nat) : List Nat := distinct [wordKey .window (c.srcA + 2 * q : Nat), wordKey .window (c.srcA + 2 * q + 1 : Nat)]

def Op.descEntry (o : Op) (c : Copy) (q : Nat) : Got Nat :=
  gotNum ((List.range 2).map fun j =>
    let r := o.sector (wordKey .window (c.srcA + 2 * q + j : Nat))
    if r.status != 0 then .lost r.status else .ok (bitsOf r.val (8 * ((c.srcA + 2 * q + j) % 4)) 8))

/-- One sector's descriptor moves: out of the array, or with the others of a word into it. -/
def State.copyDesc (s : State) (id k : Nat) : State :=
  match s.op id with
  | none => s
  | some o =>
    let c := o.copy
    if !c.wr then s.copyEntries id k k c.dstA (c.rows * (c.rowlen / 64))
    else
      let va := 64 * c.sectorOf k
      let s := s.fetchSectors id (c.descKeys k)
      match s.op id with
      | none => s
      | some o =>
        match o.descEntry c k with
        | .lost st => s.modOp id fun o => (o.lose st (va / 64)).took k
        | .skip => s
        | .ok d =>
        match s.opAddr o va .write with
        | (s, .error st) => s.modOp id fun o => (o.lose st (va / 64)).took k
        | (s, .ok x) =>
          if !x.tagged || !fmtValid d then s.modOp id fun o => (o.lose 0x02 (va / 64)).took k
          else
          match s.goesNow id o x with
          | (s, false) => s
          | (s, true) =>
            let st := s.sectorStatus x.pa
            if !s.reaches (coreDie o.core) x.pa then s.modOp id fun o => (o.lose 0x09 (va / 64)).took k
            else if st != 0 then s.modOp id fun o => (o.lose st (va / 64)).took k
            else
              let s := s.noteCorrected x.pa false
              match s.writeSector o.core o.ctx { x with pa := x.pa / 64 * 64 } (s.paLoad (x.pa / 64 * 64) 64) 64 d with
              | (s, .done g) =>
                ((s.serveAs o x).modOp id fun o => { o.took k with gwct := max o.gwct g, info := o.info + 1 }).endWait (.op id)
              | (s, .refused st) => s.modOp id fun o => (o.lose st (va / 64)).took k
              | (s, .waits d) => s.noteWait (.op id) d

/-! ### CPA (R219) -/

/-- CPA's operation and type (R219). -/
def cpaOp (f : Fields) : Nat := f.xf 2 4
def cpaTy (f : Fields) : Ty := (tyOfCode (f.xf 6 6)).getD .none

/-- One execution of CPA: the checks of R214 and R219, then acceptance. The descriptor's window address is kept for
OLD. -/
def State.cpaOne (s : State) (i : Instr) (f : Fields) (u : Nat) : State :=
  if s.iss.out != .done then s
  else
    match s.iss.at? u with
    | none => s
    | some (g, _) =>
      if s.engineBusy g 2 s.copiesFull then s.stall
      else
        let a := s.sreg u (f.a.toNat % 64) % 2 ^ 32
        let w := tyWidth (cpaTy f)
        if a % 32 != 0 then s.raiseDesc 0x24 a
        else if s.outOfWindow a 32 then s.raiseDesc 0x26 a
        else
          match s.windowBytes a 32 with
          | (s, .error e) => s.raise e
          | (s, .ok d) =>
            let t := bitsOf d 0 64
            if 2 ^ 57 ≤ t || t % (w / 8) != 0 || (onchip t && w == 64) then s.raise 0x60
            else
              let (s, r) := if onchip t then (s, none) else s.checkRanges [(t, w / 8, .atomic)]
              match r with
              | some (e, va) => s.raiseDesc e va
              | none =>
                s.accept { s.newOp u i 2 (f.d.toNat % 64) with args := [f.x.toNat, d, a], rest := [0], svc := f.xf 0 2 }

/-- CPA (R219). -/
def execCpa (g : Guard) (f : Fields) (s : State) : Res :=
  issued s fun _ => List.foldl (fun t u => t.cpaOne (.cpa g f) f u) s (s.onceUnits g)

/-- CPA's operation, type, bytes and target. -/
def Op.cpaKind (o : Op) : Nat × Ty × Nat × Nat :=
  let x := o.args.getD 0 0
  let t := (tyOfCode (bitsOf x 6 6)).getD .none
  (bitsOf x 2 4, t, tyWidth t / 8, bitsOf (o.args.getD 1 0) 0 64)

/-- The new value at CPA's target. -/
def Op.cpaNew (o : Op) (old : Nat) : Nat × Flags :=
  let (op, t, z, _) := o.cpaKind
  let d := o.args.getD 1 0
  atomicNew op t old (bitsOf d 64 (8 * z)) (bitsOf d 128 (8 * z))

/-- The response of CPA's target is taken: OLD is kept for the completion. -/
def Op.cpaTake (o : Op) (r : Reply) : Op :=
  let va := o.cpaKind.2.2.2
  if r.status != 0 then (o.lose r.status (va / 64)).took 0
  else
    { o.took 0 with
      info := r.val % 2 ^ 31, flags := o.flags ||| r.flags, gwct := max o.gwct r.gwct, buf := [(0, r.val)] }

/-- CPA on an on-chip target, at its core (R219). -/
def State.cpaOnchip (s : State) (o : Op) : State × Reply :=
  let (_, _, z, va) := o.cpaKind
  match s.opPlace o .onchip va z with
  | .error st => (s, { status := st })
  | .ok p =>
    if s.placeLost p z then (s, { status := 0x08 })
    else
      let old := s.placeLoad p z
      ((s.repairPlace p z).placeStore p (o.cpaNew old).1 z, { val := old, flags := (o.cpaNew old).2 })

/-- The read-modify-write at the target's home; none while it waits for sectors or in its home's queue. One that is refused
there has been served too (18 R415). -/
def State.cpaHome (s : State) (id : Nat) (o : Op) : State × Option Reply :=
  let (_, _, z, va) := o.cpaKind
  if onchip va then (let r := s.cpaOnchip o; (r.1, some r.2))
  else
  match s.opAddr o va .atomic with
  | (s, .error st) => (s, some { status := st })
  | (s, .ok xl) =>
    if s.outranked id o xl then (s.enqueue id o xl, none)
    else
    let (s, r) := if paRegion xl.pa == 1 then s.readSector o.core o.ctx xl else s.readHome (s.homeOf xl.pa) xl.pa
    if r.status != 0 then (s.serveAs o xl, some { status := r.status })
    else
      let old := bitsOf r.val (8 * (xl.pa % 64)) (8 * z)
      match s.writeAt (s.homeOf xl.pa) o.core o.ctx xl (o.cpaNew old).1 z 0 with
      | (s, .done g) => ((s.serveAs o xl).endWait (.op id), some { val := old, flags := (o.cpaNew old).2, gwct := g })
      | (s, .refused st) => (s.serveAs o xl, some { status := st })
      | (s, .waits d) => (s.noteWait (.op id) d, none)

/-- CPA is performed once (R219): at its own die at once; on another die by an exactly-once request (19 R455), in hash lane
0 when its target is on chip (log entry 36). -/
def State.cpaUnit (s : State) (id : Nat) : State :=
  match s.op id with
  | none => s
  | some o =>
    let va := o.cpaKind.2.2.2
    let fail := fun (s : State) (st : Nat) => s.modOp id fun o => o.cpaTake { status := st }
    let at_ := fun (s : State) (d lane cls : Nat) (dl : Option Nat) =>
      if (s.route (coreDie o.core) d).isNone then fail s 0x09
      else if d != coreDie o.core then
        (s.sendJob o.source (coreDie o.core) d lane (.unit id 0) cls dl).modOp id fun o => { o with moved := true }
      else
        match s.cpaHome id o with
        | (s, some r) => s.modOp id fun o => o.cpaTake r
        | (s, none) => s
    if s.hasJob (.unit id 0) then s
    else if onchip va then at_ s (onchipDie va) 0 o.svc none
    else
      match s.opAddr o va .atomic with
      | (s, .error st) => fail s st
      | (s, .ok xl) => at_ s (s.homeOf xl.pa) (laneOf (paLa xl.pa)) (o.classOf xl) (o.deadlines.getD (o.classOf xl) none)

/-! ### Units and completion (R221) -/

/-- One unit of a copy operation. -/
def State.copyPerform (s : State) (id k : Nat) : State :=
  match s.op id with
  | none => s
  | some o =>
    match o.instr with
    | .cpa _ _ => s.cpaUnit id
    | .cpm _ _ => s.copyDesc id k
    | _ =>
      let c := o.copy
      if k < 2 ^ 60 then s.copyUnit id k else if k < 2 ^ 61 then s.copyScale id k
      else s.copyEntries id k (k - 2 ^ 61) (c.daw + 2 * c.dstFirst) (if c.cmd == .q then c.dstEntries else c.srcEntries)

/-- R221: DETAIL, and INFO as elements for CPQ. -/
def Op.copyResult (o : Op) : Op :=
  let c := o.copy
  { o with
    detail := o.lost.length
    info := if c.cmd == .q && c.dlen != 0 then o.info * c.rowlen / c.dlen else o.info }

/-- COPY_OPERATION_COMPLETE (R221): what is left is moved, and the token is written once the GTC has passed every
global write completion time. -/
def execCopyOperationComplete (id : Nat) (s : State) : Res :=
  .next <|
    match s.op id with
    | none => s
    | some o =>
      if !isCopy o.instr || s.opOut o then s
      else
        let s := s.runUnits id State.copyPerform o.rest
        match s.op id with
        | none => s
        | some o =>
          if o.rest.isEmpty && s.settled o then
            (match o.instr with
              | .cpa _ _ =>
                (if o.buf.isEmpty then s
                  else s.storeScr o.core (s.opBase o + o.args.getD 2 0 + 24) (Tab.getD o.buf 0 0) 8).modOp id fun o =>
                    { o with detail := o.lost.length }
              | _ => s.modOp id Op.copyResult).finishOp id
          else s

end Sys2Proof.Machine
end

