-- ==== Sys2Proof/Machine/Grid.lean ====
section
/-! DEFINITION. Launch records, completion, and the end of groups, teams, grids and contexts (02 R43, 11 R288,
15 R357, R359, R368, R371). -/

namespace Sys2Proof.Machine

/-! ### The launch record (Tables 15.2, 15.3, 2.3, 14.3) -/

def Launch.f (l : Launch) (lo n : Nat) : Nat := bitsOf l.record lo n
def recRoles (r : Nat) : Nat := bitsOf r 0 3 + 1
def recStream (r : Nat) : Bool := bitOf r 3
def recCores (r : Nat) : Nat := bitsOf r 4 2 + 1
def recPods (r : Nat) : Nat := bitsOf r 6 5
def recGang (r : Nat) : Bool := bitOf r 11
def recDep (r : Nat) : Bool := bitOf r 12
def recX (r : Nat) : Nat := bitsOf r 32 31 + 1
def recY (r : Nat) : Nat := bitsOf r 64 31 + 1
def recZ (r : Nat) : Nat := bitsOf r 96 31 + 1
def recTeams (r : Nat) : Nat := recX r * recY r * recZ r
def recScr (r : Nat) : Nat := bitsOf r 128 10
def recStk (r : Nat) : Nat := bitsOf r 138 17
def recStash (r : Nat) : Nat := bitsOf r 160 9
def recDonea (r : Nat) : Nat := bitsOf r 256 57
def recFlaga (r : Nat) : Nat := bitsOf r 320 57
def recDiv (r : Nat) : Nat := bitsOf r 384 32
def recArg (r i : Nat) : Nat := bitsOf r (512 + 64 * i) 64
def recRole (r i : Nat) : Nat := bitsOf r (1024 + 128 * i) 128
def recPod (r i : Nat) : Nat := bitsOf r (2048 + 64 * i) 64

/-- R361: a node team has the grid 1 x 1 x 1 (R364). -/
def Launch.teams (l : Launch) : Nat := if l.node.isSome then 1 else recTeams l.record

/-! ### Completion (R358, R359, R371) -/

/-- How a store of a die's scheduler ends. -/
inductive Stored where
  | done
  | failed
  /-- It waits for sectors on a die (18 R419). -/
  | waits (die : Nat)
  deriving DecidableEq, Repr, Inhabited

/-- Stores up to a sector's bytes for a die's scheduler at a virtual address, under a class, with the deadlines of its
acceptance (R359, 18 R415). -/
def State.storeFor (s : State) (d ctx cls : Nat) (dls : List (Option Nat)) (va v n : Nat) : State × Stored :=
  match s.access (dieAgent d) ctx va .write with
  | (s, .error _) => (s, .failed)
  | (s, .ok x) =>
    let c := max cls (pteCls x.pte)
    match s.writeAt d (dieAgent d) ctx x v n 0 with
    | (s, .done _) => (s.countMiss (s.homeOf x.pa) (0x240 + d) c (dls.getD c none), .done)
    | (s, .waits h) => (s, .waits h)
    | (s, .refused _) => (s.countMiss (s.homeOf x.pa) (0x240 + d) c (dls.getD c none), .failed)

/-- R415: a read of a die's scheduler, which it accepted at a time of its own before (log entry 43), counts where it is
served when it is late. -/
def State.serveSched (s : State) (d ctx cls : Nat) (x : Xlate) : State :=
  let c := max cls (pteCls x.pte)
  match s.deadline d ctx c with
  | none => s
  | some t =>
    let late := t < s.gtc d + Config.choice s.free
    s.draw.modDie (s.homeOf x.pa) fun di =>
      let i := 4 * (0x240 + d) + c
      { di with miss := if late then Tab.set di.miss i (min (Tab.getD di.miss i 0 + 1) 0xFFFFFFFF) else di.miss }

/-- Reads `n` bytes within a sector for a die's scheduler, under a class, or the failure. -/
def State.loadFor (s : State) (d ctx cls va n : Nat) : State × Option Nat :=
  match s.access (dieAgent d) ctx va .read with
  | (s, .error _) => (s, none)
  | (s, .ok x) =>
    if paRegion x.pa == 1 then
      (s, some (if ctxCtl (s.ctxEntry (homeDie x.pa) ctx) then s.ctlBytes x.pa n else 0))
    else
      let (s, r) := s.readHome d x.pa
      let s := s.serveSched d ctx cls x
      if r.status != 0 then (s, none) else (s, some (bitsOf r.val (8 * (x.pa % 64)) (8 * n)))

/-- Reads 64-byte units in ascending order. -/
def State.loadMany (s : State) (d ctx cls va : Nat) : Nat → State × Option Nat
  | 0 => (s, some 0)
  | n + 1 =>
    match s.loadFor d ctx cls va 64 with
    | (s, none) => (s, none)
    | (s, some v) =>
      match s.loadMany d ctx cls (va + 64) n with
      | (s, none) => (s, none)
      | (s, some r) => (s, some (v + 2 ^ 512 * r))

/-- Table 15.5. -/
def Done.record (n : Done) : Nat :=
  packFields [(n.status, 8), (n.reason, 8), (0, 16), (n.gseq, 32), (n.time, 64)]

/-- The event record of a completion, stamped with its TIME (01 R21); DNF tells that none was written at DONEA (R359). -/
def State.logDone (s : State) (n : Done) (dnf : Bool) : State :=
  s.logAt n.die (0x240 + n.die) 0x05 n.time
    [(n.status, 8), (n.reason, 8), (n.gseq, 32), (n.ctx, 12), (n.queue, 10), (boolNat dnf, 1)]

/-- 16 R394: a release at scope die, pkg or sys is performed once gtc() has passed the horizon; there is none where nothing
was posted. -/
def State.past (s : State) (d h : Nat) : Bool := h == 0 || decide (h < s.gtc d)

/-- A completion record is written once, and logged; it waits for its horizon, and for sectors (R359, 16 R394, 18 R419). -/
def State.finishDone (s : State) (id : Nat) : State :=
  match Tab.get? s.dones id with
  | none => s
  | some n =>
    if !s.past n.die n.horizon then s
    else
      match (if n.donea == 0 then (s, Stored.done)
          else s.storeFor n.die n.ctx n.cls n.deadlines (n.donea / 16 * 16) n.record 16) with
      | (s, .waits h) => s.noteWait (.done id) h
      | (s, r) => ({ s with dones := Tab.erase s.dones id }.endWait (.done id)).logDone n (r == Stored.failed)

/-- R359, R371: a grid or range task is complete, or a record refused: its completion record is to be written. -/
def State.complete (s : State) (d ctx cls queue donea status reason gseq horizon : Nat) : State :=
  let n : Done :=
    { die := d, ctx := ctx, cls := cls, queue := queue, donea := donea, status := status, reason := reason, gseq := gseq
      time := s.gtc d, horizon := horizon, deadlines := s.deadlinesAt d ctx }
  { s with seq := s.seq + 1, dones := Tab.set s.dones s.seq n }.finishDone s.seq

/-! ### The register file (07 R178) -/

/-- Units of eight lane-registers of one fibre's base window; a free fibre's holds s48-s63 besides (R52). -/
def State.windowUnits (s : State) (g : Nat) : Nat :=
  ((s.roleOf g).nb + if (s.teamOf (s.group g).team).stream then 32 else 0) / 8

/-- The units a group holds: its lanes' windows, one after the other, and its extended blocks. -/
def State.unitsOf (s : State) (g : Nat) : List (Nat × Nat) :=
  let gr := s.group g
  (((gr.lanes.head?).map fun ln => ln.wbase.toNat).getD 0, gr.width * s.windowUnits g) ::
    gr.extAt.map fun b => (b, 4 * gr.width)

/-- The lowest of 8,192 units from which `n` are not taken. -/
def fileRoom (taken : List (Nat × Nat)) (n : Nat) : Option Nat :=
  let starts := (0 :: taken.map fun x => x.1 + x.2).filter fun a =>
    decide (a + n ≤ 8192) && taken.all fun x => decide (a + n ≤ x.1) || decide (x.1 + x.2 ≤ a)
  starts.min?

/-- A group's windows from a unit on. -/
def Group.windowsAt (gr : Group) (u b : Nat) : Group :=
  { gr with lanes := gr.lanes.mapIdx fun j ln => { ln with wbase := BitVec.ofNat 13 (b + u * j) } }

/-- The groups on a core that hold registers. -/
def State.fileGroups (s : State) (k : Nat) : List Nat :=
  (s.groups.filter fun p => p.2.core == k && !p.2.retired).map Prod.fst

/-- The groups of a core in the register file one after the other: where no gap is wide enough, the core closes the gaps (log
entry 13). -/
def State.packFile (s : State) (k : Nat) : State :=
  ((s.fileGroups k).foldl (fun (a : State × Nat) g =>
    let u := s.windowUnits g
    let w := (s.group g).width
    let c := a.2 + u * w
    (a.1.modGroup g fun gr => { gr.windowsAt u a.2 with extAt := (List.range gr.ext.length).map fun i => c + 4 * w * i },
      c + 4 * w * (s.group g).ext.length)) (s, 0)).1

/-- The windows and blocks of groups that come to a core take the lowest gaps of its register file. -/
def State.placeWindows (s : State) : List Nat → State
  | [] => s
  | g :: r =>
    let k := (s.group g).core
    let w := (s.group g).width
    let taken := ((s.fileGroups k).filter fun h => !(g :: r).contains h).flatMap s.unitsOf
    match fileRoom taken (w * s.windowUnits g) with
    | none => (s.packFile k).placeWindows r
    | some b =>
      let blocks := (s.group g).ext.foldl (fun (a : List (Nat × Nat)) _ =>
        a ++ ((fileRoom (taken ++ [(b, w * s.windowUnits g)] ++ a) (4 * w)).map fun c => (c, 4 * w)).toList) []
      if blocks.length == (s.group g).ext.length then
        (s.modGroup g fun gr => { gr.windowsAt (s.windowUnits g) b with extAt := blocks.map Prod.fst }).placeWindows r
      else (s.packFile k).placeWindows r

/-- The newest `n` blocks of a group take the lowest gaps. -/
def State.placeBlocks (s : State) (g : Nat) : Nat → State
  | 0 => s
  | n + 1 =>
    let gr := s.group g
    match fileRoom ((s.fileGroups gr.core).flatMap s.unitsOf) (4 * gr.width) with
    | none => s.packFile gr.core
    | some b => (s.modGroup g fun gr => { gr with extAt := gr.extAt ++ [b] }).placeBlocks g n

/-! ### The end of a team (R43, R209, R227, R344, R368, R371) -/

/-- R368: every record claimed for, or held by, a launch's team becomes free. -/
def freeClaims (id : Nat) (e : Edge) : Edge :=
  { e with slots := e.slots.map fun x =>
      match x with
      | .claimed _ l => if l == id then .free else x
      | .held _ l _ => if l == id then .free else x
      | _ => x }

/-- R365: an edge's counters. -/
def Edge.free (e : Edge) : Nat := (e.slots.filter fun x => x == .free).length
def Edge.full (e : Edge) : Nat := (e.slots.filter fun x => match x with | .full _ _ => true | _ => false).length
def Edge.cap (e : Edge) : Nat := 2 ^ bitsOf e.record 64 4
def Edge.depth (e : Edge) : Nat := e.cap - e.free

/-- The die of a team, saved or resident. -/
def State.teamDie (s : State) (t : Team) : Nat := ((Tab.get? s.launches t.launch).map Launch.die).getD 0

/-- R369: once depth falls below LOW, the edge is no longer over, and both its effects end. -/
def State.settleEdge (s : State) (d gs n : Nat) : State :=
  let g := (s.die d).graph gs
  match g.edgeTab[n]? with
  | none => s
  | some e =>
    if e.overfull && decide (e.depth < bitsOf e.record 104 16) then
      let s := s.modDie d fun di => di.modGraph gs fun g =>
        { g with edgeTab := g.edgeTab.modify n fun e => { e with overfull := false } }
      { s with
        teams := s.teams.map fun t =>
          if s.teamDie t.2 == d then
            (t.1, { t.2 with descheduled := t.2.descheduled.filter fun x => x != (gs, n) })
          else t }
    else s

def State.modGraph (s : State) (d gs : Nat) (f : Graph → Graph) : State := s.modDie d fun di => di.modGraph gs f

/-- R371: a range task is complete when every one of its teams has ended; `h` is the horizon of the one that ends. -/
def State.endTask (s : State) (d gs n task ctx h : Nat) : State :=
  let nd := ((s.die d).graph gs).nodeTab[n]?
  match nd.bind fun nd => nd.running.find? fun r => r.task.id == task with
  | none => s
  | some r =>
    if r.live ≤ 1 then
      (s.modGraph d gs fun g => { g with nodeTab := g.nodeTab.modify n fun nd =>
          { nd with running := nd.running.filter fun r => r.task.id != task } }).complete d ctx ((s.die d).graph gs).cls 0x3FF
            r.task.donea 0 0 0 (max r.horizon h)
    else
      s.modGraph d gs fun g => { g with nodeTab := g.nodeTab.modify n fun nd =>
        { nd with running := nd.running.map fun r => if r.task.id == task then { r with live := r.live - 1, horizon := max r.horizon h } else r } }

/-- R368: the records claimed for or held by a launch's team become free. -/
def State.freeRecords (s : State) (d id : Nat) (node : Option (Nat × Nat)) : State :=
  match node with
  | none => s
  | some (gs, _) =>
    let es := List.range (((s.die d).graph gs).edgeTab.length)
    let s := s.modGraph d gs fun g => { g with edgeTab := g.edgeTab.map (freeClaims id) }
    es.foldl (fun (s : State) e => s.settleEdge d gs e) s

/-- A launch is over: its record is written once (R359). -/
def State.completeLaunch (s : State) (id : Nat) : State :=
  match Tab.get? s.launches id with
  | none => s
  | some l =>
    ({ s with launches := Tab.erase s.launches id }.freeRecords l.die id l.node).complete l.die l.ctx l.cls l.queue (recDonea l.record) l.status
      l.reason l.gseq l.horizon

/-- The grid completes when its last team has ended and none is left to place (R43). -/
def State.checkGrid (s : State) (id : Nat) : State :=
  match Tab.get? s.launches id with
  | none => s
  | some l => if l.live == 0 && (l.ended || l.teams ≤ l.next) then s.completeLaunch id else s

/-- Lane-registers go back to a core's general pool (R206); those of a saved team lie on no core. -/
def State.givePool (s : State) (k n : Nat) : State :=
  if k < 512 then s.modCore k fun c => { c with pool := c.pool + n } else s

/-- Lane-registers of a team's general-pool share go back: its groups' blocks and its reserve (R206). -/
def State.freeRegs (s : State) (t : Nat) : State :=
  let tm := s.teamOf t
  (tm.cores.zip (tm.regBase.zip tm.reserve)).foldl (fun (s : State) p => s.givePool p.1 (p.2.1 + p.2.2)) s

/-- The largest horizon of a team's groups and fibres (16 R394). -/
def State.teamHorizon (s : State) (t : Nat) : Nat :=
  s.groups.foldl (fun h (p : Nat × Group) => if p.2.team == t then max h p.2.horizon else h) (s.teamOf t).horizon

/-- The number of a group's core in its team, saved (`awayCore`) or resident. -/
def Team.coreIx (t : Team) (gr : Group) : Nat := if gr.core < 512 then t.cores.idxOf gr.core else (gr.core - 2048) / 512

/-- A team whose last group has retired ends: it gives up its cores, its engines and slots, its claims and records;
its launch, task and node learn it. -/
def State.endTeam (s : State) (t : Nat) : State :=
  let tm := s.teamOf t
  if tm.ended then s
  else
    let d := s.teamDie tm
    let s := s.freeRegs t
    let s := tm.cores.foldl (fun (s : State) k =>
      s.modCore k fun c => if c.marrow.owner == some t then { c with marrow := {} } else c) s
    let h := s.teamHorizon t
    let s := if tm.savedBytes == 0 then s else { s with saved := Tab.modify s.saved tm.ctx fun n => n - tm.savedBytes }
    let s := s.modTeam t fun tm => { tm with ended := true, cores := [], hslots := [], descheduled := [] }
    let s := s.freeRecords d tm.launch tm.node
    let s := match tm.node, tm.task with
      | some (gs, n), some k => s.endTask d gs n k tm.ctx h
      | _, _ => s
    let s := { s with launches := Tab.modify s.launches tm.launch fun l =>
      { l with live := l.live - 1, horizon := max l.horizon h } }
    s.checkGrid tm.launch

/-- Every group of the team has retired (R43). -/
def State.teamDone (s : State) (t : Nat) : Bool := s.groups.all fun p => p.2.team != t || p.2.retired

/-! ### Ending units (R288) -/

/-- Every fibre of a group ends at once, as FEND does: stopped, parked, halted or in a handler. -/
def endGroup (gr : Group) : Group :=
  { gr with
    lanes := gr.lanes.map fun ln => { ln with live := false }
    frontier := [], parked := none, stop := none, halt := false, shadow := none, refetch := none, watch := none
    cause := BitVec.ofNat 36 (setBits gr.cause.toNat 26 1 0) }

/-- An all-reduce contribution that has begun goes on without its team (19 R470). -/
def Op.reducing (o : Op) : Bool := match o.instr with | .ared _ _ => Tab.get? o.vals 0 == some [1] | _ => false

/-- The groups that satisfy a predicate end. What a saved team's were to do again at its restore is not done (15 R381). -/
def State.endGroups (s : State) (p : Group → Bool) : State :=
  { s with
    groups := s.groups.map fun x => if p x.2 && !x.2.retired then (x.1, endGroup x.2) else x
    ops := s.ops.filter fun o => !((s.teamOf o.2.team).out && p (s.group o.2.gid) && !o.2.reducing) }

/-- R237: the members of a core's matrix collective that are missing one: those waiting raise 0x31, each at its own
instruction. -/
def State.missMember (s : State) (k : Nat) : State :=
  let s := s.modCore k fun c => { c with marrow := { c.marrow with missing := true } }
  List.foldl (fun (s : State) (p : Nat × Group) =>
    match p.2.parked with
    | some { wait := .collective _ _, .. } => if p.2.core == k then s.stopParked p.1 0x31 else s
    | _ => s) s s.groups

/-- The collectives of a group's core are missing it; those of a saved team's, once it is restored (15 R381). -/
def State.missGroup (s : State) (gr : Group) : State :=
  if gr.core < 512 then s.missMember gr.core
  else s.modTeam gr.team fun t => { t with marrows := t.marrows.modify (t.coreIx gr) fun m => { m with missing := true } }

/-- A group is a member of its core's matrix collective (R38). -/
def State.member (s : State) (gr : Group) : Bool :=
  let t := s.teamOf gr.team
  ((t.roles[gr.role]?).map fun r => r.grant.getLsbD 1).getD false

/-- Collectives of the cores where a member among the groups is ended. -/
def State.missMembers (s : State) (p : Group → Bool) : State :=
  ((s.groups.filter fun x => p x.2 && !x.2.retired && s.member x.2).map Prod.snd).foldl State.missGroup s

/-- A barrier with TGT = 0 counts the groups that have not retired (R333): evaluated at a retirement. -/
def State.liveGroups (s : State) (t : Nat) : Nat :=
  (s.groups.filter fun p => p.2.team == t && !p.2.retired).length

/-- R333: a phase completes: it flips, and every group waiting on it goes on. -/
def State.flipPhase (s : State) (t b : Nat) : State :=
  let ph := !((Tab.getD (s.teamOf t).barriers b {}).ph)
  let s := s.modTeam t fun tm =>
    { tm with barriers := Tab.set tm.barriers b { Tab.getD tm.barriers b {} with ph := ph, cnt := 0 } }
  List.foldl (fun (s : State) (p : Nat × Group) =>
    match p.2.parked with
    | some { wait := .barrier i w, .. } => if p.2.team == t && i == b && w != ph then s.resume p.1 else s
    | _ => s) s s.groups

/-- R352: an error in the sync state raises 0x74 in every group parked on it. -/
def State.syncLost (s : State) (t n : Nat) : State :=
  List.foldl (fun (s : State) (p : Nat × Group) =>
    match p.2.parked with
    | some { wait := w, .. } =>
      let on := match w with
        | .barrier i _ => i == n
        | .pod i _ _ => 16 + i == n
        | _ => false
      if on && p.2.team == t then s.stopParked p.1 0x74 else s
    | none => s) s s.groups

/-- The barriers of a team whose TGT of 0 the remaining groups now reach; a damaged one is left as it stands (R352). -/
def State.settleBarriers (s : State) (t : Nat) : State :=
  List.foldl (fun (s : State) b =>
    match s.readSync t b with
    | (s, true) => s.syncLost t b
    | (s, false) =>
      let br := Tab.getD (s.teamOf t).barriers b {}
      if br.tgt == 0 && br.cnt != 0 && decide (s.liveGroups t ≤ br.cnt) then s.flipPhase t b else s) s (List.range 16)

/-- Ends a team's groups (R288). -/
def State.killTeam (s : State) (t : Nat) : State :=
  (s.missMembers fun gr => gr.team == t).endGroups fun gr => gr.team == t

/-- Ends a grid: the groups of its teams, and its teams not yet placed. -/
def State.killGrid (s : State) (id status reason : Nat) : State :=
  let inGrid := fun (gr : Group) => (s.teamOf gr.team).launch == id
  let s := (s.missMembers inGrid).endGroups inGrid
  let s := { s with launches := Tab.modify s.launches id fun l =>
    { l with ended := true, status := if l.ended then l.status else status, reason := if l.ended then l.reason else reason } }
  s.checkGrid id

/-- Ends every grid of a context, and frees its all-reduce and hash-grid slots (R288, R482). -/
def State.killContext (s : State) (ctx status reason : Nat) : State :=
  let reduces := fun (i : Instr) => match i with | .ared _ _ | .arwait _ _ => true | _ => false
  let s := { s with
    arSlots := s.arSlots.filter fun (p : Nat × ArSlot) => p.2.owner != some ctx
    ops := s.ops.filter fun (p : Nat × Op) => !(p.2.ctx == ctx && reduces p.2.instr) }
  (s.launches.filter fun p => p.2.ctx == ctx).foldl (fun (s : State) p => s.killGrid p.1 status reason) s

end Sys2Proof.Machine
end

