-- ==== Sys2Proof/Machine/Traps.lean ====
section
/-! DEFINITION. Containment, fault handlers and debugging (11 R284-R299), and the retirement of groups (02 R43). -/

namespace Sys2Proof.Machine

/-! ### Walks (R284-R289) -/

/-- The policy of a level for a class (Table 11.6): level 0 group, 1 team, 2 grid, 3 context. -/
def policyOf (cpol : BitVec 57) (level cls : Nat) : Nat := bitsOf cpol.toNat (14 * level + 2 * cls) 2

/-- The walk of R286 from a level: where it ends, the action (0 ignore, 1 retry, 2 kill), and RCNT after it. `grp` is
the group-level policy in its place. `fuel` counts the levels above. -/
def walkLevels (cpol : BitVec 57) (cls grp level rcnt : Nat) : Nat → Nat × Nat × Nat
  | 0 =>
    let p := policyOf cpol 3 cls
    let p := if cls == 6 && p == 0 then 2 else p
    if p == 1 then (if rcnt == 15 then (3, 2, 0) else (3, 1, rcnt + 1))
    else (3, if p == 0 then 0 else 2, rcnt)
  | fuel + 1 =>
    let p := if level == 0 then grp else policyOf cpol level cls
    let p := if cls == 6 && p == 0 then 2 else p
    if p == 1 then
      (if rcnt == 15 then walkLevels cpol cls grp (level + 1) 0 fuel else (level, 1, rcnt + 1))
    else if p == 3 then walkLevels cpol cls grp (level + 1) rcnt fuel
    else (level, p, rcnt)

/-- The class of a code (R279). -/
def causeClass (code : Nat) : Nat := bitsOf code 4 3 - 1

def setCause (gr : Group) (lvl act rcnt : Nat) : Group :=
  { gr with cause := BitVec.ofNat 36 (setBits (setBits (setBits gr.cause.toNat 18 2 lvl) 20 2 act) 22 4 rcnt) }

/-- R290: the handler is entered: the frontier, the predicates and the stop go to the shadow. -/
def enterHandler (gr : Group) (st : Stop) (pc : BitVec 57) (compat : Bool) : Group :=
  let live := (List.range gr.lanes.length).filter fun j => match gr.lanes[j]? with | some ln => ln.live | none => false
  { gr with
    shadow := some { frontier := gr.frontier, preds := live.map fun j => (j, gr.pred j), stop := st }
    frontier := [{ pc := pc, lanes := live }]
    cause := BitVec.ofNat 36 (setBits (setBits gr.cause.toNat 26 1 1) 27 1 (if compat then 1 else 0))
    stop := none }

/-- The stop entry's fibres go on at a PC (R284 ignore, R294, R297). -/
def passStop (gr : Group) (st : Stop) (pc : BitVec 57) : Group :=
  { gr.commit st.pc st.level (st.lanes.map fun j => { lane := j, pc := pc, level := st.level }) [] false with stop := none }

/-- The PC after a stop: past both members of a pair (R294). -/
def Stop.past (st : Stop) : BitVec 57 := if st.pair then seqPc (seqPc st.pc) else seqPc st.pc

/-- R289: the record of a walk. -/
def State.logWalk (s : State) (g : Nat) (st : Stop) (lvl act : Nat) : State :=
  let gr := s.group g
  let d := coreDie gr.core
  s.logAt d gr.core 0x03 st.stamp
    [(st.code, 8), (st.sub, 8), (lvl, 2), (act, 2), (gr.epc.toNat, 57), (gr.slot0, 11), ((s.teamOf gr.team).ctx, 12)]

/-- R286: performs the action a walk ends with. -/
def State.endWalk (s : State) (g : Nat) (st : Stop) (r : Nat × Nat × Nat) : State :=
  let (lvl, act, rcnt) := r
  let ctx := (s.teamOf (s.group g).team).ctx
  let s := s.modGroup g fun gr => setCause gr lvl act rcnt
  let s := if lvl == 3 then { s with walks := Tab.set s.walks ctx (Tab.getD s.walks ctx 0 + 1) } else s
  let s := if lvl != 0 && !(act == 1 && 1 < rcnt) then s.logWalk g st lvl act else s
  if act == 0 then
    s.modGroup g fun gr => if st.async then { gr with stop := none } else passStop gr st st.past
  else if act == 1 then s.modGroup g fun gr => { gr with stop := none }
  else
    let t := (s.group g).team
    match lvl with
    | 0 =>
      let s := if s.member (s.group g) then s.missGroup (s.group g) else s
      s.modGroup g endGroup
    | 1 => s.killTeam t
    | 2 => s.killGrid (s.teamOf t).launch 1 st.code
    | _ => s.killContext ctx 1 st.code

/-- R286 with R290: a retry at group level enters the native retry handler, when sr.ufh names one that may be
entered. -/
def State.walk286 (s : State) (g : Nat) (st : Stop) : State :=
  let sh := s.sharedOf g
  let cls := causeClass st.code
  let start := if st.code == 0x1F then 1 else 0
  let rc := bitsOf (s.group g).cause.toNat 22 4
  let grp := policyOf sh.cpol 0 cls
  let r := walkLevels sh.cpol cls grp start rc (3 - start)
  if r.1 == 0 && r.2.1 == 1 && sh.ufh != 0 then
    match s.checkTargets (s.group g).core (s.teamOf (s.group g).team).ctx [sh.ufh] with
    | (s, none) => s.modGroup g fun gr => enterHandler (setCause gr 0 1 r.2.2) st sh.ufh false
    | (s, some _) => s.endWalk g st (walkLevels sh.cpol cls 3 0 rc 3)
  else s.endWalk g st r

/-- From the end of its stop on, a group or fibre may issue (R54). -/
def State.restart (s : State) (g : Nat) : State :=
  s.modGroup g fun gr => if gr.stop.isNone then { gr with readySince := s.cycle } else gr

/-- CONTAINMENT_WALK (R286, R293): from a stop that is not the debugger's. In a compatibility context every cause
but a double fault enters the compatibility handler, when there is one that may be entered. -/
def execContainmentWalk (g : Nat) (s : State) : Res :=
  .next <|
    match (s.group g).stop with
    | none => s
    | some st =>
      if st.halted then s
      else State.restart (
        let sh := s.sharedOf g
        let ctx := (s.teamOf (s.group g).team).ctx
        let hvec := BitVec.ofNat 57 (ctxHvec (s.ctxEntry (coreDie (s.group g).core) ctx))
        if sh.cpol.getLsbD 56 && st.code != 0x1F && hvec != 0 then
          match s.checkTargets (s.group g).core ctx [hvec] with
          | (s, none) =>
            s.modGroup g fun gr => enterHandler (setCause gr 0 3 (bitsOf gr.cause.toNat 22 4)) st hvec true
          | (s, some _) => s.walk286 g st
        else s.walk286 g st) g

/-! ### The debugger (R297, R298) -/

/-- DEBUG_RESUME (R297): a halted group goes on; with SS set it issues once and halts again. -/
def State.resumeDebug (s : State) (g : Nat) (drop : Bool) : State :=
  match (s.group g).stop with
  | none => s
  | some st =>
    if !st.halted then s
    else
      let dbg := (s.sharedOf g).dbg
      (s.modGroup g fun gr =>
        let gr := { gr with halt := false, resumed := true, stepping := dbg.getLsbD 0 && dbg.getLsbD 1 }
        match st.code with
        | 0x50 => passStop gr st st.past
        | 0x51 => { gr with stop := none }
        | 0x52 => passStop gr st gr.epc
        | _ => if drop then { gr with stop := none } else { gr with stop := some { st with halted := false } }).restart g

def execDebugResume (g : Nat) (drop : Bool) (s : State) : Res := .next (s.resumeDebug g drop)

/-! ### Retirement (R43, R191) -/

def Group.anyLive (gr : Group) : Bool := gr.lanes.any fun ln => ln.live

/-- Engine operations of a group that have not completed. -/
def State.busy (s : State) (g : Nat) : Bool := s.ops.any fun o => o.2.serves g

/-- R206, R207: a group's extended blocks from number `n` upward go back where they came from. -/
def State.dropBlocks (s : State) (g n : Nat) : State :=
  let gr := s.group g
  let size := gr.width * 32
  let back := (gr.ext.drop n).filter fun b => !b.2
  let res := (gr.ext.drop n).filter fun b => b.2
  let i := (s.teamOf gr.team).coreIx gr
  let s := s.givePool gr.core (size * back.length)
  let s := s.modTeam gr.team fun t => { t with reserve := t.reserve.modify i fun r => r + size * res.length }
  s.modGroup g fun gr =>
    { gr with
      ext := gr.ext.take n, extAt := gr.extAt.take n, holder := gr.holder && n != 0
      lanes := gr.lanes.map fun ln =>
        { ln with regs := ln.regs.filter fun r => r.1 < 64 + 32 * n, bad := ln.bad.filter fun r => r.1 < 64 + 32 * n } }

/-- A group without fibres or unfinished operations retires: it frees its blocks, and its team may end. -/
def State.retire (s : State) (g : Nat) : State :=
  let gr := s.group g
  let t := gr.team
  let i := (s.teamOf t).coreIx gr
  let base := gr.width * (s.roleOf g).nb
  let s := s.dropBlocks g 0
  let s := s.givePool gr.core base
  let s := s.modTeam t fun tm => { tm with regBase := tm.regBase.modify i fun r => r - base }
  let mem := s.member gr
  let s := s.modGroup g fun gr => { gr with retired := true, watch := none }
  let s := if mem then s.missGroup gr else s
  let s := s.settleBarriers t
  if s.teamDone t then s.endTeam t else s

/-- GROUP_RETIRE (R43). A failing status that the group never joined stops it first (R191). The fibres of a stream
team keep their slots until none is left and nothing is in flight. -/
def execGroupRetire (g : Nat) (s : State) : Res :=
  .next <|
    let gr := s.group g
    if (Tab.get? s.groups g).isNone || gr.anyLive || gr.retired || gr.stop.isSome || s.busy g then s
    else
      match gr.unjoined with
      | u :: r =>
        (s.modGroup g fun gr => { gr with unjoined := r }).stopGroup g u.cause (u.token % 64) 0 true false gr.lastPc 0 []
      | [] =>
        if (s.teamOf gr.team).stream then
          let mine := s.groups.filter fun p => p.2.team == gr.team
          if mine.all fun p => !p.2.anyLive && p.2.unjoined.isEmpty && p.2.stop.isNone && !s.busy p.1 then
            let t := gr.team
            State.endTeam { s with groups := List.map (fun (p : Nat × Group) =>
              if p.2.team == t then (p.1, { p.2 with retired := true }) else p) s.groups } t
          else s
        else s.retire g

/-! ### Ages (R49, R54, 15 R363) and the refetch of a line (R59) -/

/-- ENTRY_AGE_DUE (R49). -/
def execEntryAgeDue (g : Nat) (s : State) : Res :=
  .next (s.modGroup g fun gr =>
    { gr with frontier := gr.frontier.map fun e => if 4096 ≤ e.age then { e with due := true } else e })

/-- FREE_FIBRE_AGED (R54). -/
def execFreeFibreAged (g : Nat) (s : State) : Res :=
  .next <|
    let gr := s.group g
    if (s.teamOf gr.team).stream && s.ready g gr && decide (4096 ≤ s.cycle - gr.readySince) then
      s.modGroup g fun gr => { gr with aged := true }
    else s

/-- STARVATION_BOOST (R363). -/
def execStarvationBoost (g : Nat) (s : State) : Res :=
  .next <|
    let gr := s.group g
    if s.ready g gr && decide (65536 ≤ s.cycle - gr.lastIssue) then
      s.modGroup g fun gr => { gr with boosted := true }
    else s

/-- LINE_REFETCH (R59): the core's copy is discarded and the line read once more from its home; a copy that matches
is used, and logged, and one that does not stops the group. -/
def execLineRefetch (g : Nat) (s : State) : Res :=
  .next <|
    let gr := s.group g
    match gr.refetch with
    | none => s
    | some line =>
      let t := s.teamOf gr.team
      let k := gr.core
      let s := s.modGroup g fun gr => { gr with refetch := none }
      let s := s.modCore k fun c => { c with fetched := Tab.erase c.fetched (fetchKey t.ctx line) }
      let stop := fun (s : State) (code ea : Nat) (v : Nat) =>
        match selectEntry gr.frontier with
        | some e => s.stopGroup g code 0 (BitVec.ofNat 57 ea) false (pairBit v (slotOf e.pc)) e.pc e.level e.lanes
        | none => s
      match s.access k t.ctx line.toNat .fetch with
      | (s, .error c) => stop s c (if 0x20 ≤ c && c < 0x30 then line.toNat else 0) 0
      | (s, .ok x) =>
        let s := if paRegion x.pa == 0 then s.dropLine (s.cacheKey k x.pa) (paLa x.pa / 512) else s
        match s.readSector k t.ctx x with
        | (s, r) =>
          if r.status != 0 then stop s (statusCause r.status) 0 0
          else if !parityOk r.val then stop s 0x71 0 r.val
          else
            (s.modCore k fun c => { c with fetched := Tab.set c.fetched (fetchKey t.ctx line) r.val }).log (coreDie k) k
              0x01 [(line.toNat / 64, 51), (gr.slot0, 11), (t.ctx, 12)]

end Sys2Proof.Machine
end

