-- ==== Sys2Proof/Machine/Sched.lean ====
section
/-! DEFINITION. Launch queues, the refusal of records, and the placement of teams (15 R354-R363, R376, 02 R35-R41, R51,
14 R327, R336). -/

namespace Sys2Proof.Machine

/-! ### Role descriptors and pod records (Tables 2.3, 14.3) -/

def roleWidth (r : Nat) : Nat := 8 * 2 ^ bitsOf r 0 2
def roleBase (r : Nat) : Nat := [16, 24, 32, 48].getD (bitsOf r 2 2) 0
def roleExtmax (r : Nat) : Nat := bitsOf r 4 3
def roleGroups (r : Nat) : Nat := bitsOf r 8 10
def roleGrant (r : Nat) : Nat := bitsOf r 32 32
def roleEntry (r : Nat) : BitVec 57 := BitVec.ofNat 57 (bitsOf r 64 57)
def roleMx (r : Nat) : Bool := bitOf (roleGrant r) 1
/-- The role a descriptor describes. -/
def mkRole (r : Nat) : Role :=
  { width := roleWidth r, nb := roleBase r, extmax := roleExtmax r, groups := roleGroups r
    grant := BitVec.ofNat 9 (roleGrant r), entry := roleEntry r }

def podSlots (p : Nat) : Nat := bitsOf p 0 6 + 1
def podBytes (p : Nat) : Nat := bitsOf p 6 10 * 64
def podHome (p : Nat) : Nat := bitsOf p 16 2
def podBase (p : Nat) : Nat := bitsOf p 18 20

/-! ### What a team needs on each of its cores (R360) -/

/-- A group of a team on a core: its role, its number in the role, its width. -/
structure Member where
  role : Nat
  num : Nat
  width : Nat
  deriving DecidableEq, Repr, Inhabited

/-- What team core `t` must provide. -/
structure Need where
  /-- The core's groups, ascending role and number (R362). -/
  members : List Member
  /-- Fibre slots, in whole runs of 64 (R180). -/
  slots : Nat
  /-- Lane-registers of the base blocks, and of the reserve (R39). -/
  regs : Nat
  reserve : Nat
  /-- The window's SIZE, and the scratchpad run in bytes. -/
  size : Nat
  run : Nat
  /-- What of the run must lie outside the window (R48, R185). -/
  rest : Nat
  mx : Bool
  deriving DecidableEq, Repr, Inhabited

def roundUp (x n : Nat) : Nat := (x + n - 1) / n * n

/-- R38: the groups of a record on team core `t`. -/
def recMembers (r t : Nat) : List Member :=
  (List.range (recRoles r)).flatMap fun i =>
    let ro := recRole r i
    ((List.range (roleGroups ro)).filter fun g => g % recCores r == t).map fun g =>
      { role := i, num := g, width := roleWidth ro }

/-- The needs of a record's teams on team core `t` (R39, R48, R51, R271, R330, R360). -/
def recNeed (r t : Nat) : Need :=
  let ms := recMembers r t
  let widths := (ms.map Member.width).sum
  let stream := recStream r
  let mx := ms.any fun m => roleMx (recRole r m.role)
  let count := if stream then widths else ms.length
  let size := roundUp (recScr r * 1024 + recStk r * 4 * count) 1024
  let spill := if stream then 0 else (ms.map fun m => (m.width - 16) * 32).sum
  let rest := spill + (if t == 0 then 2048 else 0) + if mx then recStash r * 2048 else 0
  { members := ms, slots := roundUp widths 64
    regs := (ms.map fun m => m.width * (roleBase (recRole r m.role) + if stream then 32 else 0)).sum
    reserve := List.foldl (fun n m => max n (m.width * 32 * roleExtmax (recRole r m.role))) 0 ms
    size := size
    run := roundUp (size + rest) 2048
    rest := rest
    mx := mx }

/-- How far a window that ends its run stands behind the run's start: 0 where nothing fits there before it. -/
def Need.lead (n : Need) : Nat :=
  let l := (n.run - n.size) / 2048 * 2048
  if n.rest ≤ l && n.size != 0 then l else 0

def recNeeds (r : Nat) : List Need := (List.range (recCores r)).map (recNeed r)

/-! ### Room on cores -/

/-- What is free on a core: its lane-registers, the taken spans of slots and scratchpad, and its matrix engine. -/
structure Room where
  regs : Nat := 65536
  slots : List (Nat × Nat) := []
  spans : List (Nat × Nat) := []
  mx : Bool := true
  deriving DecidableEq, Repr, Inhabited

/-- Where a run of `n` units, a multiple of `al`, may start among `size`. -/
def starts (taken : List (Nat × Nat)) (size al n : Nat) : List Nat :=
  ((List.range (size / al)).map (· * al)).filter fun a =>
    decide (a + n ≤ size) && taken.all fun x => decide (a + n ≤ x.1) || decide (x.1 + x.2 ≤ a)

def Room.slotStarts (r : Room) (n : Need) : List Nat := starts r.slots 1536 64 n.slots
def Room.spanStarts (r : Room) (n : Need) : List Nat := starts r.spans 524288 2048 n.run

/-- R360 on one core. -/
def Room.fits (r : Room) (n : Need) : Bool :=
  !(r.slotStarts n).isEmpty && decide (n.regs + n.reserve ≤ r.regs) && !(r.spanStarts n).isEmpty && (!n.mx || r.mx)

/-- The room left once a team takes the spans that start at `a` and `b`. -/
def Room.take (r : Room) (n : Need) (a b : Nat) : Room :=
  { regs := r.regs - n.regs - n.reserve, slots := r.slots ++ [(a, n.slots)], spans := r.spans ++ [(b, n.run)]
    mx := r.mx && !n.mx }

def Team.resident (t : Team) : Bool := !t.ended && !t.out

/-- Spans without the `n` units from `a`. -/
def carve (spans : List (Nat × Nat)) (a n : Nat) : List (Nat × Nat) :=
  spans.flatMap fun x =>
    [(x.1, min x.2 (a - x.1)), (max x.1 (a + n), x.1 + x.2 - max x.1 (a + n))].filter fun y => y.2 != 0

/-- Where a team's run on a core lies outside its window: behind a window that begins the run, before one that ends it. -/
def Team.outsideAt (tm : Team) (tc : Nat) : Nat :=
  let run := tm.srun.getD tc (0, 0)
  if tm.sbase.getD tc 0 == run.1 then run.1 + tm.ssize.getD tc 0 else run.1

/-- The scratchpad spans a team takes on a core: its run, but the spill areas of groups that have retired (R43). -/
def State.runSpans (s : State) (t : Nat) (tm : Team) (k : Nat) : List (Nat × Nat) :=
  let tc := tm.cores.idxOf k
  s.groups.foldl (fun sp (p : Nat × Group) =>
    if p.2.team == t && p.2.core == k && p.2.retired && p.2.spill.2 != 0 then carve sp (tm.outsideAt tc + p.2.spill.1) p.2.spill.2
    else sp) [tm.srun.getD tc (0, 0)]

/-- The room of a core as occupied now. -/
def State.room (s : State) (k : Nat) : Room :=
  let ts := s.teams.filter fun p => p.2.resident && p.2.cores.contains k
  { regs := (s.core k).pool, mx := (s.core k).marrow.owner.isNone
    slots := ts.map fun p => (p.2.slot0.getD (p.2.cores.idxOf k) 0, p.2.slots.getD (p.2.cores.idxOf k) 0)
    spans := ts.flatMap fun p => s.runSpans p.1 p.2 k }

/-- The sets of `n` cores among 0-7, each in ascending order. -/
def coreSets (n : Nat) : List (List Nat) :=
  ((List.range 256).filter fun m => popCount m 8 == n).map fun m => (List.range 8).filter fun k => bitOf m k

def roomAt (rs : List Room) (k : Nat) : Room := rs.getD k {}

/-- A team's needs on a set of cores of one cluster. -/
def setFits (rs : List Room) (ns : List Need) (ks : List Nat) : Bool :=
  ks.length == ns.length && (ks.zip ns).all fun p => (roomAt rs p.1).fits p.2

/-- The rooms after a team takes the first fitting spans of each core. -/
def setTake (rs : List Room) (ns : List Need) (ks : List Nat) : List Room :=
  (ks.zip ns).foldl (fun rs p =>
    let r := roomAt rs p.1
    rs.set p.1 (r.take p.2 ((r.slotStarts p.2).headD 0) ((r.spanStarts p.2).headD 0))) rs

/-- The need's shares of a cluster's totals still allow `m` more teams. -/
def roomBound (rs : List Room) (ns : List Need) (m : Nat) : Bool :=
  let all := fun (f : Room → Nat) => (rs.map f).sum
  let need := fun (f : Need → Nat) => m * (ns.map f).sum
  need (fun n => n.regs + n.reserve) ≤ all Room.regs
    && need Need.slots ≤ all (fun r => 1536 - (r.slots.map Prod.snd).sum)
    && need Need.run ≤ all (fun r => 524288 - (r.spans.map Prod.snd).sum)
    && need (fun n => boolNat n.mx) ≤ all (fun r => boolNat r.mx)

/-- Whether `m` alike teams fit a cluster at once. The teams being alike, their core sets are taken in one order, of
which those still to use are named, and teams of one core fill each core in turn. -/
def clusterFits (rs : List Room) (ns : List Need) : Nat → Nat → List (List Nat) → Bool
  | _, 0, _ => true
  | 0, _, _ => false
  | _, _, [] => false
  | fuel + 1, m + 1, ks :: rest =>
    let now := setFits rs ns ks
    roomBound rs ns (m + 1) &&
      ((now && clusterFits (setTake rs ns ks) ns fuel m (ks :: rest)) ||
        (!(now && ns.length == 1) && clusterFits rs ns fuel (m + 1) rest))

/-- R358 REASON 0x09: the teams spread over the 16 clusters of an empty die, none of which can hold more than 192. -/
def gangFits (r : Nat) : Bool :=
  let ns := recNeeds r
  let want := (recTeams r + 15) / 16
  let empty : List Room := List.replicate 8 {}
  if want ≤ 8 * 24 then clusterFits empty ns (want + 70) want (coreSets ns.length) else false

/-! ### Refusal (R357, R358, R336, R36-R38, R51) -/

def recReservedOk (r : Nat) : Bool :=
  bitsOf r 13 19 == 0 && !bitOf r 63 && !bitOf r 95 && !bitOf r 127 && bitsOf r 155 5 == 0 && bitsOf r 169 7 == 0 &&
    bitsOf r 218 38 == 0 && bitsOf r 313 7 == 0 && bitsOf r 377 7 == 0 && bitsOf r 416 96 == 0 &&
    bitsOf r 3072 1024 == 0 && (recDep r || (recFlaga r == 0 && recDiv r == 0)) &&
    ((List.range 8).all fun i => decide (i < recRoles r) || recRole r i == 0) &&
    ((List.range 16).all fun i => decide (i < recPods r) || recPod r i == 0)

def roleOk (ro : Nat) : Bool :=
  !bitOf ro 7 && bitsOf ro 18 14 == 0 && bitsOf ro 121 7 == 0 && roleExtmax ro != 7 && decide (1 ≤ roleGroups ro) &&
    decide (roleGroups ro ≤ 768) && decide (roleGrant ro < 512) && validPc (roleEntry ro)

def podOk (r p : Nat) : Bool :=
  bitsOf p 38 26 == 0 && podBytes p != 0 && podHome p < recCores r && podBase p % 64 == 0 &&
    podBase p + podSlots p * podBytes p ≤ (recNeed r (podHome p)).size

/-- Table 15.4: the lowest reason that applies; 0 for none. A reserved bit of a role descriptor or a pod record has
that reason, not 0x01 (DEDUCED, log entry 31). -/
def recReason (r : Nat) : Nat :=
  let roles := (List.range (recRoles r)).map (recRole r)
  let n := recCores r
  let mx := roles.filter roleMx
  let stream := recStream r
  let pods := (List.range (min (recPods r) 16)).map (recPod r)
  if !recReservedOk r then 0x01
  else if !roles.all roleOk then 0x02
  else if 2 ^ 31 < recTeams r then 0x03
  else if decide (1 < mx.length) ||
      (mx.any fun ro => roleGroups ro % n != 0 || decide (roleGroups ro / n < 2) || decide (8 < roleGroups ro / n)) then 0x04
  else if stream && (roles.length != 1 || !mx.isEmpty || roles.any (fun ro => roleExtmax ro != 0) || n != 1) then 0x05
  else if decide (16 < recPods r) || (stream && recPods r != 0) || !pods.all (podOk r) then 0x06
  else if (if stream then recStk r == 0 else roles.any fun ro => recStk r % roleWidth ro != 0) then 0x07
  else if !(recNeeds r).all (Room.fits {}) then 0x08
  else if recGang r && !gangFits r then 0x09
  else if recDep r && (recDiv r == 0 || recFlaga r % 8 != 0) then 0x0A
  else if recStash r != 0 && mx.isEmpty then 0x0B
  else 0

/-! ### Launch queues (R354-R356) -/

/-- LAUNCH_QUEUE_DOORBELL (R355). -/
def execLaunchQueueDoorbell (die queue tail : Nat) (s : State) : Res := .next (s.doorbell die queue tail)

def Launch.waiting (l : Launch) : Bool := !l.ended && decide (l.next < l.teams)

/-- R356: launches taken from a die's queues with teams not placed. -/
def State.heldLaunches (s : State) (d : Nat) : Nat :=
  (s.launches.filter fun p => p.2.die == d && p.2.node.isNone && p.2.waiting).length

/-- R356, R478: a queue has a record that may be taken. -/
def State.queueReady (s : State) (d : Nat) (q : Queue) : Bool :=
  q.en && q.tail != q.head && ctxEn (s.ctxEntry d q.ctx)

/-- R356: the place of a queue among those of its priority: the queues after the last one taken from come first. -/
def Die.turnOf (di : Die) (q : Nat) : Nat := (q + 1023 - Tab.getD di.lastQueue (di.queue q).prio 1023) % 1024

/-- R356: the queue a die takes from next. -/
def State.nextQueue (s : State) (d : Nat) : Option Nat :=
  let di := s.die d
  List.foldl (fun (best : Option Nat) (p : Nat × Queue) =>
    if !s.queueReady d p.2 then best
    else
      match best with
      | none => some p.1
      | some b =>
        let q := di.queue b
        if q.prio < p.2.prio || (q.prio == p.2.prio && decide (di.turnOf p.1 < di.turnOf b)) then some p.1 else best)
    none di.queues

/-- A launch is accepted, or refused with its records (R356, R358, R364). `record` is none when it could not be read:
there is then no DONEA, and only the event log tells. -/
def State.submit (s : State) (d : Nat) (l : Launch) (record : Option Nat) : State :=
  let g := (s.die d).gseq
  let s := s.modDie d fun di => { di with gseq := (g + 1) % 2 ^ 32 }
  match record with
  | none =>
    s.logDone { die := d, ctx := l.ctx, cls := l.cls, queue := l.queue, donea := 0, status := 3, reason := 0x0C, gseq := g
                time := s.gtc d } true
  | some r =>
    let why := recReason r
    if why != 0 then s.complete d l.ctx l.cls l.queue (recDonea r) 3 why g 0
    else
      { s with seq := s.seq + 1, launches := Tab.set s.launches s.seq { l with die := d, gseq := g, record := r } }

/-- LAUNCH_RECORD_TAKE (R356): from the queue that is next, while fewer than 256 launches wait for placement. The low
bits of an address the spec calls a multiple are ignored (log entry 33). -/
def execLaunchRecordTake (die queue : Nat) (s : State) : Res :=
  .next <|
    let di := s.die die
    let q := di.queue queue
    if s.nextQueue die != some queue || 256 ≤ s.heldLaunches die then s
    else
      let (s, r) := s.loadMany die q.ctx q.cls (q.base / 512 * 512 + 512 * (q.head % 2 ^ q.logn)) 8
      let s := s.modDie die fun di =>
        { di.modQueue queue fun q => { q with head := (q.head + 1) % 2 ^ 32 } with
          lastQueue := Tab.set di.lastQueue q.prio queue }
      s.submit die { die := die, gseq := 0, ctx := q.ctx, prio := q.prio, cls := q.cls, record := 0, queue := queue } r

/-! ### Whether a launch may place a team now (R356, R361, R364, R369, R376) -/

/-- R376: the flag of the next team's tile is set. -/
def State.flagSet (s : State) (l : Launch) (i : Nat) : Bool :=
  if !recDep l.record then true
  else
    match s.loadFor l.die l.ctx l.cls ((recFlaga l.record + 8 * (i / recDiv l.record)) % 2 ^ 57) 8 with
    | (_, some v) => v % 2 ^ 32 != 0
    | (_, none) => false

/-- R364: gtc() has passed the deadline of a launch's graph. -/
def State.pastDeadline (s : State) (l : Launch) : Bool :=
  match l.node with
  | none => false
  | some (gs, _) =>
    let g := (s.die l.die).graph gs
    g.dl != 0 && decide (g.dl < s.gtc l.die)

/-- R356: no team of a later record of a queue before every team of an earlier one. -/
def State.queueBehind (s : State) (id : Nat) (l : Launch) : Bool :=
  l.node.isNone && s.launches.any fun p =>
    decide (p.1 < id) && p.2.die == l.die && p.2.node.isNone && p.2.queue == l.queue && p.2.waiting

/-- R369: the effective priority of a waiting launch. -/
def State.launchPrio (s : State) (l : Launch) : Nat :=
  match l.node with
  | none => l.prio
  | some (gs, n) => if ((s.die l.die).graph gs).edgeTab.any fun e => e.overfull && e.cons == n then 63 else l.prio

/-- R361: cores in the target of another waiting launch of no lower priority. -/
def State.blockedCores (s : State) (id : Nat) (l : Launch) : List Nat :=
  s.launches.flatMap fun p =>
    if p.1 != id && p.2.die == l.die && decide (s.launchPrio l ≤ s.launchPrio p.2) then p.2.target else []

/-- A team is resident in a cluster. -/
def State.clusterUsed (s : State) (c : Nat) : Bool :=
  s.teams.any fun p => p.2.resident && p.2.cores.any fun k => coreCluster k == c

/-- R327: from the moment no team is resident, a cluster with a mode change pending takes none. -/
def State.switching (s : State) (c : Nat) : Bool :=
  let cl := s.cluster c
  cl.switching || (cl.fuse != cl.act && !s.clusterUsed c)

/-- R327: at the first moment at which no team is resident, a cluster's switch begins, and a write of FUSE no longer
cancels it. -/
def State.beginSwitches (s : State) : State :=
  { s with clusters := s.clusters.map fun (x : Nat × Cluster) => (x.1, { x.2 with switching := s.switching x.1 }) }

/-- R381: saved teams of a launch that a spatial order has vacated. -/
def State.savedTeams (s : State) (id : Nat) : List Nat :=
  (s.teams.filter fun p => p.2.out && !p.2.ended && p.2.launch == id).map Prod.fst

/-- The cores of a cluster named by a mask of eight bits. -/
def maskCores (c m : Nat) : List Nat := ((List.range 8).filter fun k => bitOf m k).map fun k => 8 * c + k

def State.rooms (s : State) (c : Nat) : List Room := (List.range 8).map fun k => s.room (8 * c + k)

/-- R360: a team fits cores of a cluster now. -/
def State.fitsNow (s : State) (ns : List Need) (c : Nat) (ks : List Nat) : Bool :=
  !s.switching c && setFits (s.rooms c) ns (ks.map (· % 8))

/-! ### Placing a team (R362, Table 2.5) -/

def insertKey (x : Nat × Member) : List (Nat × Member) → List (Nat × Member)
  | [] => [x]
  | y :: r => if x.1 < y.1 then x :: y :: r else y :: insertKey x r

/-- Members in a row from slot 0, each aligned to its width (R180), with the slots the row takes. -/
def layRow (ms : List Member) : List (Member × Nat) × Nat :=
  ms.foldl (fun a m =>
    let o := roundUp a.2 m.width
    (a.1 ++ [(m, o)], o + m.width)) ([], 0)

/-- The slots of a core's groups, relative to the run: in an order the scheduler chooses (log entry 8), or the widest
first, which fills the run without a gap. -/
def layMembers (ms : List Member) (slots free : Nat) : List (Member × Nat) :=
  let sortBy := fun (key : Nat × Member → Nat) =>
    ((((List.range ms.length).zip ms).foldl (fun r x => insertKey (key x, x.2) r) []).map Prod.snd)
  let any := layRow (sortBy fun x => Config.choice (free + x.1))
  if any.2 ≤ slots then any.1 else (layRow (sortBy fun x => 64 - x.2.width)).1

/-- One of a list, by a free choice. -/
def pickOf (xs : List Nat) (free : Nat) : Nat := xs.getD (Config.choice free % xs.length) 0

/-- R362: the rows of a window that last held another context's bytes are cleared; those of the run that lie outside
the window count as no context's from now on (log entry 32). -/
def State.enterRows (s : State) (k ctx base size : Nat) (run : Nat × Nat) : State :=
  let rows := (List.range (run.2 / 2048)).map fun i => run.1 / 2048 + i
  rows.foldl (fun (s : State) r =>
    let key := 256 * k + r
    let mine := decide (base ≤ 2048 * r) && decide (2048 * r < base + size)
    let s := if mine && Tab.get? s.lastCtx key != some ctx then
        { s with scratch := Tab.modify s.scratch k fun m =>
            List.filter (fun c => decide (c.1 < 2048 * r) || decide (2048 * r + 2048 ≤ c.1)) m }.mendWords k (2048 * r) 2048
      else s
    { s with lastCtx := if mine then Tab.set s.lastCtx key ctx else Tab.erase s.lastCtx key }) s

/-- Where a team's state on one core lies: slots, window, run. -/
structure Spot where
  core : Nat
  need : Need
  slot0 : Nat
  sbase : Nat
  run : Nat × Nat
  deriving DecidableEq, Repr, Inhabited

/-- A spot on each core, among those that fit, by free choices; the window begins its run, or ends it, what lies outside
the window being then behind it or before it (log entry 8). -/
def State.spots (s : State) (ns : List Need) (ks : List Nat) : State × List Spot :=
  (ks.zip ns).foldl (fun (a : State × List Spot) p =>
    let (s, sp) := a
    let r := s.room p.1
    let b := pickOf (r.spanStarts p.2) (s.free + 1)
    ({ s with free := s.free + 3 }, sp ++ [
      { core := p.1, need := p.2, slot0 := pickOf (r.slotStarts p.2) s.free, run := (b, p.2.run)
        sbase := b + p.2.lead * (Config.choice (s.free + 2) % 2) }])) (s, [])

/-- A team takes its spots: registers, engine, scratchpad. -/
def State.takeSpots (s : State) (t ctx stash : Nat) (sp : List Spot) : State :=
  sp.foldl (fun (s : State) p =>
    (s.modCore p.core fun c =>
      { c with
        pool := c.pool - p.need.regs - p.need.reserve
        regCtxs := if c.regCtxs.contains ctx then c.regCtxs else c.regCtxs ++ [ctx]
        marrow := if p.need.mx then { owner := some t, stashSize := stash } else c.marrow }).enterRows p.core ctx p.sbase
          p.need.size p.run) s

/-- Table 11.6 at launch: the record's policies, and the context's. -/
def State.launchCpol (s : State) (d ctx r : Nat) : BitVec 57 :=
  let e := s.ctxEntry d ctx
  BitVec.ofNat 57 (packFields [(bitsOf r 176 14, 14), (bitsOf r 190 14, 14), (bitsOf r 204 14, 14), (ctxPolicy e, 14),
    (boolNat (ctxCompat e), 1)])

/-- s0-s7 at launch (R362, R371). -/
def launchScalars (l : Launch) (sp : Nat) : Tab Word64 :=
  ((List.range 8).map fun i =>
    (i, BitVec.ofNat 64 (if i == 0 then l.arg.getD (recArg l.record 0) else recArg l.record i))) ++ [(62, BitVec.ofNat 64 sp)]

/-- The groups of a team on one core of a grouped kernel (Table 2.5, R362). -/
def State.newGroups (s : State) (t : Nat) (l : Launch) (p : Spot) : List Group :=
  let r := l.record
  let lay := layMembers p.need.members p.need.slots s.free
  (List.range p.need.members.length).filterMap fun i =>
    (p.need.members[i]?).map fun m =>
      let ro := mkRole (recRole r m.role)
      let low := recScr r * 1024 + i * recStk r * 4
      let slot := ((lay.find? fun x => x.1 == m).map Prod.snd).getD 0
      let before := ((p.need.members.take i).map fun m => (m.width - 16) * 32).sum
      { team := t, role := m.role, num := m.num, core := p.core, width := m.width, slot0 := p.slot0 + slot
        lanes := List.replicate m.width {}
        scalars := launchScalars l (low + recStk r * 4)
        frontier := [{ pc := ro.entry, lanes := List.range m.width }]
        shared := { stklim := BitVec.ofNat 19 low, cpol := s.launchCpol l.die l.ctx r }
        spill := (before, (m.width - 16) * 32)
        entering := true, readySince := s.cycle, lastIssue := s.cycle }

/-- The free fibres of a stream team (R51, R52, R362). They belong to no fixed group, and sr.grp reads 0 in each (log
entry 42). -/
def State.newFibres (s : State) (t : Nat) (l : Launch) (p : Spot) : List Group :=
  let r := l.record
  let n := (p.need.members.map Member.width).sum
  (List.range n).map fun f =>
    let sp := recScr r * 1024 + (f + 1) * recStk r * 4
    { team := t, core := p.core, slot0 := p.slot0 + f, lanes := [{}]
      scalars := launchScalars l sp, frontier := [{ pc := roleEntry (recRole r 0), lanes := [0] }]
      sp0 := BitVec.ofNat 64 sp, entering := true, readySince := s.cycle, lastIssue := s.cycle }

/-- Groups enter the machine under fresh numbers, their windows where their core's register file has room. -/
def State.addGroups (s : State) (gs : List Group) : State :=
  (gs.foldl (fun (s : State) g => { s with groups := Tab.set s.groups s.seq g, seq := s.seq + 1 }) s).placeWindows
    ((List.range gs.length).map (s.seq + ·))

def newPod (p : Nat) : Pod :=
  { count := podSlots p, bytes := podBytes p, home := podHome p, base := podBase p
    slots := List.replicate (podSlots p) .free, fph := List.replicate (podSlots p) false }

/-- A launch's next team is placed on cores (R361, R362). -/
def State.placeTeam (s : State) (id : Nat) (ks : List Nat) : State :=
  match Tab.get? s.launches id with
  | none => s
  | some l =>
    let r := l.record
    let (s, sp) := s.spots (recNeeds r) ks
    let t := s.seq
    let i := l.next
    let stream := recStream r
    let tm : Team :=
      { launch := id, ctx := l.ctx, index := i, stream := stream
        x := BitVec.ofNat 32 (i % recX r), y := BitVec.ofNat 32 (i / recX r % recY r), z := BitVec.ofNat 32 (i / (recX r * recY r))
        cores := ks, roles := (List.range (recRoles r)).map fun j => mkRole (recRole r j)
        sbase := sp.map Spot.sbase, ssize := sp.map fun p => p.need.size, srun := sp.map Spot.run
        slot0 := sp.map Spot.slot0, slots := sp.map fun p => p.need.slots
        shared := { stklim := BitVec.ofNat 19 (recStk r * 4), cpol := s.launchCpol l.die l.ctx r }
        regBase := sp.map fun p => p.need.regs, reserve := sp.map fun p => p.need.reserve
        prio := l.prio, placed := s.gtc l.die, pods := (List.range (recPods r)).map fun j => newPod (recPod r j)
        node := l.node, interval := l.interval, task := l.task }
    let s := { s with
      seq := s.seq + 1, teams := Tab.set s.teams t tm
      launches := Tab.modify s.launches id fun l => { l with next := l.next + 1, live := l.live + 1, target := [] } }
    let s := s.takeSpots t l.ctx (recStash r * 2048) sp
    let s := ((List.range sp.length).zip sp).foldl (fun (s : State) p =>
      s.addGroups (if stream then s.newFibres t l p.2 else s.newGroups t l p.2)) s
    { s with free := s.free + 32768 }

/-- R361: the launch waits for room with a target of cores on which its next team would fit once they are empty. -/
def State.aim (s : State) (id : Nat) (ks : List Nat) : State :=
  { s with launches := Tab.modify s.launches id fun l => { l with target := ks } }

/-- Core sets of a die for teams of `n` cores, the search beginning at a free choice (log entry 8). -/
def dieSets (d n free : Nat) : List (Nat × List Nat) :=
  let all := (List.range 16).flatMap fun c =>
    (coreSets n).map fun ks => (16 * d + c, ks.map fun k => 8 * (16 * d + c) + k)
  all.rotateLeft (Config.choice free % all.length)

/-- GANG: every team in one step, or none. -/
def State.placeGang (s : State) (id : Nat) (l : Launch) (blocked : List Nat) : Nat → Option State
  | 0 => some s
  | n + 1 =>
    let ns := recNeeds l.record
    let sets := dieSets l.die ns.length s.free
    match sets.find? fun x => s.fitsNow ns x.1 x.2 && !(x.2.any fun k => blocked.contains k) with
    | none => none
    | some x => ({ s with free := s.free + 1 }.placeTeam id x.2).placeGang id l blocked n

/-- The launch may place its next team now, room apart. -/
def State.placeable (s : State) (id : Nat) (l : Launch) : Bool :=
  l.waiting && !s.queueBehind id l && !s.pastDeadline l && (s.savedTeams id).isEmpty &&
    (if recGang l.record then (List.range l.teams).all fun i => s.flagSet l i else s.flagSet l l.next)

/-- TEAM_PLACEMENT (R360, R361, R376): a launch's next team on the cores named, of a cluster of its die; or the
launch waits for room there. -/
def execTeamPlacement (id cluster cores : Nat) (s : State) : Res :=
  .next <|
    match Tab.get? s.launches id with
    | none => s
    | some l =>
      let ns := recNeeds l.record
      let ks := maskCores cluster cores
      if cluster / 16 != l.die || ks.length != ns.length then s
      else if !s.placeable id l then s.aim id []
      else
        let blocked := s.blockedCores id l
        if recGang l.record then
          match s.placeGang id l blocked l.teams with
          | some s => s
          | none => s.draw.aim id ks
        else if s.fitsNow ns cluster ks && !(ks.any fun k => blocked.contains k) then s.placeTeam id ks
        else s.aim id ks

end Sys2Proof.Machine
end

