-- ==== Sys2Proof/Machine/Tasks.lean ====
section
/-! DEFINITION. Task graphs (15 R364-R371) and the task-system commands (15 R372-R375). -/

namespace Sys2Proof.Machine

/-! ### Edge and node records (Tables 15.7, 15.8) -/

def Edge.base (e : Edge) : Nat := bitsOf e.record 0 57
def Edge.rsz (e : Edge) : Nat := 16 * (bitsOf e.record 68 4 + 1)
def Edge.ordered (e : Edge) : Bool := bitOf e.record 72
def Edge.hiw (e : Edge) : Nat := bitsOf e.record 88 16

def Node.tmpl (n : Node) : Nat := bitsOf n.record 0 57
def Node.kind (n : Node) : Nat := bitsOf n.record 64 2
def Node.inEdge (n : Node) : Nat := bitsOf n.record 66 8
def Node.thr (n : Node) : Nat := bitsOf n.record 80 16
def Node.maxw (n : Node) : Nat := bitsOf n.record 96 16 + 1
def Node.maxt (n : Node) : Nat := bitsOf n.record 112 16
def Node.grain (n : Node) : Nat := bitsOf n.record 128 64

def Graph.edge? (g : Graph) (e : Nat) : Option Edge := g.edgeTab[e]?
def Graph.node? (g : Graph) (n : Nat) : Option Node := g.nodeTab[n]?

def State.graphOf (s : State) (d gs : Nat) : Graph := (s.die d).graph gs

def State.modEdge (s : State) (d gs e : Nat) (f : Edge → Edge) : State :=
  s.modGraph d gs fun g => { g with edgeTab := g.edgeTab.modify e f }

def State.modNode (s : State) (d gs n : Nat) (f : Node → Node) : State :=
  s.modGraph d gs fun g => { g with nodeTab := g.nodeTab.modify n f }

/-! ### Starting a graph (R364) -/

def edgeOk (nnm1 r : Nat) : Bool :=
  let cap := 2 ^ bitsOf r 64 4
  let hiw := bitsOf r 88 16
  bitsOf r 57 7 == 0 && bitsOf r 73 7 == 0 && bitsOf r 128 128 == 0 && bitsOf r 80 8 ≤ nnm1 && bitsOf r 64 4 ≤ 14 &&
    bitsOf r 0 57 % 64 == 0 && hiw ≤ cap && (hiw == 0 || bitsOf r 104 16 < hiw)

/-- A node record against the edge table; THR has no limit for KIND 2. -/
def nodeOk (edges : List Nat) (k r : Nat) : Bool :=
  let kind := bitsOf r 64 2
  let grain := bitsOf r 128 64
  let mw := bitsOf r 96 16
  bitsOf r 57 7 == 0 && bitsOf r 74 6 == 0 && bitsOf r 192 64 == 0 && kind != 3 && bitsOf r 0 57 % 64 == 0 &&
    (if kind == 2 then bitsOf r 66 8 == 0 && mw == 0 && 1 ≤ grain && grain ≤ 2 ^ 63
    else
      grain == 0 && (kind == 1 || mw == 0) &&
        match edges[bitsOf r 66 8]? with
        | some e => bitsOf e 80 8 == k && 1 ≤ bitsOf r 80 16 && bitsOf r 80 16 ≤ 2 ^ bitsOf e 64 4
        | none => false)

/-- Records of 32 bytes read in order: those read, and whether one could not be. -/
def State.loadRecords (s : State) (d ctx cls va : Nat) : Nat → State × List Nat × Bool
  | 0 => (s, [], true)
  | n + 1 =>
    match s.loadFor d ctx cls va 32 with
    | (s, none) => (s, [], false)
    | (s, some v) =>
      let (s, vs, ok) := s.loadRecords d ctx cls ((va + 32) % 2 ^ 57) n
      (s, v :: vs, ok)

/-- The index of the first record that a check fails on. -/
def firstBad (ok : Nat → Nat → Bool) (rs : List Nat) : Option Nat :=
  (List.range rs.length).find? fun k => !ok k (rs.getD k 0)

/-- Table 19.10, KIND 0x07 with WHAT 1: VALUE of a graph that may not start; none for one that may. A table that cannot
be read counts before a record that is wrong, and the node table before the edge table (DEDUCED, log entry 33). -/
def graphFault (g : Graph) (ns es : List Nat) (nOk eOk : Bool) : Option Nat :=
  if g.nodes % 64 != 0 || g.edges % 64 != 0 then some 0x3FF
  else if !nOk then some (2 ^ 9 + ns.length)
  else if !eOk then some (2 ^ 9 + 2 ^ 8 + es.length)
  else
    match firstBad (nodeOk es) ns with
    | some k => some k
    | none => (firstBad (fun _ => edgeOk g.nnm1) es).map fun k => 2 ^ 8 + k

def newEdge (r : Nat) : Edge :=
  { record := r, slots := List.replicate (2 ^ bitsOf r 64 4) .free, openp := bitsOf r 120 8 }

/-- GRAPH_START (R364). -/
def execGraphStart (die slot : Nat) (s : State) : Res :=
  .next <|
    let g := s.graphOf die slot
    if !g.starting then s
    else
      let aligned := g.nodes % 64 == 0 && g.edges % 64 == 0
      let (s, ns, nOk) := if aligned then s.loadRecords die g.ctx g.cls g.nodes (g.nnm1 + 1) else (s, [], true)
      let (s, es, eOk) := if aligned then s.loadRecords die g.ctx g.cls g.edges (g.nem1 + 1) else (s, [], true)
      match graphFault g ns es nOk eOk with
      | some v =>
        (s.modGraph die slot fun g => { g with starting := false }).log die (0x240 + die) 0x07
          [(1, 1), (slot, 10), (g.ctx, 12), (v, 32)]
      | none =>
        s.modGraph die slot fun g =>
          { g with
            starting := false, run := true, nextTask := 0
            nodeTab := ns.map fun r => { record := r }, edgeTab := es.map newEdge }

/-! ### Claiming records (R366, R367) -/

/-- The full slots of an edge: number, slot, time. -/
def Edge.fulls (e : Edge) : List (Nat × Nat × Nat) :=
  (List.range e.slots.length).filterMap fun i =>
    match e.slots.getD i .free with
    | .full n t => some (n, i, t)
    | _ => none

def insertNum (x : Nat × Nat) : List (Nat × Nat) → List (Nat × Nat)
  | [] => [x]
  | y :: r => if x.1 < y.1 then x :: y :: r else y :: insertNum x r

/-- Pairs in ascending order of the first. -/
def sortNum (xs : List (Nat × Nat)) : List (Nat × Nat) := xs.foldl (fun r x => insertNum x r) []

/-- R367: the order in which full records are claimed: ascending, or as the device chooses (log entry 8). -/
def Edge.claimOrder (e : Edge) (free : Nat) : List (Nat × Nat) :=
  let xs := e.fulls.map fun x => (x.1, x.2.1)
  if e.ordered then sortNum xs
  else (sortNum (xs.map fun x => (Config.choice (free + x.2), x.2))).map fun y =>
    (((xs.find? fun x => x.2 == y.2).map Prod.fst).getD 0, y.2)

/-- R366, R373: `n` full records are claimed for a launch's team. -/
def State.claim (s : State) (d gs ei n launch : Nat) : State :=
  match (s.graphOf d gs).edge? ei with
  | none => s
  | some e =>
    let xs := (e.claimOrder s.free).take n
    let s := { s with free := s.free + 2 ^ 14 }
    s.modEdge d gs ei fun e =>
      { e with slots := xs.foldl (fun sl x => sl.set x.2 (.claimed x.1 launch)) e.slots }

/-! ### Launching node teams (R364, R366) -/

/-- Active teams of a node. -/
def State.nodeTeams (s : State) (d gs n : Nat) : Nat :=
  (s.launches.filter fun p => p.2.die == d && p.2.node == some (gs, n) && !p.2.ended).length

/-- A launch of the node may be made at all: the graph runs, not past its deadline; no holdoff; MAXT. -/
def State.nodeMay (s : State) (d gs n : Nat) (nd : Node) : Bool :=
  let g := s.graphOf d gs
  g.run && g.en && (g.dl == 0 || decide (s.gtc d ≤ g.dl)) && nd.holdoff.isNone &&
    (nd.maxt == 0 || decide (s.nodeTeams d gs n < nd.maxt))

/-- R366: the performance time of the oldest full record. -/
def Edge.oldest (e : Edge) : Option Nat :=
  e.fulls.foldl (fun m x => match m with | none => some x.2.2 | some t => some (min t x.2.2)) none

/-- R366: the oldest full record of a coalescing node has waited its time. -/
def State.waited (s : State) (d : Nat) (nd : Node) (e : Edge) : Bool :=
  match e.oldest with
  | some t => decide (t + nd.maxw ≤ s.gtc d)
  | none => false

/-- R366: the launch condition. -/
def State.nodeDue (s : State) (d : Nat) (nd : Node) (e : Edge) : Bool :=
  match nd.kind with
  | 0 => 1 ≤ e.full
  | 1 => nd.thr ≤ e.full || s.waited d nd e || (e.openp == 0 && 1 ≤ e.full)
  | _ => false

/-- A record with a grid of 1 x 1 x 1 (R364). -/
def oneTeam (r : Nat) : Nat := setBits (setBits (setBits r 32 31 0) 64 31 0) 96 31 0

/-- A team of a node is launched from a template read now, or refused: then nothing of the node for 65,536 ticks. Gives
the launch's number. -/
def State.launchNode (s : State) (d gs n : Nat) (l : Launch) : State × Option Nat :=
  let g := s.graphOf d gs
  match g.node? n with
  | none => (s, none)
  | some nd =>
    let (s, r) := s.loadMany d g.ctx g.cls nd.tmpl 8
    let id := s.seq
    let s := s.submit d { l with die := d, ctx := g.ctx, prio := g.prio, cls := g.cls, node := some (gs, n) } r
    if (Tab.get? s.launches id).isSome && s.seq != id then
      ({ s with launches := Tab.modify s.launches id fun l => { l with record := oneTeam l.record } }, some id)
    else (s.modNode d gs n fun nd => { nd with holdoff := some (s.gtc d + 65536) }, none)

/-- A node of KIND 0 or 1 launches a team, which claims its records. -/
def State.nodeLaunch (s : State) (d gs n : Nat) (due : Node → Edge → Bool) : State :=
  let g := s.graphOf d gs
  match g.node? n with
  | none => s
  | some nd =>
    match g.edge? nd.inEdge with
    | none => s
    | some e =>
      if nd.kind < 2 && s.nodeMay d gs n nd && due nd e then
        match s.launchNode d gs n { die := d, gseq := 0, ctx := g.ctx, prio := g.prio, cls := g.cls, record := 0 } with
        | (s, some id) => s.claim d gs nd.inEdge (min nd.thr e.full) id
        | (s, none) => s
      else s

/-- NODE_TEAM_LAUNCH (R366). -/
def execNodeTeamLaunch (die slot node : Nat) (s : State) : Res := .next (s.nodeLaunch die slot node (s.nodeDue die))

/-- COALESCE_TIMER_EXPIRY (R366): the wait of the oldest full record launches the node's team. -/
def execCoalesceTimerExpiry (die slot node : Nat) (s : State) : Res :=
  .next (s.nodeLaunch die slot node fun nd e => nd.kind == 1 && s.waited die nd e)

/-- NODE_LAUNCH_HOLDOFF_EXPIRY (R364). -/
def execNodeLaunchHoldoffExpiry (die slot node : Nat) (s : State) : Res :=
  .next <|
    s.modNode die slot node fun nd =>
      match nd.holdoff with
      | some t => if t ≤ s.gtc die then { nd with holdoff := none } else nd
      | none => nd

/-- GRAPH_DEADLINE_EXPIRY (R364): the graph's waiting launches, which place no team, hold no target. -/
def execGraphDeadlineExpiry (die slot : Nat) (s : State) : Res :=
  .next <|
    let g := s.graphOf die slot
    if g.dl != 0 && decide (g.dl < s.gtc die) then
      { s with launches := s.launches.map fun p =>
          if p.2.die == die && (p.2.node.map Prod.fst) == some slot then (p.1, { p.2 with target := [] }) else p }
    else s

/-! ### Range nodes (R370, R371) -/

/-- The active team with the greatest remaining length, the older on a tie: its number, cur and end, and task. -/
def State.longest (s : State) (d gs n : Nat) : Option (Nat × Nat × Nat × Nat) :=
  s.teams.foldl (fun (best : Option (Nat × Nat × Nat × Nat)) p =>
    if p.2.resident && s.teamDie p.2 == d && p.2.node == some (gs, n) then
      match p.2.interval, p.2.task with
      | some (a, b, _), some k =>
        match best with
        | some (_, c, e, _) => if e - c < b - a then some (p.1, a, b, k) else best
        | none => some (p.1, a, b, k)
      | _, _ => best
    else best) none

/-- R370: what the node answers a core that asks: a pending task, or an interval split off a team, with its task. -/
inductive RangeWork where
  | task (t : RangeTask)
  | split (team mid fin : Nat) (t : RangeTask)
  deriving DecidableEq, Repr, Inhabited

def State.rangeWork (s : State) (d gs n : Nat) (nd : Node) : Option RangeWork :=
  match nd.tasks with
  | t :: _ => some (.task t)
  | [] =>
    match s.longest d gs n with
    | none => none
    | some (team, cur, fin, k) =>
      let r := fin - cur
      if r < 2 * nd.grain then none
      else
        (nd.running.find? fun x => x.task.id == k).map fun x =>
          .split team (cur + nd.grain * (r / (2 * nd.grain))) fin x.task

def RangeWork.of (w : RangeWork) : RangeTask := match w with | .task t => t | .split _ _ _ t => t
def RangeWork.span (w : RangeWork) : Nat × Nat := match w with | .task t => (t.lo, t.hi) | .split _ m e _ => (m, e)

/-- The task or interval passes to a new team. -/
def State.takeWork (s : State) (d gs n : Nat) (w : RangeWork) : State :=
  match w with
  | .task t => s.modNode d gs n fun nd => { nd with tasks := nd.tasks.drop 1, running := nd.running ++ [{ task := t, live := 1 }] }
  | .split team m _ t =>
    (s.modTeam team fun tm => { tm with interval := tm.interval.map fun x => (x.1, m, x.2.2) }).modNode d gs n fun nd =>
      { nd with
        running := nd.running.map fun r => if r.task.id == t.id then { r with live := r.live + 1 } else r
        splitAt := some s.cycle }

/-- RANGE_WORK_REQUEST (R370): a core that can take a team of the node, and for which no other launch waits, asks for
work; the team is placed there in the same step. -/
def execRangeWorkRequest (die slot node : Nat) (s : State) : Res :=
  .next <|
    let g := s.graphOf die slot
    match g.node? node with
    | none => s
    | some nd =>
      if nd.kind != 2 || !s.nodeMay die slot node nd then s
      else
        match s.rangeWork die slot node nd with
        | none => s
        | some w =>
          let l : Launch :=
            { die := die, gseq := 0, ctx := g.ctx, prio := g.prio, cls := g.cls, record := 0
              arg := some w.of.arg, interval := some (w.span.1, w.span.2, nd.grain), task := some w.of.id }
          match s.loadMany die g.ctx g.cls nd.tmpl 8 with
          | (s, none) => (s.launchNode die slot node l).1
          | (s, some r) =>
            if recReason r != 0 then (s.launchNode die slot node l).1
            else if !s.flagSet { l with record := oneTeam r } 0 then s.draw
            else
              let ns := recNeeds r
              let blocked := s.blockedCores s.seq { l with node := some (slot, node) }
              let sets := dieSets die ns.length s.free
              match sets.find? fun x => s.fitsNow ns x.1 x.2 && !(x.2.any fun k => blocked.contains k) with
              | none => s.draw
              | some x =>
                match s.draw.launchNode die slot node l with
                | (s, none) => s
                | (s, some id) => (s.placeTeam id x.2).takeWork die slot node w

/-! ### Task commands at issue (R372) -/

def isTask (i : Instr) : Bool :=
  match i with
  | .tspawn _ _ | .trange _ _ | .tsend _ _ | .tdone _ _ | .trecv _ _ | .tqry _ _ | .tclose _ _ | .tgrain _ _ => true
  | _ => false

/-- The edge or node number, the graph slot, and the count of a task command. -/
def taskE (f : Fields) : Nat := f.xf 0 8
def taskGs (f : Fields) : Nat := f.xf 8 6
def taskN (f : Fields) : Nat := f.xf 14 8 + 1

/-- The running graph a command of the issuing team names. -/
def State.taskGraph (s : State) (f : Fields) : Option Graph :=
  let g := s.graphOf (coreDie s.iss.core) (taskGs f)
  if g.run && g.ctx == (s.teamOf s.iss.team).ctx then some g else none

def State.taskEdge (s : State) (f : Fields) : Option Edge := (s.taskGraph f).bind fun g => g.edge? (taskE f)

/-- The team is one of the edge's consumer node. -/
def Team.consumes (t : Team) (gs : Nat) (e : Edge) : Bool := t.node == some (gs, e.cons)

/-- Table 15.10: 0x63 on what the command names. -/
def State.taskInvalid (s : State) (i : Instr) : Bool :=
  let tm := s.teamOf s.iss.team
  match i with
  | .tspawn _ f =>
    let q := (s.die (coreDie s.iss.core)).queue (f.xf 0 10)
    !q.en || q.ctx != tm.ctx
  | .trange _ f => ((s.taskGraph f).bind fun g => g.node? (taskE f)).map Node.kind != some 2
  | .tsend _ f | .tqry _ f | .tclose _ f => (s.taskEdge f).isNone
  | .tdone _ f | .trecv _ f => match s.taskEdge f with | some e => !tm.consumes (taskGs f) e | none => true
  | .tgrain _ _ => tm.interval.isNone
  | _ => true

/-- Table 15.10: alignment and bytes of the window operand, and whether it is a source. -/
def State.taskWindow (s : State) (i : Instr) : Option (Nat × Nat × Bool) :=
  let rsz := fun (f : Fields) => ((s.taskEdge f).map Edge.rsz).getD 0
  match i with
  | .tspawn _ _ => some (64, 512, true)
  | .trange _ _ => some (32, 32, true)
  | .tsend _ f => some (16, rsz f, true)
  | .trecv _ f => some (16, taskN f * rsz f, false)
  | _ => none

/-- The operand code of a window operand (Table 11.1): TRANGE's is a descriptor (DEDUCED, log entry 33). -/
def taskSub (i : Instr) : Nat := match i with | .trange _ _ => 4 | _ => 1

/-- A range descriptor that TRANGE refuses (Table 15.9). -/
def rangeBad (d : Nat) : Bool := decide (bitsOf d 64 64 < bitsOf d 0 64) || bitsOf d 249 7 != 0

/-- R369: a team that issues TSEND to an edge that is over is descheduled, unless it is the consumer's. -/
def State.holdBack (s : State) (d t gs e : Nat) : State :=
  match (s.graphOf d gs).edge? e with
  | none => s
  | some ed =>
    s.modTeam t fun tm =>
      if !ed.overfull || tm.consumes gs ed || tm.descheduled.contains (gs, e) then tm
      else { tm with descheduled := tm.descheduled ++ [(gs, e)] }

/-- An accepted command: its window address and the bytes it copied. TGRAIN's result scalars are pending too. -/
def State.takeTask (s : State) (i : Instr) (f : Fields) (u a data : Nat) : State :=
  let svc := match i with
    | .tspawn _ _ => ((s.die (coreDie s.iss.core)).queue (f.xf 0 10)).cls
    | _ => (s.graphOf (coreDie s.iss.core) (taskGs f)).cls
  let o := { s.newOp u i 2 (f.d.toNat % 64) with args := [a, data], svc := svc }
  let s := s.accept o
  match i with
  | .tgrain _ _ => s.modGroup o.gid fun gr => { gr with pending := gr.pending ++ [f.b.toNat % 64, f.c.toNat % 64] }
  | .tsend _ _ => s.holdBack (coreDie s.iss.core) o.team (taskGs f) (taskE f)
  | _ => s

/-- One execution of a task command (R372). -/
def State.taskOne (s : State) (i : Instr) (f : Fields) (u : Nat) : State :=
  if s.iss.out != .done then s
  else
    match s.iss.at? u with
    | none => s
    | some (g, _) =>
      if s.engineBusy g 2 false then s.stall
      else
        match s.taskWindow i with
        | none => if s.taskInvalid i then s.raise 0x63 else s.takeTask i f u 0 0
        | some (al, n, src) =>
          let a := s.sreg u (f.a.toNat % 64) % 2 ^ 32
          if a % al != 0 then s.raise 0x24 (taskSub i) a
          else if s.taskInvalid i then s.raise 0x63
          else if s.outOfWindow a n then s.raise 0x26 (taskSub i) a
          else if src then
            match s.windowBytes a n with
            | (s, .error e) => s.raise e
            | (s, .ok d) =>
              match i with
              | .trange _ _ => if rangeBad d then s.raise 0x63 else s.takeTask i f u a d
              | _ => s.takeTask i f u a d
          else s.takeTask i f u a 0

def taskExec (g : Guard) (f : Fields) (i : Instr) (s : State) : Res :=
  issued s fun _ => List.foldl (fun t u => t.taskOne i f u) s (s.onceUnits g)

/-- TSPAWN (R373). -/
def execTspawn (g : Guard) (f : Fields) (s : State) : Res := taskExec g f (.tspawn g f) s
/-- TRANGE (R373). -/
def execTrange (g : Guard) (f : Fields) (s : State) : Res := taskExec g f (.trange g f) s
/-- TSEND (R373). -/
def execTsend (g : Guard) (f : Fields) (s : State) : Res := taskExec g f (.tsend g f) s
/-- TDONE (R373). -/
def execTdone (g : Guard) (f : Fields) (s : State) : Res := taskExec g f (.tdone g f) s
/-- TRECV (R373). -/
def execTrecv (g : Guard) (f : Fields) (s : State) : Res := taskExec g f (.trecv g f) s
/-- TQRY (R373). -/
def execTqry (g : Guard) (f : Fields) (s : State) : Res := taskExec g f (.tqry g f) s
/-- TCLOSE (R373). -/
def execTclose (g : Guard) (f : Fields) (s : State) : Res := taskExec g f (.tclose g f) s
/-- TGRAIN (R373). -/
def execTgrain (g : Guard) (f : Fields) (s : State) : Res := taskExec g f (.tgrain g f) s

/-! ### Records in device memory -/

/-- Sectors that `n` bytes at an address touch, with the first byte and the bytes in each. -/
def spanSectors (va n : Nat) : List (Nat × Nat × Nat) :=
  (List.range ((va + n + 63) / 64 - va / 64)).map fun j =>
    let lo := max va (64 * (va / 64 + j))
    (va / 64 + j, lo, min (va + n) (64 * (va / 64 + j + 1)) - lo)

/-- Writes `n` bytes of an operation at an address, sector by sector, while none of them waits; its units are those left.
The command has moved nothing until its record stands whole. -/
def State.opStore (s : State) (id va v n : Nat) : State :=
  let us := spanSectors va n
  let s := s.modOp id fun o => { o with rest := us.map Prod.fst, status := 0 }
  (s.runUnits id (fun s id u =>
    match us.find? fun x => x.1 == u, s.op id with
    | some x, some o =>
      s.opWrite id o (64 * x.1 % 2 ^ 57) (bitsOf v (8 * (x.2.1 - va)) (8 * x.2.2) * 2 ^ (8 * (x.2.1 % 64)))
        ((2 ^ x.2.2 - 1) * 2 ^ (x.2.1 % 64)) 0 u 0
    | _, _ => s) (us.map Prod.fst)).modOp id fun o => { o with moved := false }

/-- Reads `n` bytes of an operation at their homes: no older copy is used (R375). None: one of them waits in its home's
queue. -/
def State.opLoad (s : State) (id : Nat) (o : Op) (va n : Nat) : State × Option (Nat × Nat) :=
  (spanSectors va n).foldl (fun (a : State × Option (Nat × Nat)) x =>
    match a with
    | (s, none) => (s, none)
    | (s, some (v, st)) =>
      match s.opAddr o (64 * x.1) .read with
      | (s, .error e) => (s, some (v, max st e))
      | (s, .ok y) =>
        match s.goesNow id o y with
        | (s, false) => (s, none)
        | (s, true) =>
          let (s, r) := if paRegion y.pa == 1 then s.readSector o.core o.ctx y else s.readHome (coreDie o.core) y.pa
          (s.serveAs o y, some (v + bitsOf r.val (8 * (x.2.1 % 64)) (8 * x.2.2) * 2 ^ (8 * (x.2.1 - va)), max st r.status)))
    (s, some (0, 0))

/-! ### Commands performed (R373-R375) -/

/-- The status word's parts of a performed operation. -/
def State.setResult (s : State) (id status detail info : Nat) : State :=
  s.modOp id fun o => { o with status := status, detail := detail, info := info, moved := true }

def Op.die (o : Op) : Nat := coreDie o.core

/-- TSPAWN: the record into slot TAIL, and TAIL advanced. -/
def State.doSpawn (s : State) (id : Nat) (o : Op) (f : Fields) : State :=
  let q := f.xf 0 10
  let qu := (s.die o.die).queue q
  if (qu.tail + 2 ^ 32 - qu.head) % 2 ^ 32 == 2 ^ qu.logn then s.setResult id 1 0 0
  else
    let s := s.opStore id (qu.base / 512 * 512 + 512 * (qu.tail % 2 ^ qu.logn)) (o.args.getD 1 0) 512
    match s.op id with
    | none => s
    | some o =>
      if !o.rest.isEmpty then s
      else if o.status != 0 then s.setResult id o.status 0 0
      else
        (s.modDie o.die fun di => di.modQueue q fun x => { x with tail := (x.tail + 1) % 2 ^ 32 }).setResult id 0 0
          (qu.tail % 2 ^ 31)

/-- TRANGE: the task enters the node's pool of 64. -/
def State.doRange (s : State) (id : Nat) (o : Op) (f : Fields) : State :=
  let g := s.graphOf o.die (taskGs f)
  match g.node? (taskE f) with
  | none => s.setResult id 1 0 0
  | some nd =>
    if 64 ≤ nd.tasks.length then s.setResult id 1 nd.tasks.length 0
    else
      let d := o.args.getD 1 0
      let t : RangeTask :=
        { id := g.nextTask, lo := bitsOf d 0 64, hi := bitsOf d 64 64, arg := bitsOf d 128 64, donea := bitsOf d 192 57 }
      ((s.modNode o.die (taskGs f) (taskE f) fun nd => { nd with tasks := nd.tasks ++ [t] }).modGraph o.die (taskGs f)
        fun g => { g with nextTask := g.nextTask + 1 }).setResult id 0 (nd.tasks.length + 1) 0

/-- TGRAIN: the next part of the team's interval. -/
def State.doGrain (s : State) (id : Nat) (o : Op) (f : Fields) : State :=
  match (s.teamOf o.team).interval with
  | none => s.setResult id 3 0 0
  | some (cur, fin, grain) =>
    let m := min (cur + grain) fin
    let b := f.b.toNat % 64
    let c := f.c.toNat % 64
    ((s.modTeam o.team fun tm => { tm with interval := some (m, fin, grain) }).modGroup o.gid fun gr =>
      { ((gr.putScal b cur).putScal c m) with pending := (gr.pending.erase b).erase c }).setResult id
        (if cur == fin then 3 else 0) 0 0

/-- The records of an edge that a launch's team has claimed, ascending, and those it holds, in order of delivery: key and
slot. -/
def Edge.claimedBy (e : Edge) (l : Nat) : List (Nat × Nat) :=
  sortNum ((List.range e.slots.length).filterMap fun i =>
    match e.slots.getD i .free with | .claimed n k => if k == l then some (n, i) else none | _ => none)
def Edge.heldBy (e : Edge) (l : Nat) : List (Nat × Nat) :=
  sortNum ((List.range e.slots.length).filterMap fun i =>
    match e.slots.getD i .free with | .held _ k o => if k == l then some (o, i) else none | _ => none)

/-- The records of `n` bytes at addresses, in order, with the worst status; none while one waits. -/
def State.loadAll (s : State) (id : Nat) (o : Op) (vas : List Nat) (n : Nat) : State × Option (List Nat × Nat) :=
  vas.foldl (fun (a : State × Option (List Nat × Nat)) va =>
    match a with
    | (s, none) => (s, none)
    | (s, some (vs, st)) =>
      match s.opLoad id o va n with
      | (s, some (v, e)) => (s, some (vs ++ [v], max st e))
      | (s, none) => (s, none)) (s, some ([], 0))

/-- TRECV: the claimed records and further full ones to the window, in record order, each then held. -/
def State.doRecv (s : State) (id : Nat) (o : Op) (f : Fields) : State :=
  let gs := taskGs f
  let ei := taskE f
  match (s.graphOf o.die gs).edge? ei with
  | none => s.setResult id 3 0 0
  | some e =>
    let l := (s.teamOf o.team).launch
    let mine := (e.claimedBy l).take (taskN f)
    let more := (e.claimOrder s.free).take (taskN f - mine.length)
    let s := { s with free := s.free + 2 ^ 14 }
    let xs := sortNum (mine ++ more)
    if xs.isEmpty then s.setResult id 3 e.full 0
    else
      match s.loadAll id o (xs.map fun x => e.base + x.2 * e.rsz) e.rsz with
      | (s, none) => s
      | (s, some (vs, st)) =>
      if st != 0 then s.setResult id st 0 0
      else
        let tc := (s.teamOf o.team).cores.idxOf o.core
        let a := (s.teamOf o.team).sbase.getD tc 0 + o.args.getD 0 0
        let s := ((List.range xs.length).zip vs).foldl (fun (s : State) p => s.storeScr o.core (a + p.1 * e.rsz) p.2 e.rsz) s
        let s := s.modEdge o.die gs ei fun e =>
          ((List.range xs.length).zip xs).foldl (fun (e : Edge) p =>
            { e with slots := e.slots.set p.2.2 (.held p.2.1 l (e.delivered)), delivered := e.delivered + 1 }) e
        s.setResult id 0 (((s.graphOf o.die gs).edge? ei).map Edge.full |>.getD 0) xs.length

/-- TDONE: held records become free, those delivered longest ago first. -/
def State.doDone (s : State) (id : Nat) (o : Op) (f : Fields) : State :=
  let gs := taskGs f
  let ei := taskE f
  match (s.graphOf o.die gs).edge? ei with
  | none => s.setResult id 0 0 0
  | some e =>
    let xs := (e.heldBy (s.teamOf o.team).launch).take (taskN f)
    ((s.modEdge o.die gs ei fun e => { e with slots := xs.foldl (fun sl x => sl.set x.2 .free) e.slots }).settleEdge o.die gs
      ei).setResult id 0 xs.length 0

/-- TQRY. -/
def State.doQuery (s : State) (id : Nat) (o : Op) (f : Fields) : State :=
  match (s.graphOf o.die (taskGs f)).edge? (taskE f) with
  | none => s.setResult id 0 0 0
  | some e => s.setResult id 0 e.openp (packFields [(e.free, 15), (e.full, 15)])

/-- TCLOSE. -/
def State.doClose (s : State) (id : Nat) (o : Op) (f : Fields) : State :=
  let key := (taskGs f, taskE f)
  let s := if (s.teamOf o.team).closed.contains key then s
    else (s.modTeam o.team fun tm => { tm with closed := tm.closed ++ [key] }).modEdge o.die key.1 key.2 fun e =>
      { e with openp := e.openp - 1 }
  s.setResult id 0 ((((s.graphOf o.die key.1).edge? key.2).map Edge.openp).getD 0) 0

/-- The command's effect, all but TSEND's. -/
def State.performTask (s : State) (id : Nat) (o : Op) : State :=
  match o.instr with
  | .tspawn _ f => s.doSpawn id o f
  | .trange _ f => s.doRange id o f
  | .tdone _ f => s.doDone id o f
  | .trecv _ f => s.doRecv id o f
  | .tqry _ f => s.doQuery id o f
  | .tclose _ f => s.doClose id o f
  | .tgrain _ f => s.doGrain id o f
  | _ => s

/-- Table 16.3, 16 R394: TSEND and TDONE are releases at scope die. -/
def State.taskMay (s : State) (o : Op) : Bool :=
  match o.instr with
  | .tsend _ _ | .tdone _ _ => s.past o.die (s.group o.gid).horizon
  | _ => true

/-- The graph slot and edge that a command acts on (R374). -/
def Op.edgeKey (o : Op) : Option (Nat × Nat) :=
  match o.instr with
  | .tsend _ f | .tdone _ f | .trecv _ f | .tqry _ f | .tclose _ f => some (taskGs f, taskE f)
  | _ => none

/-- R374: a command that ranks after this one on its edge, or a split of its team's node, has been performed in this cycle:
this one is performed in a later cycle (log entry 18). -/
def State.edgePast (s : State) (o : Op) : Bool :=
  match o.edgeKey with
  | some (gs, e) =>
    match (s.graphOf o.die gs).edge? e with
    | some ed =>
      ed.last.1 == s.cycle && (decide (o.core < ed.last.2.1) ||
        (o.core == ed.last.2.1 && decide ((s.group o.gid).slot0 < ed.last.2.2)))
    | none => false
  | none =>
    match o.instr, (s.teamOf o.team).node with
    | .tgrain _ _, some (gs, n) => (((s.graphOf o.die gs).node? n).bind Node.splitAt) == some s.cycle
    | _, _ => false

/-- A command that has been performed is its edge's last. -/
def State.noteEdge (s : State) (id : Nat) : State :=
  match s.op id with
  | none => s
  | some o =>
    match o.edgeKey with
    | some (gs, e) =>
      if o.moved then s.modEdge o.die gs e fun ed => { ed with last := (s.cycle, o.core, (s.group o.gid).slot0) } else s
    | none => s

/-- TASK_COMMAND_COMPLETE (R373, R386). -/
def execTaskCommandComplete (id : Nat) (s : State) : Res :=
  .next <|
    match s.op id with
    | none => s
    | some o =>
      if !isTask o.instr || s.opOut o || !s.taskMay o || (!o.moved && s.edgePast o) then s
      else
        let s := if o.moved then s else (s.performTask id o).noteEdge id
        match s.op id with
        | none => s
        | some o => if o.moved && s.settled o then s.finishOp id else s

/-- R367: TSENDs of one group to one edge are performed in order. -/
def State.firstSend (s : State) (id : Nat) (o : Op) (f : Fields) : Bool :=
  !(s.ops.any fun p =>
    decide (p.1 < id) && p.2.gid == o.gid && !p.2.moved &&
      match p.2.instr with
      | .tsend _ h => taskE h == taskE f && taskGs h == taskGs f
      | _ => false)

/-- A TSEND performed into a free slot: the record is written, the slot is full and takes the next number, and the edge
may be over (R369). One that fails delivers nothing. -/
def State.doSend (s : State) (id : Nat) (o : Op) (f : Fields) (slot : Nat) (e : Edge) : State :=
  let gs := taskGs f
  let ei := taskE f
  let s := s.opStore id (e.base + slot * e.rsz) (o.args.getD 1 0) e.rsz
  match s.op id with
  | none => s
  | some o =>
    if !o.rest.isEmpty then s
    else if o.status != 0 then s.setResult id o.status 0 0
    else
      let now := s.gtc o.die
      let s := s.modEdge o.die gs ei fun e =>
        let e := { e with slots := e.slots.set slot (.full e.num now), num := e.num + 1 }
        { e with overfull := e.overfull || (e.hiw != 0 && decide (e.hiw ≤ e.depth)) }
      let s := if e.overfull then s else s.holdBack o.die o.team gs ei
      s.setResult id 0 0 (e.num % 2 ^ 31)

/-- TSEND_PERFORM (R373): a waiting TSEND and a free slot of its edge (R365). -/
def execTsendPerform (id slot : Nat) (s : State) : Res :=
  .next <|
    match s.op id with
    | none => s
    | some o =>
      match o.instr with
      | .tsend _ f =>
        match (s.graphOf o.die (taskGs f)).edge? (taskE f) with
        | none => s
        | some e =>
          if o.moved || s.opOut o || !s.taskMay o || !s.firstSend id o f || s.edgePast o || e.slots[slot]? != some .free then s
          else (s.doSend id o f slot e).noteEdge id
      | _ => s

end Sys2Proof.Machine
end

