-- ==== Sys2Proof/Machine/AllReduce.lean ====
section
/-! DEFINITION. The all-reduce units, or parsnips (19 R464-R470). An ARED that stands in its slot's ARR has 1 at 0 of
`vals`, and 2 once its generation is complete and its team is out; its units are the source sectors by number, and then
the destination sectors from 2^40. -/

namespace Sys2Proof.Machine

/-! ### Slots (R464) -/

def State.arSlot (s : State) (n : Nat) : ArSlot := Tab.getD s.arSlots n {}
def State.modSlot (s : State) (n : Nat) (f : ArSlot → ArSlot) : State :=
  { s with arSlots := Tab.set s.arSlots n (f (s.arSlot n)) }

/-- The dies in the order of the ring (R467). -/
def ringDies : List Nat := [0, 1, 3, 2]

/-- SLOT of a command (R465). -/
def arSlotOf (i : Instr) : Nat :=
  match i with
  | .ared _ f | .arwait _ f | .arcfg _ f | .arqry _ f => bitsOf f.x.toNat 0 4
  | _ => 0

def arCls (f : Fields) : Nat := bitsOf f.x.toNat 4 2
def isAred (i : Instr) : Bool := match i with | .ared _ _ => true | _ => false
def isArwait (i : Instr) : Bool := match i with | .arwait _ _ => true | _ => false

/-- R468: the wait for generation `g` is over. -/
def genReached (gen : BitVec 32) (g : Nat) : Bool := decide ((gen.toNat + 2 ^ 32 - g % 2 ^ 32) % 2 ^ 32 < 2 ^ 31)

/-- INFO of the commands: GEN[30:0]. -/
def ArSlot.info (sl : ArSlot) : Nat := bitsOf sl.gen.toNat 0 31

/-- R468: the waits of a slot that are over complete; those of saved teams wait for the restore (R470). -/
def State.arWake (s : State) (n : Nat) : State :=
  let sl := s.arSlot n
  s.ops.foldl (fun (s : State) (p : Nat × Op) =>
    if isArwait p.2.instr && arSlotOf p.2.instr == n && !s.opOut p.2 && genReached sl.gen (p.2.args.getD 0 0) then
      (s.modOp p.1 fun o => { o with info := sl.info }).finishOp p.1
    else s) s

/-! ### Issue (R465, R466) -/

/-- Table 19.7: T is listed. -/
def arType (t : Nat) : Bool := t == 0x09 || t == 0x0B || t == 0x18

/-- R466 check 2 on ARCFG. -/
def State.arcfgInvalid (s : State) (n d : Nat) : Bool :=
  let sl := s.arSlot n
  let ctx := (s.teamOf s.iss.team).ctx
  bitsOf d 4 4 != 0 || bitsOf d 14 2 != 0 || bitsOf d 36 92 != 0 || sl.owner.any (fun c => c != ctx) || sl.arr != 0 ||
    (bitsOf d 0 4 != 0 && popCount (bitsOf d 0 4) 4 < 2) || !arType (bitsOf d 8 6)

/-- A page of the range is not tagged. -/
def State.anyUntagged (s : State) (va n : Nat) : Bool :=
  (List.range ((va + n - 1) / 4096 - va / 4096 + 1)).any fun j =>
    match s.lookup s.iss.core (s.teamOf s.iss.team).ctx ((va / 4096 + j) * 4096 % 2 ^ 57) with
    | .ok x => !x.tagged
    | .error _ => false

/-- R466 check 2 on ARED. A page without a translation is left to check 3. -/
def State.aredInvalid (s : State) (n d : Nat) : Bool :=
  let sl := s.arSlot n
  let src := bitsOf d 0 64
  let dst := bitsOf d 64 64
  2 ^ 57 ≤ src || 2 ^ 57 ≤ dst || src % 64 != 0 || dst % 64 != 0 || sl.owner != some (s.teamOf s.iss.team).ctx ||
    !bitOf sl.mask (coreDie s.iss.core) ||
    (sl.ty == 0x18 && (s.anyUntagged src (64 * sl.nsec) || s.anyUntagged dst (64 * sl.nsec)))

/-- An accepted ARED sets its die's bit, and its sectors are to be read (R467). -/
def State.arEnter (s : State) (id : Nat) : State :=
  match s.op id with
  | none => s
  | some o =>
    let n := arSlotOf o.instr
    let sl := s.arSlot n
    if sl.owner != some o.ctx || !bitOf sl.mask o.die || bitOf sl.arr o.die then s
    else
      (s.modSlot n fun sl => { sl with arr := sl.arr + 2 ^ o.die }).modOp id fun o =>
        { o with vals := Tab.set o.vals 0 [1], rest := List.range sl.nsec }

/-- The descriptor of ARED or ARCFG, once check 1 passes. -/
def State.arDesc (s : State) (f : Fields) (u : Nat) (k : State → Nat → State) : State :=
  let a := s.sreg u (f.a.toNat % 64) % 2 ^ 32
  if a % 16 != 0 then s.raiseDesc 0x24 a
  else if s.outOfWindow a 16 then s.raiseDesc 0x26 a
  else
    match s.windowBytes a 16 with
    | (s, .error e) => s.raise e
    | (s, .ok d) => k s d

/-- An execution of an all-reduce command, unless its counter is full. -/
def arExec (g : Guard) (s : State) (k : State → Nat → Nat → State) : Res :=
  issued s fun _ => List.foldl (fun (t : State) u =>
    if t.iss.out != .done then t
    else
      match t.iss.at? u with
      | none => t
      | some (gid, _) => if t.engineBusy gid 2 false then t.stall else k t u gid) s (s.onceUnits g)

/-- ARED (R466, R467). -/
def execAred (g : Guard) (f : Fields) (s : State) : Res :=
  arExec g s fun s u _ =>
    let n := arSlotOf (.ared g f)
    s.arDesc f u fun s d =>
      if s.aredInvalid n d then s.raise 0x65
      else if bitOf (s.arSlot n).arr (coreDie s.iss.core) then s.stall
      else
        let len := 64 * (s.arSlot n).nsec
        match s.checkRanges [(bitsOf d 0 57, len, .read), (bitsOf d 64 57, len, .write)] with
        | (s, some (e, va)) => s.raiseDesc e va
        | (s, none) =>
          let id := s.seq
          (s.accept { s.newOp u (.ared g f) 2 (f.d.toNat % 64) with args := [d], svc := arCls f }).arEnter id

/-- ARWAIT (R468). -/
def execArwait (g : Guard) (f : Fields) (s : State) : Res :=
  arExec g s fun s u _ =>
    let n := arSlotOf (.arwait g f)
    if (s.arSlot n).owner != some (s.teamOf s.iss.team).ctx then s.raise 0x65
    else
      (s.accept { s.newOp u (.arwait g f) 2 (f.d.toNat % 64) with
        args := [s.sreg u (f.b.toNat % 64) % 2 ^ 32] }).arWake n

/-- ARCFG (R466): the configuration stands in all four units from its acceptance. -/
def execArcfg (g : Guard) (f : Fields) (s : State) : Res :=
  arExec g s fun s u _ =>
    let n := arSlotOf (.arcfg g f)
    s.arDesc f u fun s d =>
      if s.arcfgInvalid n d then s.raise 0x65
      else
        let mask := bitsOf d 0 4
        let owner := if mask == 0 then none else some (s.teamOf s.iss.team).ctx
        let sl : ArSlot := { owner := owner, mask := mask, ty := bitsOf d 8 6, nsec := bitsOf d 16 20 + 1 }
        ((s.modSlot n fun _ => sl).accept { s.newOp u (.arcfg g f) 2 (f.d.toNat % 64) with args := [d] }).arWake n

/-- ARQRY (R468): it completes 16 core cycles after its acceptance. -/
def execArqry (g : Guard) (f : Fields) (s : State) : Res :=
  arExec g s fun s u _ => s.accept { s.newOp u (.arqry g f) 2 (f.d.toNat % 64) with args := [s.cycle + 16] }

/-- DETAIL of an ARQRY of a context. -/
def ArSlot.query (sl : ArSlot) (ctx : Nat) : Nat :=
  let own := sl.owner == some ctx
  if own || sl.owner.isNone then packFields [(sl.arr, 4), (sl.mask, 4), (boolNat own, 1)] else 0

/-- The ARQRYs whose 16 cycles have passed complete, with the slot as it then is. -/
def State.arAnswer (s : State) : State :=
  s.ops.foldl (fun (s : State) (p : Nat × Op) =>
    match p.2.instr with
    | .arqry _ _ =>
      if p.2.args.getD 0 0 ≤ s.cycle then
        let sl := s.arSlot (arSlotOf p.2.instr)
        (s.modOp p.1 fun o => { o with detail := sl.query o.ctx, info := sl.info }).finishOp p.1
      else s
    | _ => s) s

/-- ARCFG_COMPLETE (R466). A die that no path reaches gives status 0x09 (R450). -/
def execArcfgComplete (id : Nat) (s : State) : Res :=
  .next <|
    match s.op id with
    | none => s
    | some o =>
      match o.instr with
      | .arcfg _ _ =>
        if s.opOut o then s
        else
          let far := (List.range 4).any fun d => (s.route o.die d).isNone
          (s.modOp id fun o => if far then o.fail 0x09 else o).finishOp id
      | _ => s

/-! ### A generation (R467) -/

/-- The AREDs that stand in a slot's ARR: number and operation. -/
def State.entered (s : State) (n : Nat) : List (Nat × Op) :=
  s.ops.filter fun (p : Nat × Op) => isAred p.2.instr && arSlotOf p.2.instr == n && Tab.get? p.2.vals 0 == some [1]

/-- Reads source sector `i` once: its bytes, descriptor and status at 3i, 3i + 1 and 3i + 2 of the buffer. -/
def State.arRead (s : State) (id i : Nat) : State :=
  match s.op id with
  | none => s
  | some o =>
    match s.opAddr o (bitsOf (o.args.getD 0 0) 0 57 + 64 * i) .read with
    | (s, .error st) => s.modOp id fun o => { o.took i with buf := Tab.set o.buf (3 * i + 2) st }
    | (s, .ok x) =>
      match s.goesNow id o x with
      | (s, false) => s
      | (s, true) =>
      let (s, r) := if paRegion x.pa == 1 then s.readSector o.core o.ctx x else s.readHome o.die x.pa
      (s.serveAs o x).modOp id fun o =>
        { o.took i with
          buf := Tab.set (Tab.set (Tab.set o.buf (3 * i) r.val) (3 * i + 1) (if x.tagged then r.desc else 0)) (3 * i + 2)
            r.status }

/-- Sector `i` as one participant contributes it. -/
def Op.arSector (o : Op) (i : Nat) : Sector :=
  { val := Tab.getD o.buf (3 * i) 0, desc := Tab.getD o.buf (3 * i + 1) 0, status := Tab.getD o.buf (3 * i + 2) 0 }

/-- Elements of a sector. -/
def arCount (t : Ty) : Nat := if t == .f32 then 16 else if t == .bf16 then 32 else 64

/-- x_d: the exact value of element `e` of a sector. -/
def arElem (t : Ty) (x : Sector) (e : Nat) : Num :=
  if t == .bx8 then bxElem .bx8 x.val (x.desc / 256 % 256) e
  else floatVal t (bitsOf x.val (tyWidth t * e) (tyWidth t))

/-- The sum of one element in ring order, each step rounded to FP32. -/
def arSum (xs : List Num) : Num × Flags :=
  match xs with
  | [] => (numZero false, 0)
  | x :: r => r.foldl (fun (a : Num × Flags) y =>
      let z := floatExpr .f32 [a.1, y] (numAdd a.1 y)
      (floatVal .f32 z.1, a.2 ||| z.2)) (x, 0)

/-- A result sector of NaN. -/
def arNan (t : Ty) : Nat × Nat :=
  if t == .bx8 then (0, 0xFF18)
  else (packFields (List.replicate (arCount t) ((floatFmt t).nanBits, tyWidth t)), 0)

/-- A result sector: its bytes and descriptor, or none where nothing is written; the status and flags it adds, and
whether it counts in DETAIL. -/
structure ArOut where
  val : Option (Nat × Nat)
  status : Nat := 0
  flags : Flags := 0
  bad : Bool := false
  deriving DecidableEq, Repr, Inhabited

/-- R103: a contribution whose FMT is neither raw nor T's own is refused: a .bx8 sum becomes a NaN block (R467), and
nothing is written of another (log entry 34). -/
def arRefused (t : Ty) (x : Sector) : Bool :=
  if t == .bx8 then x.desc % 256 != 0x18 else x.desc % 256 != 0 && x.desc % 256 != tyCode t

/-- The result of sector `i` of the participants' contributions, in ring order. -/
def arResult (t : Ty) (xs : List Sector) : ArOut :=
  let st := xs.foldl (fun m x => max m x.status) 0
  if xs.any fun x => x.status == 0x09 || x.status == 0x0B then { val := none, status := st, bad := true }
  else if st != 0 then { val := some (arNan t), status := st, bad := true }
  else if xs.any (arRefused t) then { val := if t == .bx8 then some (arNan t) else none, status := 0x02, bad := true }
  else
    let sums := (List.range (arCount t)).map fun e => arSum (xs.map fun x => arElem t x e)
    let fl := sums.foldl (fun f x => f ||| x.2) (0 : Flags)
    if t == .bx8 then
      let r := bxBlock .bx8 false (sums.map Prod.fst)
      { val := some (r.1, r.2.1), flags := fl ||| r.2.2 }
    else
      let rs := sums.map fun x => roundFloat t x.1
      { val := some (packFields (rs.map fun r => (r.1, tyWidth t)), 0), flags := rs.foldl (fun f r => f ||| r.2) fl }

/-- The participants in ring order. -/
def ringOps (os : List (Nat × Op)) : List Op :=
  ringDies.flatMap fun d => (os.filter fun p => p.2.die == d).map Prod.snd

def State.arOut (s : State) (n i : Nat) : ArOut :=
  arResult ((tyOfCode (s.arSlot n).ty).getD .none) ((ringOps (s.entered n)).map fun o => o.arSector i)

/-- Writes destination sector `i` of one participant. -/
def State.arWrite (s : State) (id unit : Nat) : State :=
  match s.op id with
  | none => s
  | some o =>
    let i := unit - 2 ^ 40
    match (s.arOut (arSlotOf o.instr) i).val with
    | none => s.modOp id fun o => (o.lose 0 i).took unit
    | some (v, d) => (s.opWrite id o (bitsOf (o.args.getD 0 0) 64 57 + 64 * i) v (2 ^ 64 - 1) d unit 0).modOp id fun o =>
        { o with lost := o.lost.map fun l => if l == (bitsOf (o.args.getD 0 0) 64 57 + 64 * i) / 64 then i else l }

/-- One unit of an ARED. -/
def State.arPerform (s : State) (id unit : Nat) : State := if unit < 2 ^ 40 then s.arRead id unit else s.arWrite id unit

/-- A participant's sums are to be written. -/
def State.arStartWrites (s : State) (id nsec : Nat) : State :=
  s.modOp id fun o =>
    if Tab.get? o.vals 1 == some [1] then o
    else { o with vals := Tab.set o.vals 1 [1], rest := (List.range nsec).map fun i => 2 ^ 40 + i }

/-- The dies of a slot reach one another (R450). -/
def State.ringUp (s : State) (mask : Nat) : Bool :=
  ringDies.all fun a => ringDies.all fun b => !bitOf mask a || !bitOf mask b || (s.route a b).isSome

/-- Performs the units that the participants have left and that may be performed, while none waits. -/
def State.arRun (s : State) (n : Nat) (may : Nat → Bool) : State :=
  (s.entered n).foldl (fun (s : State) (p : Nat × Op) =>
    match s.op p.1 with
    | some o => s.runUnits p.1 State.arPerform (o.rest.filter may)
    | none => s) s

/-- A participant has still to write destination sector `i`. -/
def Op.unwritten (o : Op) (i : Nat) : Bool := Tab.get? o.vals 1 != some [1] || o.rest.contains (2 ^ 40 + i)

/-- The generation's status word, the same for every participant. Where the ring has lost its paths, what is written
stays, and the rest counts as not written. -/
def State.arFinish (s : State) (n : Nat) : State :=
  let sl := s.arSlot n
  let os := s.entered n
  let outs := (List.range sl.nsec).map fun i => s.arOut n i
  let up := s.ringUp sl.mask
  let st := outs.foldl (fun m x => max m x.status) (os.foldl (fun m (p : Nat × Op) => max m p.2.status) 0)
  let lost := os.flatMap fun p => p.2.lost
  let detail := ((List.range sl.nsec).filter fun i =>
    (os.any fun p => p.2.unwritten i) || (outs.getD i default).bad || lost.contains i).length
  let fl := ((List.range sl.nsec).filter fun i => os.any fun p => !p.2.unwritten i).foldl (fun f i =>
    f ||| (outs.getD i default).flags) (0 : Flags)
  let s := s.modSlot n fun sl => { sl with gen := sl.gen + 1, arr := 0 }
  let info := (s.arSlot n).info
  let s := os.foldl (fun (s : State) (p : Nat × Op) =>
    let s := s.modOp p.1 fun o =>
      { o with
        status := if up then st else max st 0x09, detail := detail, info := info, flags := fl
        vals := [(0, [2])], rest := [] }
    if s.opOut p.2 && (s.group p.2.gid).anyLive then s else s.finishOp p.1) s
  (s.arWake n).ops.foldl (fun (s : State) (p : Nat × Op) =>
    if isAred p.2.instr && arSlotOf p.2.instr == n && p.2.vals.isEmpty && !s.opOut p.2 then s.arEnter p.1 else s) (s.arWake n)

/-- ALLREDUCE_GENERATION_COMPLETE (R467): what is left is read, summed and written, and once every destination sector is
performed and its time has passed the generation completes. Where no path joins the participants nothing more is written. -/
def execAllreduceGenerationComplete (slot : Nat) (s : State) : Res :=
  .next <|
    let sl := s.arSlot slot
    if sl.mask == 0 || sl.arr != sl.mask then s
    else
      let up := s.ringUp sl.mask
      let s := s.arRun slot fun u => up || u < 2 ^ 40
      let os := s.entered slot
      if os.any fun p => p.2.rest.any (· < 2 ^ 40) then s
      else
        let s := if up then
            (os.foldl (fun (s : State) (p : Nat × Op) => s.arStartWrites p.1 sl.nsec) s).arRun slot fun _ => true else s
        if (s.entered slot).any fun p => (up && !p.2.rest.isEmpty) || !s.settled p.2 then s
        else s.arFinish slot

/-! ### Pre-emption (R470) -/

/-- An ARED of a team that is saved, and has read nothing, is withdrawn. -/
def State.arWithdraw (s : State) (t : Nat) : State :=
  s.ops.foldl (fun (s : State) (p : Nat × Op) =>
    if p.2.team == t && isAred p.2.instr && !p.2.moved && Tab.get? p.2.vals 0 == some [1] then
      (s.modSlot (arSlotOf p.2.instr) fun sl => { sl with arr := sl.arr - 2 ^ p.2.die }).modOp p.1 fun o =>
        { o with vals := [], rest := [] }
    else s) s

/-- At the restore it is accepted again, once its die's bit is clear; tokens of generations completed meanwhile are
written, and waits that are over complete. -/
def State.arRestore (s : State) (t : Nat) : State :=
  s.ops.foldl (fun (s : State) (p : Nat × Op) =>
    if p.2.team != t then s
    else if isAred p.2.instr then
      if Tab.get? p.2.vals 0 == some [2] then s.finishOp p.1
      else if (Tab.get? p.2.vals 0).isNone then s.arEnter p.1 else s
    else if isArwait p.2.instr then s.arWake (arSlotOf p.2.instr) else s) s

end Sys2Proof.Machine
end

