-- ==== Sys2Proof/Machine/Render.lean ====
section
/-! DEFINITION. The render commands (12 R305-R322): the texture sampler, neural materials, the ray unit and its short
stack. -/

namespace Sys2Proof.Machine

/-! ### Texture descriptors (Table 12.2, R309, R310) -/

/-- A texture descriptor as 512 bits. -/
abbrev Texture := Nat

namespace Texture
def base (d : Texture) : Nat := bitsOf d 0 57
def width (d : Texture) : Nat := bitsOf d 64 16 + 1
def height (d : Texture) : Nat := bitsOf d 80 16 + 1
def depth (d : Texture) : Nat := bitsOf d 96 12 + 1
def lm1 (d : Texture) : Nat := bitsOf d 108 4
def dim (d : Texture) : Nat := bitsOf d 112 2
def fmt (d : Texture) : Ty := (tyOfCode (bitsOf d 114 6)).getD .none
def channels (d : Texture) : Nat := match bitsOf d 120 2 with | 0 => 1 | 1 => 2 | 2 => 4 | _ => 16
def filt (d : Texture) : Bool := bitOf d 134
def mipf (d : Texture) : Bool := bitOf d 135
def border (d : Texture) (c : Nat) : Num := if c < 4 then floatVal .f32 (bitsOf d (192 + 32 * c) 32) else numZero false
def net (d : Texture) : Nat := bitsOf d 320 57
/-- Bytes of a texel (R310). -/
def texel (d : Texture) : Nat := d.channels * tyWidth d.fmt / 8

/-- R322 check 3, on the descriptor alone; `neural` for TEXN. BASE and NET are multiples of 64 (DEDUCED, log entry
27). -/
def valid (d : Texture) (neural latentOk : Bool) : Bool :=
  let ext := max (max d.width (if d.dim == 0 then 1 else d.height)) (if d.dim == 3 then d.depth else 1)
  bitsOf d 57 7 == 0 && bitsOf d 122 6 == 0 && bitsOf d 136 56 == 0 && bitsOf d 377 135 == 0 && d.base % 64 == 0 &&
    (if neural then d.net % 64 == 0 else d.net == 0) &&
    (d.dim != 0 || (d.height == 1 && d.depth == 1)) && (d.dim != 1 || d.depth == 1) && d.lm1 ≤ Nat.log2 ext &&
    (d.fmt == .n8 || d.fmt == .n16 || d.fmt == .f16 || d.fmt == .bf16 || d.fmt == .f32 || d.fmt == .bx4) &&
    ((d.fmt == .bx4) == (d.channels == 16)) && (if neural then d.fmt == .bx4 else latentOk || d.fmt != .bx4)

/-- R310: the extents of a level. -/
def w (d : Texture) (l : Nat) : Nat := max 1 (d.width / 2 ^ l)
def h (d : Texture) (l : Nat) : Nat := max 1 (d.height / 2 ^ l)
def dl (d : Texture) (l : Nat) : Nat := if d.dim == 2 then d.depth else max 1 (d.depth / 2 ^ l)
def pitch (d : Texture) (l : Nat) : Nat := (d.w l * d.texel + 63) / 64 * 64
/-- Where a level starts, from BASE. -/
def start (d : Texture) (l : Nat) : Nat :=
  List.foldl (fun a k => a + d.pitch k * d.h k * d.dl k) 0 (List.range l)
/-- R310: a texel's address. -/
def addr (d : Texture) (l x y z : Nat) : Nat :=
  (d.base + d.start l + z * (d.pitch l * d.h l) + y * d.pitch l + x * d.texel) % 2 ^ 57
end Texture

/-! ### Footprints (R311) -/

/-- A coordinate as a fraction: 0 for a NaN or an infinity. -/
def coord (x : Num) : Int × Nat := match x with | .fin _ _ _ => (x.snum, x.den) | _ => (0, 1)

/-- A tap index under an address mode; none is the border. -/
def tapIndex (mode n : Nat) (i : Int) : Option Nat :=
  let m : Int := n
  match mode with
  | 0 => some (i % m).toNat
  | 1 => some (min (max i 0) (m - 1)).toNat
  | 2 => let r := i % (2 * m); some (if r < m then r else 2 * m - 1 - r).toNat
  | _ => if i < 0 || m ≤ i then none else some i.toNat

/-- The taps of one axis of `n` texels, with weights in 256ths. -/
def axisTaps (lin : Bool) (mode n : Nat) (x : Num) : List (Option Nat × Nat) :=
  let (p, q) := coord x
  if !lin then [(tapIndex mode n (p * n / q), 256)]
  else
    let y : Int := 2 * p * n - q
    let i0 := y / (2 * q : Nat)
    let f := roundFrac ((y - i0 * (2 * q : Nat)).toNat * 256) (2 * q) false
    let (i0, f) := if f == 256 then (i0 + 1, 0) else (i0, f)
    [(tapIndex mode n i0, 256 - f), (tapIndex mode n (i0 + 1), f)]

/-- R311: the layer of DIM 2. -/
def layerOf (layers : Nat) (x : Num) : Nat :=
  match x with
  | .fin b n d => let i := integral 0 false b n d; (min (max i 0) ((layers : Int) - 1)).toNat
  | _ => 0

/-- The level term, clamped, as a fraction. -/
def levOf (d : Texture) (x : Num) : Nat × Nat :=
  match x with
  | .nan | .inf true => (0, 1)
  | .inf false => (d.lm1, 1)
  | .fin b n m => if b then (0, 1) else if d.lm1 * m < n then (d.lm1, 1) else (n, m)

/-- Levels with weights in 256ths. -/
def levelTaps (d : Texture) (x : Num) : List (Nat × Nat) :=
  let (n, m) := levOf d x
  if d.mipf then
    let l0 := n / m
    let g := roundFrac (n % m * 256) m false
    let (l0, g) := if g == 256 then (l0 + 1, 0) else (l0, g)
    [(l0, 256 - g), (min (l0 + 1) d.lm1, g)]
  else [((2 * n + m) / (2 * m), 256)]

/-- A tap: the address of its texel, or none for the border colour; its weight in units of 2^−32. -/
structure Tap where
  at_ : Option Nat
  w : Nat
  deriving DecidableEq, Repr, Inhabited

/-- The taps of a lane of TEX and TEXN, out of u, v, w and lod. -/
def texTaps (d : Texture) (x : List Num) : List Tap :=
  let u := x.getD 0 .nan
  let v := x.getD 1 .nan
  let w := x.getD 2 .nan
  (levelTaps d (x.getD 3 .nan)).flatMap fun l =>
    let xs := axisTaps d.filt (bitsOf d 128 2) (d.w l.1) u
    let ys := if d.dim == 0 then [(some 0, 256)] else axisTaps d.filt (bitsOf d 130 2) (d.h l.1) v
    let zs := if d.dim == 2 then [(some (layerOf d.depth w), 256)]
      else if d.dim == 3 then axisTaps d.filt (bitsOf d 132 2) (d.dl l.1) w else [(some 0, 256)]
    zs.flatMap fun z => ys.flatMap fun y => xs.map fun x =>
      { at_ := match x.1, y.1, z.1 with
          | some a, some b, some c => some (d.addr l.1 a b c)
          | _, _, _ => none
        w := l.2 * x.2 * y.2 * z.2 }

/-- R312: the four taps of TEXG, in their order. -/
def gatherTaps (d : Texture) (x : List Num) : List Tap :=
  let (n, m) := levOf d (x.getD 3 .nan)
  let l := (2 * n + m) / (2 * m)
  let xs := axisTaps true (bitsOf d 128 2) (d.w l) (x.getD 0 .nan)
  let ys := if d.dim == 0 then [(some 0, 0), (some 0, 0)] else axisTaps true (bitsOf d 130 2) (d.h l) (x.getD 1 .nan)
  let z := if d.dim == 2 then some (layerOf d.depth (x.getD 2 .nan))
    else if d.dim == 3 then ((axisTaps true (bitsOf d 132 2) (d.dl l) (x.getD 2 .nan)).head?.map Prod.fst).join else some 0
  ys.flatMap fun y => xs.map fun x =>
    { at_ := match x.1, y.1, z with
        | some a, some b, some c => some (d.addr l a b c)
        | _, _, _ => none
      w := 1 }

/-! ### Acceptance (R306, R307) -/

def isTexture (i : Instr) : Bool :=
  match i with | .tex _ _ | .texn _ _ | .txq _ _ | .texg _ _ => true | _ => false
def isRender (i : Instr) : Bool :=
  isTexture i || (match i with | .rbox _ _ | .rtri _ _ | .rpush _ _ | .rpop _ _ => true | _ => false)

/-- An operation of a render command: it serves every fibre of active, each of which names its own token in a stream
kernel. -/
def State.renderOp (s : State) (i : Instr) (ls : List Nat) (cls tok : Nat) (results : List Nat)
    (vals : Nat → List Nat) : Op :=
  let lanes := ls.filterMap fun l => (s.iss.at? l).map fun p => (l, p.1, p.2)
  let gs := distinct (lanes.map fun l => l.2.1)
  { instr := i, gid := gs.headD 0, core := s.iss.core, ctx := s.curCtx, team := s.iss.team, tok := tok, cls := cls
    lanes := lanes, vals := ls.map fun l => (l, vals l), results := results, rest := [0]
    deadlines := s.issueDeadlines, passed := s.iss.checked, members := gs.map fun g => (g, tok) }

/-- A render command: `k` makes the issue checks on the fibres of active, and enters the operation. -/
def renderExec (g : Guard) (cls : Nat) (k : State → List Nat → State) (s : State) : Res :=
  issued s fun i =>
    let ls := s.active g
    if ls.isEmpty then s
    else if s.engineBusy i.gid cls false then s.stall
    else k s ls

/-- Registers `n` of a slot lane from a base. -/
def State.vregs (s : State) (l base n : Nat) : List Nat := (List.range n).map fun j => s.vreg l (base + j)

/-- R322 check 4 over accesses of lanes in ascending order. Only a translation fault names an operand and an address
(Tables 11.1, 11.5). -/
def State.renderRanges (s : State) (sub : Nat) (rs : List (Nat × Nat)) (k : State → State) : State :=
  match s.checkRanges (rs.map fun r => (r.1, r.2, .read)) with
  | (s, some (c, va)) => let tr := 0x20 ≤ c && c < 0x30; s.raise c (if tr then sub else 0) (if tr then va else 0)
  | (s, none) => k s

/-! ### Texture commands (R309-R316) -/

/-- The coordinates of a texture command's lane: lod is 0 under .l0. -/
def texCoords (f : Fields) (vs : List Nat) : List Num :=
  let xs := vs.map (floatVal .f32)
  if f.xf 0 2 == 1 then xs.take 3 ++ [numZero false] else xs

def tapsOf (i : Instr) (f : Fields) (d : Texture) (vs : List Nat) : List Tap :=
  match i with
  | .texg _ _ => gatherTaps d (texCoords f vs)
  | .txq _ _ => []
  | _ => texTaps d (texCoords f vs)

/-- The formats of a tagged sector of BF16 values (04 R103). -/
def bf16Fmt (c : Nat) : Bool := c == 0 || c == 0x0B

/-- R316: the image of a network is read at acceptance: its bytes, or the worst status and how many sectors failed. A
sector of another format than BF16 is refused (04 R103), and fails the load as one in error does (log entry 27). -/
def State.loadNetwork (s : State) (o : Op) (net : Nat) : State × Nat × Nat × Nat :=
  List.foldl (fun (a : State × Nat × Nat × Nat) j =>
    let (s, v, st, n) := a
    match s.opAddr o (net + 64 * j) .read with
    | (s, .error e) => (s, v, max st e, n + 1)
    | (s, .ok x) =>
      let (s, r) := s.readSector o.core o.ctx x
      let s := if r.cached then s else s.serveAs o x
      let e := if r.status != 0 then r.status else if x.tagged && !bf16Fmt (r.desc % 256) then 2 else 0
      if e != 0 then (s, v, max st e, n + 1) else (s, v + r.val * 2 ^ (512 * j), st, n))
    (s, 0, 0, 0) (List.range 26)

/-- A network is taken from its slot, or loaded into the least recently accepted of four: its record is address, image,
1 when it is whole. -/
def State.takeNetwork (s : State) (o : Op) (net : Nat) : State × Op :=
  let k := o.core
  match (s.core k).networks.find? fun n => n.1 == o.ctx && n.2.1 == net with
  | some n =>
    (s.modCore k fun c => { c with networks := n :: c.networks.filter (· != n) },
      { o with args := o.args ++ [net, n.2.2, 1] })
  | none =>
    let (s, v, st, n) := s.loadNetwork o net
    if st != 0 then (s, { o.fail st with args := o.args ++ [net, 0, 0], detail := o.detail + n })
    else
      (s.modCore k fun c => { c with networks := ((o.ctx, net, v) :: c.networks).take 4 },
        { o with args := o.args ++ [net, v, 1] })

/-- The descriptors at window addresses, each read once; or the cause of the first that fails (R322 checks 1 and 2). -/
def State.readTextures (s : State) (as : List Nat) : State × Except (Nat × Nat) (Tab Nat) :=
  match as.find? fun (a : Nat) => a % 64 != 0 with
  | some a => (s, .error (0x24, a))
  | none =>
    match as.find? fun (a : Nat) => s.outOfWindow a 64 with
    | some a => (s, .error (0x26, a))
    | none =>
      List.foldl (fun (r : State × Except (Nat × Nat) (Tab Nat)) a =>
        match r.2 with
        | .error e => (r.1, .error e)
        | .ok t =>
          match r.1.windowBytes a 64 with
          | (s, .error e) => (s, .error (e, 0))
          | (s, .ok d) => (s, .ok (Tab.set t a d))) (s, .ok []) as

/-- R322 for the texture commands, `n` results. A fibre of a stream kernel names a descriptor of its own. Bits [63:32] of
the scalar that holds its address are ignored (DESIGN CHOICE, log entry 27). -/
def texExec (i : Instr) (g : Guard) (f : Fields) (n : Nat) (s : State) : Res :=
  renderExec g 0 (fun s ls =>
    let neural := match i with | .texn _ _ => true | _ => false
    let query := match i with | .txq _ _ => true | _ => false
    let ctx := s.curCtx
    let k := s.iss.core
    let at_ := fun l => s.sreg l (f.b.toNat % 64) % 2 ^ 32
    match s.readTextures (distinct (ls.map at_)) with
    | (s, .error (c, a)) => s.raiseDesc c a
    | (s, .ok ds) =>
      let desc := fun l => Tab.getD ds (at_ l) 0
      let pages := ls.flatMap fun l => (tapsOf i f (desc l) (s.vregs l f.a.toNat 4)).filterMap fun t =>
        t.at_.map fun p => (p, Texture.texel (desc l))
      let untagged := pages.any fun p =>
        match s.lookup k ctx p.1 with
        | .ok x => !x.tagged
        | .error _ => false
      let nets := if neural then distinct (ls.map fun l => Texture.net (desc l)) else []
      let missed := nets.filter fun a => !((s.core k).networks.any fun n => n.1 == ctx && n.2.1 == a)
      if (ds.any fun d => !Texture.valid d.2 neural query) || (neural && untagged) then s.raise 0x61
      else
        s.renderRanges 4 (pages ++ missed.map fun a => (a, 1664)) fun s =>
          let o := s.renderOp i ls 0 (f.d.toNat % 64) ((List.range n).map (f.c.toNat + ·))
            fun l => desc l :: s.vregs l f.a.toNat (if query then 1 else 4)
          let r := List.foldl (fun (r : State × Op) a => r.1.takeNetwork r.2 a) (s, o) nets
          r.1.enter r.2) s

/-- TEX (R312). -/
def execTex (g : Guard) (f : Fields) (s : State) : Res := texExec (.tex g f) g f 4 s
/-- TEXN (R314). -/
def execTexn (g : Guard) (f : Fields) (s : State) : Res := texExec (.texn g f) g f 8 s
/-- TXQ (R312). -/
def execTxq (g : Guard) (f : Fields) (s : State) : Res := texExec (.txq g f) g f 4 s
/-- TEXG (R312). -/
def execTexg (g : Guard) (f : Fields) (s : State) : Res := texExec (.texg g f) g f 4 s

/-! ### Rays (R317) -/

def refKind (r : Nat) : Nat := bitsOf r 62 2
def nodeAt (r : Nat) : Nat := bitsOf r 7 50 * 128
def leafAt (r : Nat) : Nat := bitsOf r 4 53 * 16

/-- The ranges a lane's test reads: a node, or the triangle records of a leaf but for their ignored bytes. -/
def rayRanges (box : Bool) (r : Nat) : List (Nat × Nat) :=
  if refKind r == 0 then []
  else if box then [(nodeAt r, 128)]
  else (List.range (r % 16 + 1)).map fun i => ((leafAt r + 48 * i) % 2 ^ 57, 40)

/-- RBOX and RTRI. -/
def rayExec (i : Instr) (g : Guard) (f : Fields) (box : Bool) (n : Nat) (s : State) : Res :=
  renderExec g 0 (fun s ls =>
    let ref := fun l => s.vval l f.b.toNat 64
    if ls.any fun l => refKind (ref l) == 3 || refKind (ref l) == (if box then 2 else 1) then s.raise 0x61
    else
      s.renderRanges 2 (ls.flatMap fun l => rayRanges box (ref l)) fun s =>
        s.enter (s.renderOp i ls 0 (f.d.toNat % 64) ((List.range n).map (f.c.toNat + ·))
          fun l => ref l :: s.vregs l f.a.toNat 8)) s

/-- RBOX (R318). -/
def execRbox (g : Guard) (f : Fields) (s : State) : Res := rayExec (.rbox g f) g f true 14 s
/-- RTRI (R319). -/
def execRtri (g : Guard) (f : Fields) (s : State) : Res := rayExec (.rtri g f) g f false 5 s

def numMin (a b : Num) : Num := if numLt b a then b else a
def numMax (a b : Num) : Num := if numLt a b then b else a
/-- The slab over every real number. -/
def openSlab : Num × Num := (.inf true, .inf false)

/-- One axis of R318: the slab, or a miss. -/
def slabOf (o d lo hi : Num) : Option (Num × Num) :=
  if d.isZero then (if numLt o lo || numLt hi o then none else some openSlab)
  else
    let t1 := (numDiv (numSub lo o).1 d).1
    let t2 := (numDiv (numSub hi o).1 d).1
    some (numMin t1 t2, numMax t1 t2)

/-- R318: the entry distance of a box that is hit: six values, minima first. -/
def boxHit (ray box : List Num) : Option Num :=
  let at_ := fun k => ray.getD k .nan
  let b := fun k => box.getD k .nan
  if (ray ++ box).any Num.isNan || (ray.take 6).any Num.isInf || (List.range 3).any fun a => numLt (b (a + 3)) (b a) then none
  else
    List.foldl (fun (r : Option (Num × Num)) a =>
      match r, slabOf (at_ a) (at_ (3 + a)) (b a) (b (a + 3)) with
      | some (n, f), some (x, y) => some (numMax n x, numMin f y)
      | _, _ => none) (some (at_ 6, at_ 7)) (List.range 3)
      |>.bind fun r => if numLt r.2 r.1 then none else some r.1

/-- A distance as FP32: an exact zero has no sign (DEDUCED, log entry 28). -/
def distBits (x : Num) : Nat := if x.isZero then 0 else (roundFloat .f32 x).1

def missBits : Nat := 0x7F800000

/-- Hits before misses: a hit comes before one with a larger distance. -/
def insertHit (x : Nat × Num) (xs : List (Nat × Num)) : List (Nat × Num) :=
  match xs with
  | [] => [x]
  | y :: r => if numLt x.2 y.2 then x :: xs else y :: insertHit x r

/-- R318: the fourteen results, out of each child's distance, if it is hit, and reference. -/
def boxResult (cs : List (Option Num × Nat)) : List Nat :=
  let ids := (List.range 4).zip cs
  let hits := List.foldl (fun hs (c : Nat × (Option Num × Nat)) =>
    match c.2.1 with
    | some t => insertHit (c.1, t) hs
    | none => hs) [] ids
  let miss := (ids.filter fun c => c.2.1.isNone).map Prod.fst
  let order := hits.map Prod.fst ++ miss
  let mask := List.foldl (fun m (h : Nat × Num) => m + 2 ^ h.1) 0 hits
  let ords := List.foldl (fun m (p : Nat × Nat) => m + p.2 * 2 ^ (4 + 2 * p.1)) 0 ((List.range 4).zip order)
  let dist := fun c => match (cs.getD c (none, 0)).1 with | some t => distBits t | none => missBits
  [mask + ords + hits.length * 2 ^ 12, 0] ++ order.map dist ++
    order.flatMap fun c => let r := (cs.getD c (none, 0)).2; [r % 2 ^ 32, r / 2 ^ 32 % 2 ^ 32]

/-- An FP32 value in units of 2^−149. -/
def fixed149 (x : Num) : Int := x.snum * (2 : Int) ^ 149 / x.den

def vec3 (xs : List Num) (k : Nat) : Int × Int × Int :=
  (fixed149 (xs.getD k .nan), fixed149 (xs.getD (k + 1) .nan), fixed149 (xs.getD (k + 2) .nan))
def sub3 (a b : Int × Int × Int) : Int × Int × Int := (a.1 - b.1, a.2.1 - b.2.1, a.2.2 - b.2.2)
def cross3 (a b : Int × Int × Int) : Int × Int × Int :=
  (a.2.1 * b.2.2 - a.2.2 * b.2.1, a.2.2 * b.1 - a.1 * b.2.2, a.1 * b.2.1 - a.2.1 * b.1)
def dot3 (a b : Int × Int × Int) : Int := a.1 * b.1 + a.2.1 * b.2.1 + a.2.2 * b.2.2

/-- n / d as a value. -/
def numRatio (n d : Int) : Num := .fin (decide (n < 0) != decide (d < 0)) n.natAbs d.natAbs

/-- A triangle's hit: exact t, u and v, and whether the back face is met. -/
structure TriHit where
  t : Num
  u : Num
  v : Num
  back : Bool
  deriving DecidableEq, Repr, Inhabited

/-- R319: one triangle of nine values. Non-finite data are a NaN in the ray, an infinity in its origin or direction, and
either in the triangle (DEDUCED, log entry 28). -/
def triHit (cull : Nat) (ray p : List Num) : Option TriHit :=
  if (ray ++ p).any Num.isNan || (ray.take 6 ++ p).any Num.isInf then none
  else
    let o := vec3 ray 0
    let d := vec3 ray 3
    let nd := sub3 (0, 0, 0) d
    let p0 := vec3 p 0
    let e1 := sub3 (vec3 p 3) p0
    let e2 := sub3 (vec3 p 6) p0
    let q := sub3 o p0
    let n := cross3 e1 e2
    let det := dot3 nd n
    let back := decide (det < 0)
    if det == 0 || (cull == 1 && back) || (cull == 2 && !back) then none
    else
      let t := numRatio (dot3 q n) det
      let u := numRatio (dot3 nd (cross3 q e2)) det
      let v := numRatio (dot3 nd (cross3 e1 q)) det
      let zero := numZero false
      if numLt u zero || numLt v zero || numLt (numOfNat 1) (numAdd u v).1 || numLt t (ray.getD 6 .nan) ||
          numLt (ray.getD 7 .nan) t then none
      else some { t := t, u := u, v := v, back := back }

/-! ### The short stack (Table 12.3, R320, R321) -/

def ringDepth (f : Fields) : Nat := 2 ^ (f.xf 19 3 + 2)

/-- R321: the window address of ring slot `j` of a lane, kept for the operation: the first slot's address and the
stride. A stream team's fibre slots are those of R51. -/
def State.ringOf (s : State) (f : Fields) (l : Nat) : Nat × Nat :=
  let ring := f.xf 0 19
  if s.iss.stream then
    let t := s.teamOf s.iss.team
    let k := s.ownIndex
    let slot := ((s.iss.at? l).map fun p => (s.group p.1).slot0).getD 0
    (ring + (slot - t.slot0.getD k 0) * 16, (t.roles.map fun r => r.groups * r.width).sum * 16)
  else (ring + l * 16, s.iss.width * 16)

/-- A control word that Table 12.3 allows. -/
def stackOk (n w : Nat) : Bool := bitsOf w 0 3 ≤ 4 && bitsOf w 3 7 ≤ n && bitsOf w 10 6 < n && bitsOf w 17 15 == 0

/-- RPUSH and RPOP. Causes 0x24 and 0x26 have SUB 4, and sr.eaddr is RING, or the address of the last ring slot of the
lowest lane whose ring leaves the window (DESIGN CHOICE, log entry 29). -/
def stackExec (i : Instr) (g : Guard) (f : Fields) (push : Bool) (s : State) : Res :=
  renderExec g 2 (fun s ls =>
    let n := ringDepth f
    if f.xf 0 19 % 16 != 0 then s.raiseDesc 0x24 (f.xf 0 19)
    else
      match ls.find? fun l => let r := s.ringOf f l; s.outOfWindow (r.1 + (n - 1) * r.2 : Nat) 16 with
      | some l => let r := s.ringOf f l; s.raiseDesc 0x26 (r.1 + (n - 1) * r.2)
      | none =>
        if ls.any fun l => !stackOk n (s.vreg l f.b.toNat) then s.raise 0x61
        else
          let res := (List.range 13).map (f.b.toNat + ·) ++ (if push then [] else (List.range 3).map (f.c.toNat + ·))
          s.enter (s.renderOp i ls 2 (f.d.toNat % 64) res fun l =>
            let r := s.ringOf f l
            [r.1, r.2] ++ s.vregs l f.b.toNat 13 ++
              (if push then [s.vreg l f.a.toNat, s.vreg l (f.a.toNat + 1), s.vreg l f.c.toNat] else []))) s

/-- RPUSH (R321). -/
def execRpush (g : Guard) (f : Fields) (s : State) : Res := stackExec (.rpush g f) g f true s
/-- RPOP (R321). -/
def execRpop (g : Guard) (f : Fields) (s : State) : Res := stackExec (.rpop g f) g f false s

def stackWord (reg spill head : Nat) (ovf : Bool) : Nat :=
  packFields [(reg, 3), (spill, 7), (head, 6), (boolNat ovf, 1)]

/-! ### Completion (R307, R308) -/

def Op.fields (o : Op) : Fields := match o.instr.parts with | some (_, _, _, f) => f | none => default

/-- A status at a sector, its refused format included: `ok` is the formats a consumer accepts (R313, R314, R317). -/
def Op.sectorState (o : Op) (ok : Nat → Bool) (k : Nat) : Nat :=
  let r := o.sector k
  if r.status != 0 then r.status else if ok (r.desc % 256) then 0 else 2

def rayFmt (c : Nat) : Bool := c == 0 || c == 0x09 || c == 0x22
def texFmt (d : Texture) (neural : Bool) (c : Nat) : Bool := c == tyCode (Texture.fmt d) || (!neural && c == 0)

/-- The sectors a lane uses, each with the formats it accepts there. -/
def Op.laneSectors (o : Op) (vs : List Nat) : List Nat :=
  let f := o.fields
  let of := fun (a n : Nat) => (List.range ((a + n - 1) / 64 - a / 64 + 1)).map fun j => (a / 64 + j) % 2 ^ 51
  match o.instr with
  | .tex _ _ | .texn _ _ | .texg _ _ =>
    (tapsOf o.instr f (vs.getD 0 0) (vs.drop 1)).filterMap fun t =>
      if t.w == 0 then none else t.at_.map fun a => a / 64
  | .rbox _ _ => (rayRanges true (vs.getD 0 0)).flatMap fun r => of r.1 r.2
  | .rtri _ _ => (rayRanges false (vs.getD 0 0)).flatMap fun r => of r.1 r.2
  | _ => []

def Op.laneFmt (o : Op) (vs : List Nat) : Nat → Bool :=
  match o.instr with
  | .texn _ _ => texFmt (vs.getD 0 0) true
  | .tex _ _ | .texg _ _ => texFmt (vs.getD 0 0) false
  | _ => rayFmt

/-- Every sector the operation uses. -/
def Op.renderSectors (o : Op) : List Nat := distinct (o.vals.flatMap fun v => o.laneSectors v.2)

/-- Bytes at an address, out of the sectors read; none where one of them is refused or failed. -/
def Op.bytesAt (o : Op) (ok : Nat → Bool) (a n : Nat) : Option Nat :=
  let ks := (List.range n).map fun j => (a + j) % 2 ^ 57
  if (distinct (ks.map fun b => b / 64)).any fun k => o.sectorState ok k != 0 then none
  else some (ofLeBytes (ks.map fun b => BitVec.ofNat 8 (bitsOf (o.sector (b / 64)).val (8 * (b % 64)) 8)))

/-- R310: what stands for a channel that a texel lacks: 0, 0 and 1.0 in channel order. -/
def channelFill (c : Nat) : Num := if c == 3 then numOfNat 1 else numZero false

/-- R310: channel `c` of a texel. -/
def texelVal (d : Texture) (v c : Nat) : Num :=
  let w := tyWidth (Texture.fmt d)
  let x := bitsOf v (w * c) w
  if Texture.channels d ≤ c then channelFill c
  else
    match Texture.fmt d with
    | .n8 => .fin false x 255
    | .n16 => .fin false x 65535
    | t => floatVal t x

/-- Channel `c` at a tap: +0 in a refused or failed sector (R312); outside the texture the border colour's own channel,
whatever channels a texel has (DESIGN CHOICE, log entry 27). -/
def Op.tapVal (o : Op) (d : Texture) (t : Tap) (c : Nat) : Num :=
  match t.at_ with
  | none => Texture.border d c
  | some a =>
    match o.bytesAt (texFmt d false) a (Texture.texel d) with
    | some v => texelVal d v c
    | none => numZero false

/-- R312: channel `c` at a tap of TEXG: one beyond the texture's own reads the fill, at the border too. -/
def Op.gatherVal (o : Op) (d : Texture) (t : Tap) (c : Nat) : Num :=
  if t.at_.isNone && decide (Texture.channels d ≤ c) then channelFill c else o.tapVal d t c

/-- Latent `c` at a tap (R314). -/
def Op.latent (o : Op) (d : Texture) (t : Tap) (c : Nat) : Num :=
  match t.at_ with
  | none => numZero false
  | some a =>
    let k := a / 64
    if o.sectorState (texFmt d true) k != 0 then numZero false
    else
      let r := o.sector k
      bxElem .bx4 r.val (r.desc / 256 % 256) (a % 64 / 8 * 16 + c)

/-- An exact sum of products and terms, rounded once (R312, R314). -/
def sumOf (xs : List (Num × Num)) (c : Option Num) : Num × Flags × Bool :=
  let ps := xs.map fun p => numMul p.1 p.2
  let nan := (xs.any fun p => p.1.isNan || p.2.isNan) || (match c with | some x => x.isNan | none => false)
  let ts := ps ++ (match c with | some x => [(x, 0)] | none => [])
  match ts with
  | [] => (numZero false, 0, nan)
  | t :: r =>
    let v := List.foldl (fun (a : Num × Flags) (x : Num × Flags) =>
      let y := numAdd a.1 x.1
      (y.1, a.2 ||| x.2 ||| y.2)) t r
    (v.1, v.2, nan)

def roundSum (x : Num × Flags × Bool) : Nat × Flags :=
  if x.2.2 then ((floatFmt .f32).nanBits, 0)
  else
    let r := roundFloat .f32 x.1
    (r.1, r.2 ||| x.2.1)

def tapWeight (t : Tap) : Num := .fin false t.w (2 ^ 32)

/-- R314: the eight outputs of a network over 16 latents. -/
def networkOut (net : Nat) (z : List Num) : List (Nat × Flags) :=
  let bf := fun (a : Nat) => floatVal .bf16 (bitsOf net (8 * a) 16)
  let hs := (List.range 32).map fun k =>
    let r := roundSum (sumOf (((List.range 16).map fun c => (bf (32 * k + 2 * c), z.getD c .nan))) (some (bf (1024 + 2 * k))))
    (freluBits .f32 r.1, r.2)
  let fh := List.foldl (fun fl h => fl ||| h.2) (0 : Flags) hs
  (List.range 8).map fun o =>
    let y := roundSum (sumOf (((List.range 32).map fun k => (bf (1088 + 64 * o + 2 * k), floatVal .f32 (hs.getD k (0, 0)).1)))
      (some (bf (1600 + 2 * o))))
    if bitOf net (8 * 1616 + o) then
      let r := approxVal 0x49 .f32 y.1
      (r.1, fh ||| y.2 ||| r.2)
    else (y.1, fh ||| y.2)

/-- The record of a network among an operation's arguments. -/
def netOf (args : List Nat) (net : Nat) : Option Nat :=
  match args with
  | a :: v :: ok :: r => if a == net then (if ok == 1 then some v else none) else netOf r net
  | _ => none

/-- What a lane of a texture or ray command is given: its results, and flags. In a batch whose fibres name several networks
a failed load gives 0x7FC00000 to the lanes that name its image (DESIGN CHOICE, log entry 27). -/
def Op.laneResult (o : Op) (vs : List Nat) : List Nat × Flags :=
  let f := o.fields
  let d := vs.getD 0 0
  let gather := fun (rs : List (Nat × Flags)) => (rs.map Prod.fst, List.foldl (fun fl r => fl ||| r.2) (0 : Flags) rs)
  match o.instr with
  | .tex _ _ =>
    let taps := (tapsOf o.instr f d (vs.drop 1)).filter fun t => t.w != 0
    gather ((List.range 4).map fun c => roundSum (sumOf (taps.map fun t => (tapWeight t, o.tapVal d t c)) none))
  | .texg _ _ => gather ((tapsOf o.instr f d (vs.drop 1)).map fun t => roundFloat .f32 (o.gatherVal d t (f.xf 2 2)))
  | .txq _ _ =>
    let l := sextN (vs.getD 1 0) 32
    if l < 0 || (Texture.lm1 d : Int) < l then ([0, 0, 0, 0], 0)
    else ([Texture.w d l.toNat, Texture.h d l.toNat, Texture.dl d l.toNat, Texture.lm1 d + 1], 0)
  | .texn _ _ =>
    match netOf o.args (Texture.net d) with
    | none => (List.replicate 8 0x7FC00000, 0)
    | some net =>
      let taps := (tapsOf o.instr f d (vs.drop 1)).filter fun t => t.w != 0
      let z := (List.range 16).map fun c =>
        let r := sumOf (taps.map fun t => (tapWeight t, o.latent d t c)) none
        if r.2.2 then .nan else r.1
      gather (networkOut net z)
  | .rbox _ _ =>
    let ray := (vs.drop 1).map (floatVal .f32)
    if refKind d == 0 then (boxResult (List.replicate 4 (none, 0)), 0)
    else
      let a := nodeAt d
      (boxResult ((List.range 4).map fun c =>
        match o.bytesAt rayFmt (a + 96 + 8 * c) 8, o.bytesAt rayFmt (a + 24 * c) 24 with
        | some r, some b =>
          (if refKind r == 0 then none else boxHit ray ((List.range 6).map fun k => floatVal .f32 (bitsOf b (32 * k) 32)), r)
        | some r, none => (none, r)
        | none, _ => (none, 0)), 0)
  | .rtri _ _ =>
    let ray := (vs.drop 1).map (floatVal .f32)
    let best := List.foldl (fun (m : Option (Nat × TriHit × Nat)) (p : Nat × Nat × Nat) =>
      match o.bytesAt rayFmt p.2.1 40 with
      | none => m
      | some v =>
        match triHit (f.xf 0 2) ray ((List.range 9).map fun k => floatVal .f32 (bitsOf v (32 * k) 32)), m with
        | none, m => m
        | some h, none => some (p.1, h, bitsOf v 288 32)
        | some h, some b => if numLt h.t b.2.1.t then some (p.1, h, bitsOf v 288 32) else some b) none
      ((List.range 16).zip (rayRanges false d))
    (match best with
      | none => [0, missBits, 0, 0, 0xFFFFFFFF]
      | some (i, h, prim) => [1 + 2 * boolNat h.back + 4 * i, distBits h.t, distBits h.u, distBits h.v, prim], 0)
  | _ => ([], 0)

/-- Registers of a slot lane's fibre take values from a base upward. -/
def State.putVregs (s : State) (o : Op) (l base : Nat) (vs : List Nat) : State :=
  match o.lanes.find? fun x => x.1 == l with
  | none => s
  | some (_, g, j) =>
    s.modGroup g fun gr => List.foldl (fun (gr : Group) (p : Nat × Nat) => gr.setReg j (base + p.1) p.2) gr
      ((List.range vs.length).zip vs)

/-- A texture or ray command ends: the sectors no step has read are read, each once (R308), and when it has all of them
every lane's results are written together. -/
def State.renderReads (s : State) (id : Nat) : State :=
  match s.op id with
  | none => s
  | some o =>
    let s := s.fetchSectors id o.renderSectors
    match s.op id with
    | none => s
    | some o =>
      if !o.hasAll o.renderSectors then s
      else
      let bad := distinct (o.vals.flatMap fun v => ((o.laneSectors v.2).map fun k =>
        (k, o.sectorState (o.laneFmt v.2) k)).filter fun x => x.2 != 0)
      let rs := o.vals.map fun v => (v.1, o.laneResult v.2)
      let s := rs.foldl (fun (s : State) r => s.putVregs o r.1 o.fields.c.toNat r.2.1) s
      s.modOp id fun o =>
        { o with
          rest := [], flags := List.foldl (fun fl r => fl ||| r.2.2) 0 rs
          status := List.foldl (fun m x => max m x.2) o.status bad
          detail := o.detail + (distinct (bad.map Prod.fst)).length }

/-- R321: one lane of RPUSH: the state, the block's new words, and whether it was refused. -/
def State.pushLane (s : State) (o : Op) (vs : List Nat) : State × List Nat × Bool :=
  let f := o.fields
  let n := ringDepth f
  let blk := (vs.drop 2).take 13
  let new := vs.drop 15
  let w := blk.getD 0 0
  let reg := bitsOf w 0 3
  let spill := bitsOf w 3 7
  let head := bitsOf w 10 6
  let ovf := bitOf w 16
  let es := blk.drop 1
  if reg < 4 then (s, stackWord (reg + 1) spill head ovf :: (es.take (3 * reg) ++ new ++ es.drop (3 * reg + 3)), false)
  else if spill == n then (s, stackWord reg spill head true :: es, true)
  else
    let a := s.opBase o + vs.getD 0 0 + head * vs.getD 1 0
    let v := packFields [(es.getD 0 0, 32), (es.getD 1 0, 32), (es.getD 2 0, 32), (0, 32)]
    (s.storeScr o.core a v 16, stackWord reg (spill + 1) ((head + 1) % n) ovf :: (es.drop 3 ++ new), false)

/-- Four refilled ring entries, or fewer, the oldest first: a slot with a word in error, whichever of its four, gives free
values for the entry's three registers, and status 0x08 (DESIGN CHOICE, log entry 29). -/
def State.refill (s : State) (o : Op) (vs : List Nat) (head k n : Nat) : State × List Nat × Bool :=
  List.foldl (fun (a : State × List Nat × Bool) j =>
    let slot := (head + n - k + j) % n
    let p := s.opScr o (vs.getD 0 0 + slot * vs.getD 1 0)
    if a.1.placeLost p 16 then
      (a.1.draw, a.2.1 ++ (List.range 3).map (fun c => (Config.word (3 * a.1.free + c)).toNat), true)
    else
      let v := a.1.placeLoad p 16
      (a.1.repairPlace p 16, a.2.1 ++ [bitsOf v 0 32, bitsOf v 32 32, bitsOf v 64 32], a.2.2)) (s, [], false) (List.range k)

/-- R321: one lane of RPOP: the block's new words, the output, whether it was empty, and whether a word was in
error. -/
def State.popLane (s : State) (o : Op) (vs : List Nat) : State × List Nat × List Nat × Bool × Bool :=
  let n := ringDepth o.fields
  let blk := (vs.drop 2).take 13
  let w := blk.getD 0 0
  let reg := bitsOf w 0 3
  let spill := bitsOf w 3 7
  let head := bitsOf w 10 6
  let ovf := bitOf w 16
  let es := blk.drop 1
  if reg == 0 && spill == 0 then (s, stackWord 0 spill head ovf :: es, [0, 0, missBits], true, false)
  else
    let k := if reg == 0 then min spill 4 else 0
    let (s, got, bad) := s.refill o vs head k n
    let es := got ++ es.drop (3 * k)
    let reg := if reg == 0 then k else reg
    (s, stackWord (reg - 1) (spill - k) ((head + n - k) % n) ovf :: es, (es.drop (3 * (reg - 1))).take 3, false, bad)

/-- RPUSH or RPOP completes, lane by lane in ascending order. Where RPOP's output overlaps its stack block, the output is
written last (DESIGN CHOICE, log entry 29). -/
def State.stackRun (s : State) (id : Nat) (push : Bool) : State :=
  match s.op id with
  | none => s
  | some o =>
    let f := o.fields
    let (s, n, bad) := o.vals.foldl (fun (a : State × Nat × Bool) v =>
      if push then
        let (s, blk, full) := a.1.pushLane o v.2
        (s.putVregs o v.1 f.b.toNat blk, a.2.1 + boolNat full, a.2.2)
      else
        let (s, blk, out, empty, bad) := a.1.popLane o v.2
        ((s.putVregs o v.1 f.b.toNat blk).putVregs o v.1 f.c.toNat out, a.2.1 + boolNat empty, a.2.2 || bad)) (s, 0, false)
    let st := if push then (if n == 0 then 0 else 1) else if n == o.vals.length then 3 else 0
    s.modOp id fun o => { o with rest := [], detail := n, status := if bad then 8 else st }

/-- A command that has done its work completes. -/
def State.finishRender (s : State) (id : Nat) : State :=
  match s.op id with
  | some o => if o.rest.isEmpty then s.finishFor id else s
  | none => s

/-- RENDER_OPERATION_COMPLETE (R307): results, token and counter in one step. -/
def execRenderOperationComplete (id : Nat) (s : State) : Res :=
  .next <|
    match s.op id with
    | none => s
    | some o =>
      match o.instr with
      | .rpush _ _ => (s.stackRun id true).finishRender id
      | .rpop _ _ => (s.stackRun id false).finishRender id
      | i => if isRender i then (s.renderReads id).finishRender id else s

/-- NETWORK_SLOT_DROP (R316): a slot may be dropped at any time. -/
def execNetworkSlotDrop (core slot : Nat) (s : State) : Res :=
  .next <|
    if slot < (s.core core).networks.length then
      s.modCore core fun c => { c with networks := c.networks.eraseIdx slot }
    else s

end Sys2Proof.Machine
end

