-- ==== Sys2Proof/Machine/HashGrid.lean ====
section
/-! DEFINITION. The cluster's hash-grid engine (14 R343-R353): configuration slots, HCFG, HGATH and HSCAT. An HSCAT's
units are its adds to device shadows (by their place in R349's order), and 2^60 for all its slice words. -/

namespace Sys2Proof.Machine

/-! ### Configurations (Tables 14.7, 14.8) -/

/-- A configuration descriptor as a number. -/
abbrev Grid := Nat

/-- A level record's fields (Table 14.8). -/
structure Level where
  n : Nat
  lt : Nat
  device : Bool
  tc : Nat
  tbase : Nat
  gbase : Nat
  deriving DecidableEq, Repr, Inhabited

namespace Grid
def levels (d : Grid) : Nat := bitsOf d 0 4 + 1
/-- F: features of an entry. -/
def features (d : Grid) : Nat := if bitOf d 4 then 4 else 2
def size (d : Grid) : Nat := 64 + 32 * levels d
def level (d : Grid) (l : Nat) : Level :=
  let o := 512 + 256 * l
  { n := bitsOf d o 20 + 1, lt := bitsOf d (o + 20) 5, device := bitOf d (o + 25), tc := bitsOf d (o + 26) 2
    tbase := bitsOf d (o + 64) 64, gbase := bitsOf d (o + 128) 64 }
end Grid

/-- R346 check 2 on one level, for a team with windows of `sizes` bytes on its cores. -/
def levelOk (d : Grid) (sizes : List Nat) (l : Nat) : Bool :=
  let o := 512 + 256 * l
  let v := Grid.level d l
  let f := Grid.features d
  bitsOf d (o + 28) 36 == 0 && bitsOf d (o + 192) 64 == 0 && 14 ≤ v.lt && v.lt ≤ 22 && v.tbase % 64 == 0 &&
    v.gbase % 64 == 0 &&
    if v.device then v.tc == 0
    else
      v.tc < sizes.length && v.tbase < 2 ^ 20 && v.gbase < 2 ^ 20 && v.tbase + 2 * f * 2 ^ v.lt ≤ sizes.getD v.tc 0 &&
        v.gbase + 4 * f * 2 ^ v.lt ≤ sizes.getD v.tc 0

def gridOk (d : Grid) (sizes : List Nat) : Bool :=
  bitsOf d 5 27 == 0 && bitsOf d 128 384 == 0 && (List.range (Grid.levels d)).all (levelOk d sizes)

/-! ### Slots (R344) -/

/-- A team is present in a cluster. -/
def Team.inCluster (t : Team) (cl : Nat) : Bool := !t.ended && !t.out && t.cores.any fun k => coreCluster k == cl

/-- The team of a cluster that owns a configuration slot, with the slot. -/
def State.slotOwner (s : State) (cl cs : Nat) : Option (Nat × HashSlot) :=
  List.findSome? (fun (p : Nat × Team) =>
    if p.2.inCluster cl then (Tab.get? p.2.hslots cs).map fun h => (p.1, h) else none) s.teams

/-- R344, R352: an operation of a team reads who owns a slot, in the owner's sync state and, where `own` is set, in its
own. True: what it reads is lost. -/
def State.readOwner (s : State) (cl cs t : Nat) (own : Bool) : State × Bool :=
  let ts := (match s.slotOwner cl cs with | some (o, _) => [o] | none => []) ++ (if own then [t] else [])
  ts.foldl (fun (a : State × Bool) t =>
    let r := a.1.readSync t (32 + cs)
    (r.1, a.2 || r.2)) (s, false)

def isHash (i : Instr) : Bool := match i with | .hcfg _ _ | .hgath _ _ | .hscat _ _ => true | _ => false

/-- R343: 32 operations in flight from the cluster's cores. -/
def State.hashFull (s : State) : Bool :=
  decide (32 ≤ s.inFlight fun o => isHash o.instr && coreCluster o.core == coreCluster s.iss.core)

/-- A team's slots with a slot configured anew: one more HCFG is pending on it (R346). -/
def Team.setSlot (t : Team) (cs d : Nat) : Tab HashSlot :=
  Tab.set t.hslots cs { desc := d, pending := (Tab.getD t.hslots cs { desc := d }).pending + 1 }

/-- HCFG (R346). In a stream kernel the lowest fibre's scalar names the descriptor (DEDUCED, log entry 30). -/
def execHcfg (g : Guard) (f : Fields) (s : State) : Res :=
  renderExec g 2 (fun s ls =>
    if s.hashFull then s.stall
    else
      let a := s.sreg (ls.headD 0) (f.a.toNat % 64) % 2 ^ 32
      let t := s.iss.team
      let tm := s.teamOf t
      let cs := f.xf 0 4
      if a % 64 != 0 then s.raiseDesc 0x24 a
      else if s.outOfWindow a 64 then s.raiseDesc 0x26 a
      else
        match s.windowBytes a 64 with
        | (s, .error e) => s.raise e
        | (s, .ok h) =>
          if s.outOfWindow a (Grid.size h) then s.raiseDesc 0x26 a
          else
            match s.windowBytes a (Grid.size h) with
            | (s, .error e) => s.raise e
            | (s, .ok d) =>
              let others := match s.slotOwner (coreCluster s.iss.core) cs with | some (o, _) => o != t | none => false
              let (s, lost) := s.readOwner (coreCluster s.iss.core) cs t true
              if lost then s.raise 0x74
              else if others || !gridOk d tm.ssize then s.raise 0x62
              else
                let rs := (List.range (Grid.levels d)).flatMap fun l =>
                  let v := Grid.level d l
                  let n := 2 * Grid.features d * 2 ^ v.lt
                  if v.device then [(v.tbase % 2 ^ 57, n, Acc.read), (v.gbase % 2 ^ 57, 2 * n, Acc.write)] else []
                match s.checkRanges rs with
                | (s, some (c, va)) => s.raiseDesc c va
                | (s, none) =>
                  (s.modTeam t fun tm => { tm with hslots := tm.setSlot cs d }).enter
                    { s.renderOp (.hcfg g f) ls 2 (f.d.toNat % 64) [] (fun _ => []) with args := [cs] }) s

/-! ### Footprints (R348) -/

/-- A position as a fraction of [0, 1]. -/
def unitPos (x : Num) : Nat × Nat :=
  match x with
  | .nan => (0, 1)
  | .inf b => (if b then 0 else 1, 1)
  | .fin b n d => if b then (0, 1) else if d < n then (1, 1) else (n, d)

/-- The corners of non-zero weight at a level: entry and exact weight. -/
def footprint (d : Grid) (v : Level) (ps : List Num) : List (Nat × Num) :=
  let n := v.n
  let t := 2 ^ v.lt
  let ax := ps.map fun p =>
    let (a, b) := unitPos p
    let i := min (a * n / b) (n - 1)
    (i, a * n - i * b, b)
  let dense := (n + 1) ^ 3 ≤ t
  (List.range 8).filterMap fun c =>
    let off := (List.range 3).map fun a => bitsOf c a 1
    let ws := (ax.zip off).map fun p => (if p.2 == 1 then p.1.2.1 else p.1.2.2 - p.1.2.1, p.1.2.2)
    let w := List.foldl (fun (x : Nat × Nat) (y : Nat × Nat) => (x.1 * y.1, x.2 * y.2)) (1, 1) ws
    let at_ := fun a => (ax.getD a (0, 0, 1)).1 + off.getD a 0
    let e := if dense then at_ 0 + (n + 1) * (at_ 1 + (n + 1) * at_ 2)
      else ((at_ 0 * bitsOf d 32 32 % 2 ^ 32) ^^^ (at_ 1 * bitsOf d 64 32 % 2 ^ 32) ^^^ (at_ 2 * bitsOf d 96 32 % 2 ^ 32)) % t
    if w.1 == 0 then none else some (e, .fin false w.1 w.2)

/-- The levels of an operation, with their first feature's index among the registers. -/
def Op.gridLevels (o : Op) : List (Nat × Level) :=
  let d := o.args.getD 0 0
  let f := o.fields
  (List.range (f.xf 8 4 + 1)).map fun j => (j * Grid.features d, Grid.level d (f.xf 4 4 + j))

def Op.gridPos (vs : List Nat) : List Num := (vs.take 3).map (floatVal .f32)

/-- R349: the adds of an HSCAT in order: level, shadow offset, and w × g. -/
def Op.adds (o : Op) : List (Level × Nat × Num) :=
  let d := o.args.getD 0 0
  let f := Grid.features d
  o.gridLevels.flatMap fun l => o.vals.flatMap fun v =>
    (footprint d l.2 (Op.gridPos v.2)).flatMap fun e => (List.range f).map fun k =>
      (l.2, l.2.gbase + 4 * f * e.1 + 4 * k, (numMul e.2 (floatVal .f32 (v.2.getD (3 + l.1 + k) 0))).1)

/-- The units of an HSCAT: each device-level add is a request of its own (19 R455). -/
def Op.scatterUnits (o : Op) : List Nat :=
  o.adds.zipIdx.filterMap fun (a : (Level × Nat × Num) × Nat) => if a.1.1.device then some a.2 else none

/-- The shadow word and the addend of a device-level add. -/
def Op.addAt (o : Op) (k : Nat) : Nat × Num :=
  match o.adds[k]? with
  | some a => (a.2.1 % 2 ^ 57, a.2.2)
  | none => (0, numZero false)

/-! ### Acceptance of HGATH and HSCAT (R347) -/

/-- HGATH and HSCAT stall while the slot is pending (R346). `reg` is the first register of the range, a result or a source. The operation holds the
configuration and its owner; for each lane, the position and the gradients. -/
def hashExec (i : Instr) (g : Guard) (f : Fields) (gather : Bool) (s : State) : Res :=
  renderExec g (if gather then 0 else 1) (fun s ls =>
    let reg := if gather then f.c.toNat else f.b.toNat
    let l0 := f.xf 4 4
    let nl := f.xf 8 4 + 1
    let (s, lost) := s.readOwner (coreCluster s.iss.core) (f.xf 0 4) s.iss.team false
    if lost then s.raise 0x74
    else
    match s.slotOwner (coreCluster s.iss.core) (f.xf 0 4) with
    | none => s.raise 0x62
    | some (t, h) =>
      if h.pending != 0 then s.stall
      else
      let n := nl * Grid.features h.desc
      let regs := (List.range n).map (reg + ·)
      let h0 := (s.group s.iss.gid).h
      if (s.teamOf t).ctx != s.curCtx || Grid.levels h.desc < l0 + nl || !regs.all (s.roleOf s.iss.gid).hasReg then
        s.raise 0x62
      else if regs.any fun r => 64 ≤ r && h0 ≤ (r - 64) / 32 then s.raise 0x42
      else if s.hashFull || (s.takers g).any fun q => regs.any fun r => (s.pendingVecs q).contains r then s.stall
      else if !gather && ls.any fun l => regs.any fun r => s.regError l r == some .uncorrectable then s.raise 0x73
      else
        let s := if gather then s else ls.foldl (fun (s : State) l => regs.foldl (fun (s : State) r => s.repairReg l r) s) s
        let o := s.renderOp i ls (if gather then 0 else 1) (f.d.toNat % 64) (if gather then regs else [])
          fun l => s.vregs l f.a.toNat 3 ++ (if gather then [] else regs.map (s.vreg l))
        let o := { o with args := [h.desc, t] }
        s.enter { o with rest := (if gather then [] else o.scatterUnits) ++ [2 ^ 60] }) s

/-- HGATH (R347, R348). -/
def execHgath (g : Guard) (f : Fields) (s : State) : Res := hashExec (.hgath g f) g f true s
/-- HSCAT (R347, R349). -/
def execHscat (g : Guard) (f : Fields) (s : State) : Res := hashExec (.hscat g f) g f false s

/-! ### Work (R348-R350, R353) -/

/-- A place of a slice level: the owner's window on team core `tc`; saved with the owner when it is out. None once the
owner has ended. -/
def State.slicePlace (s : State) (t tc a : Nat) : Option Nat :=
  let tm := s.teamOf t
  if tm.ended then none else if tm.out then some a else some (tm.sbase.getD tc 0 + a)

/-- A slice word or half word: its value, or the status that stands for it. -/
def State.sliceLoad (s : State) (t tc a z : Nat) : Except Nat Nat :=
  let tm := s.teamOf t
  match s.slicePlace t tc a with
  | none => .error 0x0B
  | some b =>
    if tm.out then .ok (cellLoad (tm.windows.getD tc []) b z)
    else
      let p := Place.scr (tm.cores.getD tc 0) b
      if s.placeLost p z then .error 0x08 else .ok (s.placeLoad p z)

def State.sliceStore (s : State) (t tc a v z : Nat) : State :=
  let tm := s.teamOf t
  match s.slicePlace t tc a with
  | none => s
  | some b =>
    if tm.out then s.modTeam t fun tm => { tm with windows := tm.windows.modify tc fun m => cellStore m b v z }
    else s.storeScr (tm.cores.getD tc 0) b v z

/-- The device sectors whose tables an HGATH reads. -/
def Op.tableSectors (o : Op) : List Nat :=
  let d := o.args.getD 0 0
  distinct (o.gridLevels.flatMap fun l =>
    if !l.2.device then []
    else o.vals.flatMap fun v => (footprint d l.2 (Op.gridPos v.2)).map fun e =>
      (l.2.tbase + 2 * Grid.features d * e.1) % 2 ^ 57 / 64)

def shadowFmt (c : Nat) : Bool := c == 0 || c == 0x09

/-- Feature `k` of entry `e`, or the status and sector or word of what is lost. -/
def State.feature (s : State) (o : Op) (l : Level) (e k : Nat) : Except (Nat × Nat) Nat :=
  let a := l.tbase + 2 * Grid.features (o.args.getD 0 0) * e + 2 * k
  if l.device then
    let va := a % 2 ^ 57
    let st := o.sectorState bf16Fmt (va / 64)
    if st != 0 then .error (st, va / 64) else .ok (bitsOf (o.sector (va / 64)).val (8 * (va % 64)) 16)
  else
    match s.sliceLoad (o.args.getD 1 0) l.tc a 2 with
    | .ok v => .ok v
    | .error st => .error (st, 2 ^ 60 + l.tc * 2 ^ 20 + a / 4)

/-- R348: one lane's results, with flags, and what was lost. -/
def State.gatherLane (s : State) (o : Op) (vs : List Nat) : List (Nat × Flags) × List (Nat × Nat) :=
  let d := o.args.getD 0 0
  let rs := o.gridLevels.flatMap fun l =>
    let es := footprint d l.2 (Op.gridPos vs)
    (List.range (Grid.features d)).map fun k =>
      let xs := es.map fun e => (e.2, s.feature o l.2 e.1 k)
      (roundSum (sumOf (xs.map fun x => (x.1, match x.2 with | .ok v => floatVal .bf16 v | .error _ => numZero false)) none),
        xs.filterMap fun x => match x.2 with | .ok _ => none | .error e => some e)
  (rs.map Prod.fst, rs.flatMap Prod.snd)

/-- A slice word that is read: a corrected error is repaired and recorded (07 R187). -/
def State.sliceMend (s : State) (t tc a : Nat) : State :=
  let tm := s.teamOf t
  match s.slicePlace t tc a with
  | none => s
  | some b => if tm.out then s else s.repairPlace (.scr (tm.cores.getD tc 0) b) 4

/-- The words of the slice tables that an HGATH reads: team core, and window address. -/
def Op.sliceWords (o : Op) : List (Nat × Nat) :=
  let d := o.args.getD 0 0
  let z := 2 * Grid.features d
  distinct (o.gridLevels.flatMap fun l =>
    if l.2.device then []
    else o.vals.flatMap fun v => (footprint d l.2 (Op.gridPos v.2)).flatMap fun e =>
      (List.range (z / 4)).map fun k => (l.2.tc, l.2.tbase + z * e.1 + 4 * k))

/-- R348: an HGATH ends. DETAIL counts the distinct device sectors and slice words that were lost (DESIGN CHOICE, log entry
30). -/
def State.gatherRun (s : State) (id : Nat) : State :=
  match s.op id with
  | none => s
  | some o =>
    let s := s.fetchSectors id o.tableSectors
    match s.op id with
    | none => s
    | some o =>
      if !o.hasAll o.tableSectors then s
      else
      let rs := o.vals.map fun v => (v.1, s.gatherLane o v.2)
      let lost := distinct (rs.flatMap fun r => r.2.2)
      let s := o.sliceWords.foldl (fun (s : State) w => s.sliceMend (o.args.getD 1 0) w.1 w.2) s
      let s := rs.foldl (fun (s : State) r => s.putVregs o r.1 o.fields.c.toNat (r.2.1.map Prod.fst)) s
      s.modOp id fun o =>
        { o with
          rest := [], status := lost.foldl (fun m x => max m x.1) 0, detail := (distinct (lost.map Prod.snd)).length
          flags := List.foldl (fun fl r => List.foldl (fun fl (x : Nat × Flags) => fl ||| x.2) fl r.2.1) 0 rs }

/-- One add to a shadow word. -/
def addWord (w : Nat) (x : Num) : Nat × Flags :=
  let y := floatVal .f32 w
  floatExpr .f32 [y, x] (numAdd y x)

/-- The adds to slice words, in order; a word in error stays as it is. -/
def State.scatterSlice (s : State) (id : Nat) : State :=
  match s.op id with
  | none => s
  | some o =>
    let t := o.args.getD 1 0
    let s := o.adds.foldl (fun (s : State) a =>
      if a.1.device then s
      else
        match s.sliceLoad t a.1.tc a.2.1 4 with
        | .error st => s.modOp id fun o => o.lose st (2 ^ 60 + a.1.tc * 2 ^ 20 + a.2.1 / 4)
        | .ok w =>
          let r := addWord w a.2.2
          ((s.sliceMend t a.1.tc a.2.1).sliceStore t a.1.tc a.2.1 r.1 4).modOp id fun o => { o with flags := o.flags ||| r.2 }) s
    s.modOp id fun o => o.took (2 ^ 60)

/-- One add to a device word, at its home; a sector of another format keeps its words. None while it waits for
sectors or in its home's queue. -/
def State.scatterHome (s : State) (id k : Nat) (o : Op) : State × Option Reply :=
  let (va, w) := o.addAt k
  match s.opAddr o va .write with
  | (s, .error st) => (s, some { status := st })
  | (s, .ok x) =>
    if s.outranked id o x then (s.enqueue id o x, none)
    else
    let d := s.homeOf x.pa
    let (s, r) := if paRegion x.pa == 1 then s.readSector o.core o.ctx x else s.readHome d x.pa
    let desc := if x.tagged then r.desc else 0
    let st := if r.status != 0 then r.status else if shadowFmt (desc % 256) then 0 else 2
    if st != 0 then (s, some { status := st })
    else
      let b := va % 64
      let (v, fl) := addWord (bitsOf r.val (8 * b) 32) w
      match s.writeMasked (dieAgent d) o.ctx x (v * 2 ^ (8 * b)) (15 * 2 ^ b) desc with
      | (s, .done g) =>
        (((s.dropLine (s.cacheKey o.core x.pa) (paLa x.pa / 512)).serveAs o x).endWait (.op id), some { flags := fl, gwct := g })
      | (s, .refused st) => ((s.serveAs o x).endWait (.op id), some { status := st })
      | (s, .waits d) => (s.noteWait (.op id) d, none)

/-- The response of an add is taken; DETAIL counts lost sectors, and lost slice words with them (DESIGN CHOICE, log entry
30). -/
def Op.scatterTake (o : Op) (k : Nat) (r : Reply) : Op :=
  if r.status != 0 then (o.lose r.status ((o.addAt k).1 / 64)).took k
  else { o.took k with flags := o.flags ||| r.flags, gwct := max o.gwct r.gwct }

/-- One add to a device word; at another die by an exactly-once request of the hash-grid engine (19 R455). -/
def State.scatterWord (s : State) (id k : Nat) : State :=
  match s.op id with
  | none => s
  | some o =>
    if s.hasJob (.unit id k) then s
    else
      match s.opAddr o (o.addAt k).1 .write with
      | (s, .error st) => s.modOp id fun o => o.scatterTake k { status := st }
      | (s, .ok x) =>
        if !s.reaches (coreDie o.core) x.pa then s.modOp id fun o => o.scatterTake k { status := 0x09 }
        else if s.homeOf x.pa != coreDie o.core then
          s.sendJob o.source (coreDie o.core) (s.homeOf x.pa) (laneOf (paLa x.pa)) (.unit id k) (o.classOf x)
            (o.deadlines.getD (o.classOf x) none)
        else
          match s.scatterHome id k o with
          | (s, some r) => s.modOp id fun o => o.scatterTake k r
          | (s, none) => s

def State.hashPerform (s : State) (id k : Nat) : State :=
  if k == 2 ^ 60 then s.scatterSlice id else s.scatterWord id k

/-- HASH_GRID_OPERATION_COMPLETE (R346, R348, R349): an HSCAT's token follows its writes' completion (R386). -/
def execHashGridOperationComplete (id : Nat) (s : State) : Res :=
  .next <|
    match s.op id with
    | none => s
    | some o =>
      match o.instr with
      | .hcfg _ _ =>
        (s.modTeam o.team fun tm =>
          { tm with hslots := Tab.modify tm.hslots (o.args.getD 0 0) fun h => { h with pending := h.pending - 1 } }).finishFor id
      | .hgath _ _ => (s.gatherRun id).finishRender id
      | .hscat _ _ =>
        let s := s.runUnits id State.hashPerform o.rest
        match s.op id with
        | none => s
        | some o =>
          if o.rest.isEmpty && s.settled o then (s.modOp id fun o => { o with detail := o.lost.length }).finishFor id else s
      | _ => s

end Sys2Proof.Machine
end

