-- ==== Sys2Proof/Machine/NearMemory.lean ====
section
/-! DEFINITION. Near-memory commands, root units and beet adders (18 R433-R449). -/

namespace Sys2Proof.Machine

/-! ### Descriptors (Tables 18.7, 18.8, 18.9) -/

/-- A descriptor as a number: 64 bytes, or 128 for NMOPT. -/
abbrev Near := Nat

namespace Near
/-- DST, or TBASE. -/
def base (d : Near) : Nat := bitsOf d 0 57
/-- SRC, or LIST. -/
def src (d : Near) : Nat := bitsOf d 64 19
/-- L, in bytes. -/
def len (d : Near) : Nat := 64 * (bitsOf d 128 4 + 1)
/-- NROWS, or the list's entries. -/
def rows (d : Near) : Nat := bitsOf d 144 13 + 1
/-- DSTRIDE, or RSTRIDE. -/
def stride (d : Near) : Nat := bitsOf d 192 64
/-- IDX, or WLIST. -/
def idx (d : Near) : Nat := bitsOf d 256 19
def p0 (d : Near) : Num := floatVal .f32 (bitsOf d 320 32)
def p1 (d : Near) : Num := floatVal .f32 (bitsOf d 352 32)
def dstw (d : Near) : Nat := bitsOf d 320 19
/-- Parameter `k` of the block of Table 18.8. -/
def param (d : Near) (k : Nat) : Num := floatVal .f32 (bitsOf d (512 + 32 * k) 32)
end Near

/-- The fields of a near-memory instruction. -/
def nearFields (i : Instr) : Fields :=
  match i with
  | .nmadd _ f | .nmred _ f | .nmscl _ f | .nmopt _ f | .nmfence _ f | .nmq _ f => f
  | _ => default

def nearOpt (i : Instr) : Bool := match i with | .nmopt _ _ => true | _ => false
def nearRed (i : Instr) : Bool := match i with | .nmred _ _ => true | _ => false
def nearUpdate (i : Instr) : Bool := match i with | .nmadd _ _ | .nmscl _ _ | .nmopt _ _ => true | _ => false
def nearFence (i : Instr) : Bool := match i with | .nmfence _ _ => true | _ => false
/-- IDX of an update. -/
def nearIdx (i : Instr) : Bool := nearUpdate i && bitOf (nearFields i).x.toNat 2
/-- NOSRC of NMSCL. -/
def nearNosrc (i : Instr) : Bool := match i with | .nmscl _ f => bitOf f.x.toNat 3 | _ => false
/-- K of NMOPT. -/
def nearK (i : Instr) : Nat := bitsOf (nearFields i).x.toNat 3 1
/-- OPR of NMRED. -/
def nearOpr (i : Instr) : Nat := bitsOf (nearFields i).x.toNat 2 2

/-- Bytes of the descriptor. -/
def nearBytes (i : Instr) : Nat := if nearOpt i then 128 else 64
/-- Bytes of device memory a row touches: a record of NMOPT has six of L. -/
def nearSpan (i : Instr) (d : Near) : Nat := if nearOpt i then 6 * d.len else d.len

/-- The index of a list entry that names no row (R443). -/
def noRow : Nat := 0x7FFFFFFF
def entryIdx (e : Nat) : Nat := bitsOf e 0 31
def entryEnd (e : Nat) : Bool := bitOf e 31

/-- R438: the device address of row `i`, whose index is `j`. -/
def Near.row (d : Near) (j : Nat) : Nat := (d.base + j * d.stride) % 2 ^ 57

/-! ### Issue (R438) -/

/-- What the checks have read of a command: its descriptor, its index or list words, its weights. -/
structure NearCmd where
  d : Near
  words : List Nat := []
  weights : List Nat := []
  deriving DecidableEq, Repr, Inhabited

/-- Row numbers with their indices. -/
def NearCmd.indices (c : NearCmd) (i : Instr) : List (Nat × Nat) :=
  let js := if nearRed i then c.words.map entryIdx else if nearIdx i then c.words else List.range c.d.rows
  ((List.range js.length).zip js).filter fun p => !(nearRed i && p.2 == noRow)

def NearCmd.bags (c : NearCmd) : Nat := (c.words.filter entryEnd).length

/-- Reserved fields, alignments and counts (R438 check 2). -/
def NearCmd.ok (c : NearCmd) (i : Instr) : Bool :=
  let d := c.d
  let red := nearRed i
  bitsOf d 57 7 == 0 && bitsOf d 83 45 == 0 && bitsOf d 132 12 == 0 && bitsOf d 157 35 == 0 && bitsOf d 275 45 == 0 &&
    d.base % 64 == 0 && d.stride % 64 == 0 && d.src % 4 == 0 &&
    (if red then
      bitsOf d 339 173 == 0 && d.dstw % 64 == 0 && (if nearOpr i == 2 then d.idx % 4 == 0 else d.idx == 0) &&
        (match c.words.getLast? with | some e => entryEnd e | none => false)
    else
      bitsOf d 384 128 == 0 && (if nearIdx i then d.idx % 4 == 0 else d.idx == 0) &&
        (match i with
          | .nmscl _ _ => !nearNosrc i || (d.src == 0 && bitsOf d 352 32 == 0)
          | _ => bitsOf d 320 64 == 0) &&
        (!nearOpt i || (d.len ≤ 128 && bitsOf d 800 224 == 0))) &&
    (c.indices i).all fun p => d.row p.2 % 1024 + nearSpan i d ≤ 1024

/-- Window ranges of a command beyond its descriptor (R438 check 1). -/
def NearCmd.windows (c : NearCmd) (i : Instr) : List (Nat × Nat) :=
  let d := c.d
  if nearRed i then
    (if nearOpr i == 2 then [(d.idx, 4 * d.rows)] else []) ++ [(d.dstw, c.bags * d.len)]
  else if nearNosrc i then [] else [(d.src, d.rows * d.len)]

/-- `n` words of the window from an address. -/
def State.windowWords (s : State) (a n : Nat) : State × Except Nat (List Nat) :=
  match s.windowBytes a (4 * n) with
  | (s, .ok v) => (s, .ok ((List.range n).map fun k => bitsOf v (32 * k) 32))
  | (s, .error e) => (s, .error e)

/-- The array of index or list words: where it is, or none. -/
def nearArray (i : Instr) (d : Near) : Option Nat := if nearRed i then some d.src else if nearIdx i then some d.idx else none

def nearCls (i : Instr) : Nat := if nearRed i then 0 else if nearFence i then 2 else 1

/-- R438 check 3: each row's page is checked, and copied if an update writes it; where the rows then stand, or the cause
and the address of the first that fails. -/
def State.placeRows (s : State) (k ctx : Nat) (a : Acc) (vas : List Nat) : State × Except (Nat × Nat) (List Xlate) :=
  match vas with
  | [] => (s, .ok [])
  | va :: r =>
    match s.access k ctx va a with
    | (s, .error c) => (s, .error (c, va))
    | (s, .ok x) =>
      match s.placeRows k ctx a r with
      | (s, .ok xs) => (s, .ok (x :: xs))
      | (s, .error e) => (s, .error e)

def nearAcc (i : Instr) : Acc := if nearRed i then .nearRead else .near

/-- R438 from check 1 on the descriptor, then acceptance: `vals` holds the weights, and where each row stands, by row. -/
def State.startNear (s : State) (i : Instr) (u : Nat) (d : Near) : State :=
  let arr := nearArray i d
  if arr.any fun a => s.outOfWindow a (4 * d.rows) then s.raiseDesc 0x26 (arr.getD 0)
  else
    match (match arr with | some a => s.windowWords a d.rows | none => (s, .ok [])) with
    | (s, .error e) => s.raise e
    | (s, .ok words) =>
      let c : NearCmd := { d := d, words := words }
      match (c.windows i).find? fun r => s.outOfWindow r.1 r.2 with
      | some r => s.raiseDesc 0x26 r.1
      | none =>
        match (if nearRed i && nearOpr i == 2 then s.windowWords d.idx d.rows else (s, .ok [])) with
        | (s, .error e) => s.raise e
        | (s, .ok weights) =>
          if !c.ok i then s.raise 0x64
          else
            let rs := c.indices i
            match s.placeRows s.iss.core s.curCtx (nearAcc i) (rs.map fun p => d.row p.2) with
            | (s, .error (e, va)) => s.raiseDesc e va
            | (s, .ok xs) =>
              let at_ := (rs.zip xs).foldl (fun (t : Tab (List Nat)) p => Tab.set t (1 + p.1.1) [p.2.pa, p.2.pte]) []
              s.accept { s.newOp u i (nearCls i) ((nearFields i).d.toNat % 64) with
                args := d :: words, vals := Tab.set at_ 0 weights, rest := rs.map Prod.fst
                svc := bitsOf (nearFields i).x.toNat 0 2 }

/-- One execution of NMADD, NMSCL, NMOPT or NMRED. -/
def State.nearOne (s : State) (i : Instr) (u : Nat) : State :=
  if s.iss.out != .done then s
  else
    match s.iss.at? u with
    | none => s
    | some (g, _) =>
      if s.engineBusy g (nearCls i) false then s.stall
      else
        let a := s.sreg u ((nearFields i).a.toNat % 64) % 2 ^ 32
        if a % 64 != 0 then s.raiseDesc 0x24 a
        else if s.outOfWindow a (nearBytes i) then s.raiseDesc 0x26 a
        else
          match s.windowBytes a (nearBytes i) with
          | (s, .error e) => s.raise e
          | (s, .ok d) => s.startNear i u d

def nearExec (g : Guard) (i : Instr) (s : State) : Res :=
  issued s fun _ => List.foldl (fun t u => t.nearOne i u) s (s.onceUnits g)

/-- NMADD (R440). -/
def execNmadd (g : Guard) (f : Fields) (s : State) : Res := nearExec g (.nmadd g f) s
/-- NMSCL (R440). -/
def execNmscl (g : Guard) (f : Fields) (s : State) : Res := nearExec g (.nmscl g f) s
/-- NMOPT (R441). -/
def execNmopt (g : Guard) (f : Fields) (s : State) : Res := nearExec g (.nmopt g f) s
/-- NMRED (R444). -/
def execNmred (g : Guard) (f : Fields) (s : State) : Res := nearExec g (.nmred g f) s

/-! ### Banks (R420, R433) -/

/-- The banks of a page of a physical address. -/
def State.pageBanks (s : State) (la n : Nat) : List Nat :=
  distinct ((List.range (n / 1024)).map fun j => s.bankOf (la + 1024 * j))

/-- The die, and the stack of the package, of a bank. -/
def bankDie (b : Nat) : Nat := b / 2048
def bankStack (b : Nat) : Nat := b / 1024

/-- The 4 KiB pages that meet a range. -/
def pagesOf (va n : Nat) : List Nat :=
  if n == 0 then []
  else (List.range ((va + n - 1) / 4096 - va / 4096 + 1)).map fun j => (va / 4096 + j) * 4096 % 2 ^ 57

/-- R445: the banks of flat, NM-permitted pages that meet a range. -/
def State.fenceBanks (s : State) (k ctx va n : Nat) : List Nat :=
  distinct ((pagesOf va n).flatMap fun p =>
      match s.lookup k ctx p with
      | .ok x =>
        let size := if pteC64 x.pte then 65536 else pageBytes x.level
        if pteFlat x.pte && pteNm x.pte && s.isFlat (paLa x.pa / 512) then s.pageBanks (paLa x.pa / size * size) size else []
      | .error _ => [])

/-- The dies to which a fence sends markers: those of its banks. -/
def fenceDies (all : Bool) (banks : List Nat) : List Nat :=
  (List.range 4).filter fun d => all || banks.any fun b => bankDie b == d

/-- One execution of NMFENCE (R445): its range is translated now. ALL stands first in `args`, then the banks; its units are
the dies whose markers have not arrived. -/
def State.fenceOne (s : State) (g : Guard) (f : Fields) (u : Nat) : State :=
  if s.iss.out != .done then s
  else
    match s.iss.at? u with
    | none => s
    | some (gid, _) =>
      if s.engineBusy gid 2 false then s.stall
      else
        let all := bitOf f.x.toNat 2
        let va := s.sreg u (f.a.toNat % 64) % 2 ^ 57
        let n := min (s.sreg u (f.b.toNat % 64)) (2 ^ 40)
        let s := if all || s.faults.isEmpty then s
          else (pagesOf va n).foldl (fun (s : State) p => s.noteWalk s.iss.core (s.teamOf s.iss.team).ctx p) s
        let banks := if all then [] else s.fenceBanks s.iss.core (s.teamOf s.iss.team).ctx va n
        s.accept { s.newOp u (.nmfence g f) 2 (f.d.toNat % 64) with
          args := boolNat all :: banks, rest := fenceDies all banks, svc := bitsOf f.x.toNat 0 2 }

/-- NMFENCE (R445). -/
def execNmfence (g : Guard) (f : Fields) (s : State) : Res :=
  issued s fun _ => List.foldl (fun t u => t.fenceOne g f u) s (s.onceUnits g)

/-- NMQ (R446). -/
def execNmq (g : Guard) (f : Fields) (s : State) : Res :=
  issued s fun i =>
    List.foldl (fun (t : State) u =>
      match i.at? u with
      | none => t
      | some (gid, _) =>
        let rows := (t.nmRows.filter fun p => p.2.gid == gid).length
        let reds := t.inFlight fun o => o.gid == gid && nearRed o.instr
        let fences := t.inFlight fun o => o.gid == gid && nearFence o.instr
        t.writeToken gid (f.d.toNat % 64) 2 0 0 false rows (packFields [(reds, 15), (fences, 15)])) s (s.onceUnits g)

/-! ### The order of an agent's commands at a bank (R434) -/

/-- The address and entry of a row, as its check placed it. -/
def Op.rowPa (o : Op) (i : Nat) : Nat := (Tab.getD o.vals (1 + i) []).headD 0
def Op.rowPte (o : Op) (i : Nat) : Nat := (Tab.getD o.vals (1 + i) []).getD 1 0
/-- The bank of a row. -/
def State.rowBank (s : State) (o : Op) (i : Nat) : Nat := s.bankOf (paLa (o.rowPa i))

/-- A fence covers a bank. -/
def Op.covers (o : Op) (bank : Nat) : Bool := o.args.getD 0 0 == 1 || (o.args.drop 1).contains bank

/-- The exactly-once request of a unit has been performed at its home (19 R456). -/
def State.jobDone (s : State) (id u : Nat) : Bool :=
  s.reqs.any fun r => r.2.job == .unit id u &&
    (Tab.get? (Tab.getD s.filters (4 * r.2.msg.src + r.2.msg.dst) {}).marks r.2.msg.tsn).isSome

/-- Units that have still to be performed. -/
def State.undone (s : State) (id : Nat) (o : Op) : List Nat := o.rest.filter fun u => !s.jobDone id u

/-- An earlier update of the agent has a row for a bank not delivered, or an earlier fence has a marker for it that has
not arrived. -/
def State.undelivered (s : State) (id gid b : Nat) : Bool :=
  s.ops.any fun p => decide (p.1 < id) && p.2.gid == gid &&
    ((nearUpdate p.2.instr && (s.undone p.1 p.2).any fun i => s.rowBank p.2 i == b) ||
      (nearFence p.2.instr && p.2.covers b && (s.undone p.1 p.2).contains (bankDie b)))

/-- Two fences have a bank of a die in common. -/
def Op.meets (o p : Op) (d : Nat) : Bool :=
  if o.args.getD 0 0 == 1 then p.args.getD 0 0 == 1 || (p.args.drop 1).any fun b => bankDie b == d
  else (o.args.drop 1).any fun b => bankDie b == d && p.covers b

/-- What a fence's marker to a die waits for: the same, at the fence's banks of the die. -/
def State.markerBehind (s : State) (id : Nat) (o : Op) (d : Nat) : Bool :=
  s.ops.any fun p => decide (p.1 < id) && p.2.gid == o.gid &&
    ((nearUpdate p.2.instr && (s.undone p.1 p.2).any fun i => bankDie (s.rowBank p.2 i) == d && o.covers (s.rowBank p.2 i)) ||
      (nearFence p.2.instr && o.meets p.2 d && (s.undone p.1 p.2).contains d))

/-- An earlier NMRED of the agent has a row at a bank that is not read. -/
def State.unread (s : State) (id gid b : Nat) : Bool :=
  s.ops.any fun p => decide (p.1 < id) && p.2.gid == gid && nearRed p.2.instr &&
    (s.undone p.1 p.2).any fun i => s.rowBank p.2 i == b

/-! ### Delivery (R439) -/

/-- The index of an NMRED's list entry. -/
def Op.rowIdx (o : Op) (i : Nat) : Nat := entryIdx (o.args.getD (i + 1) 0)

/-- The index of an update's row: all 32 bits (R438). -/
def Op.updateIdx (o : Op) (i : Nat) : Nat := if nearIdx o.instr then o.args.getD (i + 1) 0 else i

/-- The device address of a row. -/
def Op.rowVa (o : Op) (i : Nat) : Nat := Near.row (o.args.getD 0 0) (if nearRed o.instr then o.rowIdx i else o.updateIdx i)

/-- The class of a row's requests (08 R220). -/
def Op.rowCls (o : Op) (i : Nat) : Nat := max o.svc (pteCls (o.rowPte i))

/-- A row refused at delivery (R439). -/
def Op.refuse (o : Op) (i st : Nat) : Op := { (o.fail st).took i with detail := o.detail + 1 }

/-- The response to a delivered row is taken. -/
def Op.rowTake (o : Op) (i : Nat) (r : Reply) : Op :=
  if r.status != 0 then o.refuse i r.status else { o.took i with info := o.info + 1 }

/-- Row `i` of an update enters its bank's queue, or is refused; none while the queue is full. -/
def State.rowHome (s : State) (id : Nat) (o : Op) (i : Nat) : Option (State × Reply) :=
  let d : Near := o.args.getD 0 0
  let bank := s.rowBank o i
  if 64 ≤ (s.nmRows.filter fun p => p.2.bank == bank).length then none
  else
    let src := s.opScr o (d.src + i * d.len)
    let nosrc := nearNosrc o.instr
    if !nosrc && s.placeLost src d.len then some (s, { status := 0x08 })
    else
      let row : NmRow :=
        { op := id, gid := o.gid, core := o.core, ctx := o.ctx, bank := bank, instr := o.instr, desc := d, va := o.rowVa i
          pa := o.rowPa i, pte := o.rowPte i, x := if nosrc then 0 else s.placeLoad src d.len, cls := o.rowCls i
          deadline := o.deadlines.getD (o.rowCls i) none, since := s.gtc (bankDie bank), gone := o.gone (o.rowVa i) }
      let s := if nosrc then s else s.repairPlace src d.len
      some ({ s with seq := s.seq + 1, nmRows := Tab.set s.nmRows s.seq row }, {})

/-- A unit of a near-memory command goes to a home on another die, as an exactly-once request of the core (19 R455). -/
def State.sendNear (s : State) (id : Nat) (o : Op) (u home lane cls : Nat) : State :=
  (s.sendJob o.source (coreDie o.core) home lane (.unit id u) cls (o.deadlines.getD cls none)).modOp id fun o => { o with moved := true }

/-- Delivers row `i` of an update, or refuses it; false while it waits: behind earlier commands, for room in the bank's
queue, or for the request that carries it to another die. -/
def State.deliverRow (s : State) (id : Nat) (o : Op) (i : Nat) : State × Bool :=
  let home := homeDie (o.rowPa i)
  if s.hasJob (.unit id i) || s.undelivered id o.gid (s.rowBank o i) then (s, false)
  else if !s.reaches (coreDie o.core) (o.rowPa i) then (s.modOp id fun o => o.rowTake i { status := 0x09 }, true)
  else if home != coreDie o.core then (s.sendNear id o i home (laneOf (paLa (o.rowPa i))) (o.rowCls i), false)
  else
    match s.rowHome id o i with
    | none => (s, false)
    | some (s, r) => (s.modOp id fun o => o.rowTake i r, true)

/-- Delivers up to `n` rows in ascending order. -/
def State.deliverRows (s : State) (id : Nat) : Nat → State
  | 0 => s
  | n + 1 =>
    match s.op id with
    | none => s
    | some o =>
      match s.undone id o with
      | [] => s
      | i :: _ =>
        match s.deliverRow id o i with
        | (s, true) => s.deliverRows id n
        | (s, false) => s

/-- NEAR_MEMORY_DELIVERY_COMPLETE (R439): rows are delivered, as many as timing allows, and the token is written once
every one of them is delivered or refused. -/
def execNearMemoryDeliveryComplete (id : Nat) (s : State) : Res :=
  .next <|
    match s.op id with
    | none => s
    | some o =>
      if !nearUpdate o.instr || s.opOut o then s
      else
        let s := s.draw.deliverRows id (1 + Config.choice s.free % o.rest.length)
        match s.op id with
        | none => s
        | some o => if o.rest.isEmpty then s.finishOp id else s

/-! ### Root units (R440-R442) -/

/-- R440: one word of a row. -/
def nearWord (i : Instr) (d : Near) (a x : Nat) : Nat × Flags :=
  let p := floatVal .f32 a
  let q := floatVal .f32 x
  match i with
  | .nmadd _ _ => floatExpr .f32 [p, q] (numAdd p q)
  | _ =>
    if nearNosrc i then floatExpr .f32 [d.p0, p] (numMul d.p0 p)
    else
      let u := numMul d.p0 p
      let v := numMul d.p1 q
      let r := numAdd u.1 v.1
      floatExpr .f32 [d.p0, p, d.p1, q] (r.1, u.2 ||| v.2 ||| r.2)

/-- One expression of R441, evaluated exactly and rounded once: its bits, with the flags so far. -/
def optStep (fl : Flags) (xs : List Num) (e : Num × Flags) : Nat × Flags :=
  let r := floatExpr .f32 xs e
  (r.1, fl ||| r.2)

/-- a × b + c × d, exactly. -/
def numDot (a b c d : Num) : Num × Flags :=
  let u := numMul a b
  let v := numMul c d
  let r := numAdd u.1 v.1
  (r.1, u.2 ||| v.2 ||| r.2)

/-- R441: the new weight and moments of one element, with flags. -/
def optWord (d : Near) (g w m v : Nat) : Nat × Nat × Nat × Flags :=
  let num := fun (x : Nat) => floatVal .f32 x
  let (lr, b1, b1c, b2, b2c) := (d.param 0, d.param 1, d.param 2, d.param 3, d.param 4)
  let (c1, c2, eps, wd) := (d.param 5, d.param 6, d.param 7, d.param 8)
  let (m1, fl) := optStep 0 [b1, num m, b1c, num g] (numDot b1 (num m) b1c (num g))
  let bg := numMul b2c (num g)
  let e := numDot b2 (num v) bg.1 (num g)
  let (v1, fl) := optStep fl [b2, num v, b2c, num g] (e.1, e.2 ||| bg.2)
  let vc := numMul (num v1) c2
  let rt := numSqrt vc.1
  let (den, fl) := optStep fl [num v1, c2] (rt.1, vc.2 ||| rt.2)
  let (den, fl) := optStep fl [num den, eps] (numAdd (num den) eps)
  let (mc, fl) := optStep fl [num m1, c1] (numMul (num m1) c1)
  let (u, fl) := optStep fl [num mc, num den] (numDiv (num mc) (num den))
  let ww := numMul wd (num w)
  let t := numAdd (num u) ww.1
  let lt := numMul lr t.1
  let r := numSub (num w) lt.1
  let (w1, fl) := optStep fl [num w, lr, num u, wd] (r.1, ww.2 ||| t.2 ||| lt.2 ||| r.2)
  (w1, m1, v1, fl)

/-- An FP32 word that is NaN or infinite. -/
def nonFinite (w : Nat) : Bool := bitsOf w 23 8 == 255

/-- The sixteen words of a 64-byte number. -/
def words16 (v : Nat) : List Nat := (List.range 16).map fun j => bitsOf v (32 * j) 32
/-- Words as a number, the first lowest. -/
def ofWords (ws : List Nat) : Nat := match ws with | [] => 0 | w :: r => w % 2 ^ 32 + 2 ^ 32 * ofWords r

/-- R435, R448 rule 4: a root unit writes a sector: no watch is triggered. -/
def State.bankWrite (s : State) (pa v : Nat) : State :=
  { s with faults := Tab.erase s.faults (paLa pa / 64) }.setPaBytes pa v 64

/-- R442: a sector is left unchanged, and logged. -/
def State.bankLose (s : State) (row : NmRow) (n : NmNote) (pa st : Nat) : State × NmNote :=
  (s.log (bankDie row.bank) (0x300 + bankStack row.bank) 0x0B
      [(row.ctx, 12), (row.core, 12), (st, 8), (paLa pa / 64, 34)],
    { n with lost := n.lost ++ [st] })

/-- A sector of the row as its bank holds it, or the status that keeps the unit from it. -/
def State.bankRead (s : State) (row : NmRow) (pa : Nat) : State × Nat × Nat :=
  if row.gone then (s, 0, 0x0B)
  else
    let s := s.noteCorrected pa false
    (s, s.paLoad pa 64, s.sectorStatus pa)

/-- Where part `p` (weights, first moments, second moments) of a slot of an NMOPT record has its sector `c` (R441). -/
def NmRow.part (row : NmRow) (slot p c : Nat) : Nat :=
  row.pa + (3 * slot + p) * Near.len row.desc + 64 * c

/-- The sectors a row is to write: those whose sources no error keeps from it (R440-R442). -/
def State.rowWrites (s : State) (row : NmRow) : List Nat :=
  if row.gone then []
  else
    (List.range (Near.len row.desc / 64)).flatMap fun c =>
      if nearOpt row.instr then
        let k := nearK row.instr
        if (List.range 3).all fun p => s.sectorStatus (row.part k p c) == 0 then
          (List.range 3).map fun p => row.part (1 - k) p c
        else []
      else if s.sectorStatus (row.pa + 64 * c) == 0 then [row.pa + 64 * c] else []

/-- The lines of the sectors a row writes are backed before it is performed (R416); none where one waits. -/
def State.backRow (s : State) (row : NmRow) : Option State :=
  (distinct ((s.rowWrites row).map fun pa => paLa pa / 512)).foldl (fun (o : Option State) l =>
    o.bind fun s => s.backLine l) (some s)

/-- R440: sector `c` of an NMADD or NMSCL row. -/
def State.rowSector (s : State) (row : NmRow) (n : NmNote) (c : Nat) : State × NmNote :=
  let pa := row.pa + 64 * c
  match s.bankRead row pa with
  | (s, a, st) =>
    if st != 0 then s.bankLose row n pa st
    else
      let rs := ((words16 a).zip (words16 (bitsOf row.x (512 * c) 512))).map fun p => nearWord row.instr row.desc p.1 p.2
      (s.bankWrite pa (ofWords (rs.map Prod.fst)),
        { n with
          gwct := max n.gwct (s.gwct pa)
          flags := rs.foldl (fun fl r => fl ||| r.2) n.flags
          nonfinite := n.nonfinite + (rs.filter fun r => nonFinite r.1).length })

/-- R441: sectors `c` of the weights and moments of an NMOPT record. -/
def State.optSector (s : State) (row : NmRow) (n : NmNote) (c : Nat) : State × NmNote :=
  let k := nearK row.instr
  let at_ := fun (slot p : Nat) => row.part slot p c
  let (s, w, sw) := s.bankRead row (at_ k 0)
  let (s, m, sm) := s.bankRead row (at_ k 1)
  let (s, v, sv) := s.bankRead row (at_ k 2)
  let st := max sw (max sm sv)
  if st != 0 then
    (List.range 3).foldl (fun (a : State × NmNote) p => a.1.bankLose row a.2 (at_ (1 - k) p) st) (s, n)
  else
    let rs := (List.range 16).map fun j =>
      let wd := fun (x : Nat) => bitsOf x (32 * j) 32
      optWord row.desc (wd (bitsOf row.x (512 * c) 512)) (wd w) (wd m) (wd v)
    let outs := [rs.map fun r => r.1, rs.map fun r => r.2.1, rs.map fun r => r.2.2.1]
    let s := ((List.range 3).zip outs).foldl (fun (s : State) p => s.bankWrite (at_ (1 - k) p.1) (ofWords p.2)) s
    (s, { n with
      gwct := (List.range 3).foldl (fun m p => max m (s.gwct (at_ (1 - k) p))) n.gwct
      flags := rs.foldl (fun fl r => fl ||| r.2.2.2) n.flags
      nonfinite := n.nonfinite + ((outs.flatMap id).filter nonFinite).length })

/-- R415: a root unit's or beet adder's request to its bank counts when it is late (log entry 17). -/
def State.serveRow (s : State) (bank cls : Nat) (deadline : Option Nat) : State :=
  s.countMiss (bankDie bank) (0x300 + bankStack bank) cls deadline

/-- What a performed row does to its sectors, and what is recorded of it (R440-R442). -/
def State.runRow (s : State) (row : NmRow) : State × NmNote :=
  (List.range (Near.len row.desc / 64)).foldl (fun (a : State × NmNote) c =>
      if nearOpt row.instr then a.1.optSector row a.2 c else a.1.rowSector row a.2 c)
    (s, { gid := row.gid, ctx := row.ctx, bank := row.bank })

/-- R435: the GWCT of a performed row is recorded; those that every die's counter has passed are of no more use. -/
def State.noteGwct (s : State) (key : Nat) (row : NmRow) (t : Nat) : State :=
  if t == 0 then s
  else { s with nmDone := Tab.set (s.nmDone.filter fun p => decide (s.time ≤ p.2.gwct)) key { ctx := row.ctx, bank := row.bank, gwct := t } }

/-- A row is performed at its bank, and recorded against its agent; it waits while a line it writes cannot be backed. -/
def State.performRow (s : State) (key : Nat) (row : NmRow) : State :=
  match s.backRow row with
  | none => s.noteWait (.row key) (bankDie row.bank)
  | some s =>
    let (s, n) := s.runRow row
    let s := s.noteGwct key row n.gwct
    (({ s with nmRows := Tab.erase s.nmRows key, nmNotes := Tab.set s.nmNotes key n }.endWait (.row key)).serveRow row.bank
      row.cls row.deadline).notePress (bankDie row.bank)

/-- R434: the agent's oldest row in a bank's queue. -/
def State.oldestRow (s : State) (bank agent : Nat) : Option (Nat × NmRow) :=
  s.nmRows.find? fun p => p.2.bank == bank && p.2.gid == agent

def NmRow.waiting (row : NmRow) (key : Nat) : Queued :=
  { since := row.since, cls := row.cls, deadline := row.deadline, id := key }

/-- R414: another agent's oldest row at the bank goes first: one that stands behind no unread row of an NMRED, and waits
for no sectors. -/
def State.rowBehind (s : State) (key : Nat) (row : NmRow) : Bool :=
  let d := bankDie row.bank
  s.nmRows.any fun p =>
    p.1 != key && (s.oldestRow row.bank p.2.gid).map Prod.fst == some p.1 && !s.unread p.2.op p.2.gid row.bank &&
      !(s.sectorWaits.any fun w => w.1 == .row p.1) &&
      (p.2.waiting p.1).before (row.waiting key) (s.gtc d) (s.die d).age

/-- The oldest row of an agent at a bank, if it is of the kind asked for, stands behind no unread row of an NMRED, and no
other agent's goes first. -/
def State.rootUnit (s : State) (bank agent : Nat) (opt : Bool) : State :=
  match s.oldestRow bank agent with
  | none => s
  | some (key, row) => if nearOpt row.instr != opt || s.unread row.op agent bank || s.rowBehind key row then s else s.performRow key row

/-- ROOT_UNIT_UPDATE (R440). -/
def execRootUnitUpdate (bank agent : Nat) (s : State) : Res := .next (s.rootUnit bank agent false)
/-- ROOT_UNIT_OPT_UPDATE (R441). -/
def execRootUnitOptUpdate (bank agent : Nat) (s : State) : Res := .next (s.rootUnit bank agent true)

/-! ### NMRED (R444) -/

/-- R434: row `i` of an NMRED may be read: what the agent sent its bank before has been performed. -/
def State.mayRead (s : State) (id : Nat) (o : Op) (i : Nat) : Bool :=
  let b := s.rowBank o i
  !s.undelivered id o.gid b && !s.unread id o.gid b &&
    !(s.nmRows.any fun p => p.2.gid == o.gid && p.2.bank == b && decide (p.2.op < id))

/-- The row of list entry `i` as its bank reads it, with the highest status met; a row withdrawn is not read. -/
def State.redHome (s : State) (o : Op) (i : Nat) : State × Reply :=
  if o.gone (o.rowVa i) then (s, { status := 0x0B })
  else
    let pa := o.rowPa i
    let (s, r) := (List.range (Near.len (o.args.getD 0 0) / 64)).foldl (fun (a : State × Reply) c =>
      let (s, x) := a.1.readHome (homeDie pa) (pa + 64 * c)
      (s, { a.2 with val := a.2.val + x.val * 2 ^ (512 * c), status := max a.2.status x.status })) (s, ({} : Reply))
    (s.serveRow (s.rowBank o i) (o.rowCls i) (o.deadlines.getD (o.rowCls i) none), r)

/-- A row's bytes at 2i of the buffer, its status at 2i + 1. -/
def Op.redTake (o : Op) (i : Nat) (r : Reply) : Op :=
  { o.took i with buf := Tab.set (Tab.set o.buf (2 * i) r.val) (2 * i + 1) r.status }

/-- Reads the row of list entry `i` at its bank: at its own die, or by an exactly-once request (19 R455). -/
def State.readRow (s : State) (id i : Nat) : State :=
  match s.op id with
  | none => s
  | some o =>
    let home := homeDie (o.rowPa i)
    if s.hasJob (.unit id i) || !s.mayRead id o i then s
    else if !s.reaches (coreDie o.core) (o.rowPa i) then s.modOp id fun o => o.redTake i { status := 0x09 }
    else if home != coreDie o.core then s.sendNear id o i home (laneOf (paLa (o.rowPa i))) (o.rowCls i)
    else
      let (s, r) := s.redHome o i
      s.modOp id fun o => o.redTake i r

/-- One row of an NMRED is read, whichever timing allows. -/
def State.readOne (s : State) (id : Nat) (o : Op) : State :=
  let can := o.rest.filter fun i => !s.hasJob (.unit id i) && s.mayRead id o i
  match can[Config.choice s.free % can.length]? with
  | some i => s.draw.readRow id i
  | none => s

/-- The entries of each bag, in list order. -/
def bagsOf (ws : List Nat) (i : Nat) (cur : List Nat) : List (List Nat) :=
  match ws with
  | [] => []
  | w :: r =>
    let cur := if entryIdx w == noRow then cur else cur ++ [i]
    if entryEnd w then cur :: bagsOf r (i + 1) [] else bagsOf r (i + 1) cur

/-- Word `j` of a bag. -/
def Op.bagWord (o : Op) (rows : List Nat) (j : Nat) : Nat × Flags :=
  let x := fun (i : Nat) => floatVal .f32 (bitsOf (Tab.getD o.buf (2 * i) 0) (32 * j) 32)
  let ws := Tab.getD o.vals 0 []
  let opr := nearOpr o.instr
  let one := numOfNat 1
  match rows with
  | [] => (0, 0)
  | _ =>
    let r := sumOf (rows.map fun i => ((if opr == 2 then floatVal .f32 (ws.getD i 0) else one), x i)) none
    if opr == 1 then
      let q := numDiv r.1 (numOfNat rows.length)
      roundSum (q.1, r.2.1 ||| q.2, r.2.2)
    else roundSum r

/-- NMRED_COMPLETE (R444): the rows still unread are read, the bags written, and the token. -/
def execNmredComplete (id : Nat) (s : State) : Res :=
  .next <|
    match s.op id with
    | none => s
    | some o =>
      if !nearRed o.instr || s.opOut o then s
      else
        let s := o.rest.foldl (fun (s : State) i => s.readRow id i) s
        match s.op id with
        | none => s
        | some o =>
          if !o.rest.isEmpty then s
          else
            let d : Near := o.args.getD 0 0
            let bags := bagsOf (o.args.drop 1) 0 []
            let stat := fun (i : Nat) => Tab.getD o.buf (2 * i + 1) 0
            let outs := bags.map fun rows =>
              if rows.any fun i => stat i != 0 then (List.replicate (d.len / 4) ((floatFmt .f32).nanBits, (0 : Flags)), true)
              else ((List.range (d.len / 4)).map (o.bagWord rows), false)
            let s := ((List.range outs.length).zip outs).foldl (fun (s : State) p =>
              match s.opScr o (d.dstw + p.1 * d.len) with
              | .scr k a => s.storeScr k a (ofWords (p.2.1.map Prod.fst)) d.len
              | _ => s) s
            (s.modOp id fun o =>
              { o with
                status := (List.range (o.args.length - 1)).foldl (fun m i => max m (stat i)) 0
                detail := (outs.filter fun x => x.2).length, info := bags.length
                flags := outs.foldl (fun fl x => x.1.foldl (fun fl r => fl ||| r.2) fl) 0 }).finishOp id

/-! ### NMFENCE (R445) -/

/-- The marker for a die's banks has arrived there, after `r.val` deliveries; or the die has no path. -/
def Op.markerTake (o : Op) (d : Nat) (r : Reply) : Op :=
  if r.status != 0 then (o.fail r.status).took d else { o.took d with buf := Tab.set o.buf d r.val }

/-- The fence's marker goes to a die, behind the agent's earlier commands at its banks there: at its own at once, to another
by an exactly-once request (19 R455, log entry 36). -/
def State.sendMarker (s : State) (id d : Nat) : State :=
  match s.op id with
  | none => s
  | some o =>
    if s.hasJob (.unit id d) || s.markerBehind id o d then s
    else if d == coreDie o.core then s.modOp id fun o => o.markerTake d { val := s.seq }
    else if (s.route (coreDie o.core) d).isNone then s.modOp id fun o => o.markerTake d { status := 0x09 }
    else s.sendNear id o d d 0 o.svc

/-- A delivered row, or its record, stands before a fence's marker at its bank. -/
def Op.before (o : Op) (key bank : Nat) : Bool :=
  o.covers bank && (match Tab.get? o.buf (bankDie bank) with | some n => decide (key < n) | none => false)

/-- A record goes to a fence: of its own agent, and the first of those not complete to cover its row. -/
def State.noteOf (s : State) (id : Nat) (o : Op) (key : Nat) (n : NmNote) : Bool :=
  n.gid == o.gid && o.before key n.bank &&
    !s.ops.any fun p => decide (p.1 < id) && p.2.gid == o.gid && nearFence p.2.instr && p.2.before key n.bank

/-- A fence waits for a covered update to be performed, for the agent's earlier reads at its banks, or for the completion
times of covered updates' writes (R435). -/
def State.markersWait (s : State) (id : Nat) (o : Op) : Bool :=
  let time := s.nmDone.foldl (fun m p => if p.2.ctx == o.ctx && o.before p.1 p.2.bank then max m p.2.gwct else m) 0
  !o.rest.isEmpty || (s.nmRows.any fun p => p.2.ctx == o.ctx && o.before p.1 p.2.bank) ||
    (s.ops.any fun p => decide (p.1 < id) && p.2.gid == o.gid && nearRed p.2.instr &&
      (s.undone p.1 p.2).any fun i => o.covers (s.rowBank p.2 i)) ||
    (time != 0 && decide (s.gtc (coreDie o.core) ≤ time))

/-- What a fence reports of the records it takes. -/
def Op.report (o : Op) (ns : List NmNote) : Op :=
  let lost := ns.flatMap NmNote.lost
  { o with
    status := lost.foldl max o.status, detail := lost.length, info := min ((ns.map NmNote.nonfinite).sum) (2 ^ 31 - 1)
    flags := ns.foldl (fun fl (n : NmNote) => fl ||| n.flags) 0 }

/-- NMFENCE_COMPLETE (R445): markers go out, and once the fence waits for nothing it takes its records and completes. -/
def execNmfenceComplete (id : Nat) (s : State) : Res :=
  .next <|
    match s.op id with
    | none => s
    | some o =>
      if !nearFence o.instr then s
      else
        let s := o.rest.foldl (fun (s : State) d => s.sendMarker id d) s
        match s.op id with
        | none => s
        | some o =>
          if s.markersWait id o then s
          else
            let mine := s.nmNotes.filter fun p => s.noteOf id o p.1 p.2
            ({ s with nmNotes := s.nmNotes.filter fun p => !s.noteOf id o p.1 p.2 }.modOp id fun o =>
              o.report (mine.map Prod.snd)).finishOp id

end Sys2Proof.Machine
end

