-- ==== Sys2Proof/Machine/SyncMem.lean ====
section
/-! DEFINITION. Synchronisation memory (16 R394-R406): ready flags, version cells, posted writes with their horizon,
and FENCE. -/

namespace Sys2Proof.Machine

/-- How an operation at a flag's or cell's home ends: performed, with its result and the global write completion time of
its write; its group waits there; or a cause. -/
inductive MemEnd where
  | done (result : Option Nat) (gwct : Nat)
  | waits
  | cause (code : Nat)
  deriving DecidableEq, Repr, Inhabited

/-- R396: what an instruction needs at its address, and the alignment. -/
def memNeeds (i : Instr) : Acc × Nat :=
  match i with
  | .twait _ _ => (.read, 8)
  | .trdy _ _ | .tclr _ _ => (.atomic, 8)
  | _ => (.atomic, 16)

/-- Table 16.5: the scope, and whether the instruction is a release (R399, R402, R404). -/
def memReleases (i : Instr) : Option Nat :=
  match i with
  | .trdy _ f | .vpub _ f | .vrel _ f => some (f.xf 0 3)
  | _ => none

/-- The steps that read and write their cell as one (19 R455). -/
def memAtomic (i : Instr) : Bool := match i with | .vpub _ _ | .vacq _ _ | .vrel _ _ => true | _ => false

/-- R394, R399: a release waits until every earlier core access of its agent is performed, and at scope die, pkg or
sys until gtc() > H. -/
def State.mayRelease (s : State) (g : Nat) (i : Instr) : Bool :=
  let gr := s.group g
  match memReleases i with
  | none => true
  | some sc => gr.accessBy ≤ s.cycle && (sc < 4 || decide (gr.horizon < s.gtc (coreDie gr.core)))

/-- The sector of a flag or cell, read at its home (R396); the request leaves a die. -/
def State.readFlag (s : State) (d k ctx : Nat) (x : Xlate) : State × Sector :=
  if paRegion x.pa == 1 then s.readSector k ctx x
  else s.readHome d x.pa

/-- A posted write of a group performed at its home. -/
def State.postWrite (s : State) (d g ctx : Nat) (x : Xlate) (off v n : Nat) (result : Option Nat) : State × MemEnd :=
  match s.writeAt d (s.group g).core ctx { x with pa := x.pa + off } v n 0 with
  | (s, .done t) => (s.endWait (.posted g), .done result t)
  | (s, .refused st) => (s.endWait (.posted g), .cause (statusCause st))
  | (s, .waits h) => (s.noteWait (.posted g) h, .waits)

/-- An operation performed: its result is written, and the horizon keeps the largest GWCT (R394). -/
def State.memDone (s : State) (g dst : Nat) (result : Option Nat) (gwct : Nat) : State :=
  s.modGroup g fun gr =>
    let gr := match result with | some w => gr.putScal dst w | none => gr
    { gr with horizon := max gr.horizon gwct }

/-- VACQ (R403) on the cell's bytes: whether it must wait, and the new word 1 if it writes one. -/
def vacqCell (cell : Nat) (w : Bool) : Option (Option Nat) :=
  let cur := bitsOf cell 32 1
  let rd := fun (i : Nat) => bitsOf cell (64 + 32 * i) 24
  if w then (if rd (1 - cur) == 0 then some none else none)
  else if rd cur < 2 ^ 24 - 1 then some (some (setBits (rd 0 + 2 ^ 32 * rd 1) (32 * cur) 24 (rd cur + 1)))
  else none

/-- The indivisible step of TRDY, TCLR, VPUB, VACQ or VREL at the home (R399, R402-R404). `v` is s[B]. -/
def State.memEffect (s : State) (d g : Nat) (i : Instr) (x : Xlate) (v : Nat) : State × MemEnd :=
  let gr := s.group g
  let ctx := (s.teamOf gr.team).ctx
  match i with
  | .trdy _ _ => s.postWrite d g ctx x 0 (v % 2 ^ 32) 8 none
  | .tclr _ _ => s.postWrite d g ctx x 0 0 8 none
  | _ =>
    match s.readFlag d gr.core ctx x with
    | (s, r) =>
      if r.status != 0 then (s, .cause (statusCause r.status))
      else
        let cell := bitsOf r.val (8 * (x.pa % 64)) 128
        match i with
        | .vpub _ _ => s.postWrite d g ctx x 0 (v % 2 ^ 32 + 2 ^ 32 * (1 - bitsOf cell 32 1)) 8 none
        | .vacq _ f =>
          match vacqCell cell (bitOf f.x.toNat 3) with
          | none => (s, .waits)
          | some none => (s, .done (some (bitsOf cell 0 33)) 0)
          | some (some w) => s.postWrite d g ctx x 8 w 8 (some (bitsOf cell 0 33))
        | .vrel _ _ =>
          let k := v % 2
          let rd := bitsOf cell (64 + 32 * k) 24
          if rd == 0 then (s, .done (some (2 ^ 64 - 1)) 0)
          else
            let w := bitsOf cell 64 24 + 2 ^ 32 * bitsOf cell 96 24
            s.postWrite d g ctx x 8 (setBits w (32 * k) 24 (rd - 1)) 8 (some (rd - 1))
        | _ => (s, .done none 0)

/-- 19 R455: VPUB, VACQ and VREL reach a cell of another die by an exactly-once request. -/
def State.farStep (s : State) (g : Nat) (i : Instr) (x : Xlate) : Bool :=
  memAtomic i && s.homeOf x.pa != coreDie (s.group g).core

/-- R457: another exactly-once request of the core is on the way before a plain one of a group. -/
def State.heldBack (s : State) (g : Nat) (x : Xlate) : Bool :=
  let k := (s.group g).core
  s.homeOf x.pa != coreDie k && s.laneBusy (k % 512) (s.homeOf x.pa) (laneOf (paLa x.pa))

/-- The place in its home's queue of a group's posted write, and its deadlines. -/
def State.postedQueue (s : State) (g : Nat) : Option (Nat × Nat × Nat) × List (Option Nat) :=
  match (s.group g).parked with
  | some p => (p.queued, p.deadlines)
  | none => (none, s.issueDeadlines)

/-- 18 R414: another request in its home's queue goes before a posted write of a group. -/
def State.postedBehind (s : State) (g : Nat) (x : Xlate) : Bool :=
  s.outrankedAt (s.postedQueue g).1 (s.postedQueue g).2 (2 * g + 1) (pteCls x.pte) x.pa

/-- A parked group's posted write stands in its home slice's queue, or, having been served, does no more. -/
def State.setPlace (s : State) (g : Nat) (w : Option (Nat × Nat × Nat)) : State :=
  s.modGroup g fun gr => { gr with parked := gr.parked.map fun p => { p with queued := w } }

def State.enqueuePosted (s : State) (g : Nat) (x : Xlate) : State :=
  if (s.postedQueue g).1.isSome || paRegion x.pa != 0 then s
  else s.setPlace g (some (s.gtc (homeDie x.pa), queueOf x.pa, pteCls x.pte))

/-- Sends that request. -/
def State.sendStep (s : State) (g : Nat) (x : Xlate) : State :=
  let k := (s.group g).core
  s.sendJob (k % 512) (coreDie k) (s.homeOf x.pa) (laneOf (paLa x.pa)) (.posted g) (pteCls x.pte)
    ((s.postedQueue g).2.getD (pteCls x.pte) none)

/-- The checks of R396 at issue: the translation, or the cause with its address. -/
def State.memCheck (s : State) (i : Instr) (va : Nat) : State × Except Nat Xlate :=
  let (acc, al) := memNeeds i
  if va % al != 0 then (s, .error 0x24)
  else if onchip va then (s, .error 0x26)
  else
    match s.access s.iss.core (s.teamOf s.iss.team).ctx va acc with
    | (s, .error c) => (s, .error c)
    | (s, .ok x) => (s, if s.reaches (coreDie s.iss.core) x.pa then .ok x else .error 0x69)

/-- The page of a wait's address. -/
def Wait.page (w : Wait) : Option Nat :=
  match w with
  | .twait va _ _ _ _ | .posted _ va _ _ => some (pageOf va)
  | _ => none

/-- The issuing group of a slot lane waits, with the check of its address (18 R427) and its requests' deadlines (R396). -/
def State.parkMem (s : State) (u : Nat) (w : Wait) : State :=
  match s.iss.at? u with
  | none => s
  | some (g, _) =>
    (s.park u w).modGroup g fun gr =>
      { gr with parked := gr.parked.map fun p =>
        { p with passed := s.iss.checked.filter fun c => some c.1 == w.page, deadlines := s.issueDeadlines } }

/-- One execution of TRDY, TCLR, VPUB, VACQ or VREL at issue: performed in the same step unless it must wait. -/
def State.memOne (s : State) (i : Instr) (f : Fields) (u : Nat) : State :=
  if s.iss.out == .raised then s
  else
    match s.iss.at? u with
    | none => s
    | some (g, _) =>
      let va := s.sreg u (f.a.toNat % 64) % 2 ^ 57
      let v := s.sreg u (f.b.toNat % 64)
      let dst := f.d.toNat % 64
      match s.memCheck i va with
      | (s, .error c) =>
        let tr := 0x20 ≤ c && c < 0x30
        s.raise c (if tr then 1 else 0) (if tr then va else 0)
      | (s, .ok x) =>
        if !s.mayRelease g i then s.parkMem u (.posted i va v dst)
        else if s.farStep g i x then (s.parkMem u (.posted i va v dst)).sendStep g x
        else if s.heldBack g x then s.parkMem u (.posted i va v dst)
        else if s.postedBehind g x then (s.parkMem u (.posted i va v dst)).enqueuePosted g x
        else
          match s.memEffect (coreDie s.iss.core) g i x v with
          | (s, .done r t) => s.memDone g dst r t
          | (s, .waits) => s.parkMem u (.posted i va v dst)
          | (s, .cause c) => s.raise c

def memExec (g : Guard) (f : Fields) (i : Instr) (s : State) : Res :=
  issued s fun _ => List.foldl (fun t u => t.memOne i f u) s (s.scalarUnits g)

/-- TRDY (R399). -/
def execTrdy (g : Guard) (f : Fields) (s : State) : Res := memExec g f (.trdy g f) s
/-- TCLR (R399). -/
def execTclr (g : Guard) (f : Fields) (s : State) : Res := memExec g f (.tclr g f) s
/-- VPUB (R402). -/
def execVpub (g : Guard) (f : Fields) (s : State) : Res := memExec g f (.vpub g f) s
/-- VACQ (R403). -/
def execVacq (g : Guard) (f : Fields) (s : State) : Res := memExec g f (.vacq g f) s
/-- VREL (R404). -/
def execVrel (g : Guard) (f : Fields) (s : State) : Res := memExec g f (.vrel g f) s

/-- The translation of a wait's address, read again; one withdrawn during the wait raises 0x6B (R396). -/
def State.waitAddr (s : State) (g va : Nat) (acc : Acc) : State × Except Nat Xlate :=
  let gr := s.group g
  let as := s.walkedBy gr.core (s.teamOf gr.team).ctx va
  match s.access gr.core (s.teamOf gr.team).ctx va acc with
  | (s, .error c) => (s, .error (if c == 0x68 || c == 0x69 || c == 0x72 then c else 0x6B))
  | (s, .ok x) =>
    let s := s.serveWalk (coreDie gr.core) as ((gr.parked.bind fun p => p.deadlines.getD (pteCls x.pte) none))
    (s, if s.reaches (coreDie gr.core) x.pa then .ok x else .error 0x69)

/-- A waiting operation is performed at its home once its agent may release and the cell allows it (R394, R396, R403). -/
def State.performPosted (s : State) (gid : Nat) : State :=
  match (s.group gid).parked with
  | some { wait := .posted i va v dst, .. } =>
    if !s.mayRelease gid i || (s.teamOf (s.group gid).team).out || s.hasJob (.posted gid) then s
    else
      match s.waitAddr gid va (memNeeds i).1 with
      | (s, .error c) => s.stopParked gid c
      | (s, .ok x) =>
        if s.farStep gid i x then s.sendStep gid x
        else if (s.postedQueue gid).1.isNone && s.heldBack gid x then s
        else if s.postedBehind gid x then s.enqueuePosted gid x
        else
          match s.memEffect (coreDie (s.group gid).core) gid i x v with
          | (s, .done r t) => ((s.serveWait (s.homeOf x.pa) gid).memDone gid dst r t).resume gid
          | (s, .waits) => if s.sectorWaits.any fun w => w.1 == .posted gid then s else s.setPlace gid none
          | (s, .cause c) => (s.serveWait (s.homeOf x.pa) gid).stopParked gid c
  | _ => s

/-- POSTED_WRITE_PERFORM (R394, R396, R403). -/
def execPostedWritePerform (gid : Nat) (s : State) : Res := .next (s.performPosted gid)

/-! ### TWAIT (R400) -/

/-- One turn of R400's loop: the result, or none to go on waiting; or a cause. -/
def State.twaitRead (s : State) (g : Nat) (x : Xlate) (t dl : Nat) : State × Except Nat (Option Nat) :=
  let gr := s.group g
  match s.readFlag (coreDie gr.core) gr.core (s.teamOf gr.team).ctx x with
  | (s, r) =>
    if r.status != 0 then (s, .error (statusCause r.status))
    else if flagMeets (bitsOf r.val (8 * (x.pa % 64)) 32) t then (s, .ok (some 0))
    else if dl < s.gtc (coreDie gr.core) then (s, .ok (some 1))
    else (s, .ok none)

def State.twaitOne (s : State) (f : Fields) (i : Instr) (u : Nat) : State :=
  if s.iss.out == .raised then s
  else
    match s.iss.at? u with
    | none => s
    | some (g, _) =>
      let va := s.sreg u (f.a.toNat % 64) % 2 ^ 57
      let t := s.sreg u (f.b.toNat % 64) % 2 ^ 32
      let dl := s.sreg u (f.c.toNat % 64)
      let dst := f.d.toNat % 64
      match s.memCheck i va with
      | (s, .error c) =>
        let tr := 0x20 ≤ c && c < 0x30
        s.raise c (if tr then 1 else 0) (if tr then va else 0)
      | (s, .ok x) =>
        if s.heldBack g x then s.stall
        else
        match s.twaitRead g x t dl with
        | (s, .error c) => s.raise c
        | (s, .ok (some r)) => s.setS u dst r
        | (s, .ok none) => s.parkMem u (.twait va x.pa t dl dst)

/-- TWAIT (R400). -/
def execTwait (g : Guard) (f : Fields) (s : State) : Res :=
  issued s fun _ => List.foldl (fun t u => t.twaitOne f (.twait g f) u) s (s.scalarUnits g)

/-- A parked TWAIT reads its flag again. -/
def State.twaitAgain (s : State) (g : Nat) : State :=
  match (s.group g).parked with
  | some { wait := .twait va _ t dl dst, .. } =>
    if (s.teamOf (s.group g).team).out then s
    else
      match s.waitAddr g va .read with
      | (s, .error c) => s.stopParked g c
      | (s, .ok x) =>
        if s.heldBack g x then s
        else
        match (s.serveWait (s.homeOf x.pa) g).twaitRead g x t dl with
        | (s, .error c) => s.stopParked g c
        | (s, .ok (some r)) => s.wake g dst r
        | (s, .ok none) => s
  | _ => s

/-- TWAIT_DEADLINE (R400): gtc() has passed the deadline of a parked TWAIT. -/
def execTwaitDeadline (gid : Nat) (s : State) : Res :=
  .next <|
    match (s.group gid).parked with
    | some { wait := .twait _ _ _ dl _, .. } =>
      if dl < s.gtc (coreDie (s.group gid).core) then s.twaitAgain gid else s
    | _ => s

/-! ### FENCE (R397) -/

/-- R397: whether a group or free fibre must still wait. -/
def State.fenceWaits (s : State) (f : Fields) (g : Nat) : Bool :=
  let gr := s.group g
  decide (s.cycle < gr.accessBy) || (4 ≤ f.xf 0 3 && decide (s.gtc (coreDie gr.core) ≤ gr.horizon))

/-- FENCE (R397). -/
def execFence (g : Guard) (f : Fields) (s : State) : Res :=
  issued s fun i =>
    let gs := (s.onceUnits g).filterMap fun u => (i.at? u).map Prod.fst
    if gs.any (s.fenceWaits f) then s.stall else s

end Sys2Proof.Machine
end

