-- ==== Sys2Proof/Machine/Access.lean ====
section
/-! DEFINITION. Single device accesses of the engines as steps of their own (16 R385, R386), leases that end, walks
(18 R426), and copies on write (18 R428). -/

namespace Sys2Proof.Machine

/-! ### Reads and writes of operations -/

/-- The source sectors and words of a copy's destination units that are not yet done. -/
def Op.copySources (o : Op) : List Nat :=
  let c := o.copy
  (o.rest.filter fun k => decide (k < 2 ^ 60)).flatMap fun k =>
    ((List.range 64).filterMap fun j => c.writer (64 * k + j)).flatMap fun w => c.needs w.1 w.2

/-- What an engine's operation reads of device memory and keeps until it completes, by address / 64 (R222, 12 R308, 14
R348). -/
def Op.sources (o : Op) : List Nat :=
  match o.instr with
  | .hgath _ _ => o.tableSectors
  | .cpa _ _ | .cpm _ _ => []
  | i => if isRender i then o.renderSectors else if isCopy i then o.copySources else []

/-- The next of them that an operation has not read. -/
def Op.nextSource (o : Op) : Option Nat :=
  if o.rest.isEmpty then none else o.sources.find? fun q => (Tab.get? o.buf q).isNone

/-- DEVICE_READ_SERVE (16 R385, R390): the next read of an operation is served by a leased line or at the home, which grants
a lease. -/
def execDeviceReadServe (id : Nat) (s : State) : Res :=
  .next <|
    match s.op id with
    | none => s
    | some o =>
      match o.instr with
      | .nmred _ _ => if s.opOut o then s else s.readOne id o
      | .ared _ _ =>
        match o.rest with
        | u :: _ => if u < 2 ^ 40 && (!s.opOut o || o.moved) then s.arRead id u else s
        | [] => s
      | _ =>
        if s.opOut o then s
        else
          match o.nextSource with
          | some q => s.fetchSectors id [q]
          | none => s

/-- The next unit of an operation is written at its home. -/
def State.writeUnit (s : State) (id : Nat) : State :=
  match s.op id with
  | none => s
  | some o =>
    match o.rest with
    | [] => s
    | u :: _ =>
      match o.instr with
      | .hscat _ _ => if s.opOut o then s else s.hashPerform id u
      | .ared _ _ => if u < 2 ^ 40 then s else s.arWrite id u
      | _ => if isCopy o.instr && !s.opOut o then s.copyPerform id u else s

/-- DEVICE_WRITE_PERFORM (16 R386). -/
def execDeviceWritePerform (id : Nat) (s : State) : Res := .next (s.writeUnit id)

/-! ### Leases and translations -/

/-- LEASE_EXPIRY (16 R385): the sectors of a line whose leases have ended serve no more reads. -/
def execLeaseExpiry (cache line : Nat) (s : State) : Res :=
  .next <|
    let now := s.gtc (coreDie cache)
    match Tab.get? (Tab.getD s.caches cache []) line with
    | none => s
    | some cl =>
      let left := cl.sectors.filter fun (x : Nat × Fill) => decide (now < x.2.lease)
      if left.isEmpty then s.dropLine cache line
      else { s with caches := Tab.modify s.caches cache fun c => Tab.set c line { cl with sectors := left } }

/-- A TLB takes an entry; one that is full gives up another, of its own choice (log entry 8). -/
def Tab.keep {α : Type} (t : Tab α) (size free key : Nat) (x : α) : Tab α :=
  let t := if size ≤ t.length then t.eraseIdx (Config.choice free % t.length) else t
  Tab.set t key x

/-- A core's TLB and its cluster's, with their leaves (R426). -/
def tlbsOf (k : Nat) : List (Nat × Nat) := [(k, 512), (512 + coreCluster k, 8192)]

/-- Both take a leaf. -/
def State.holdLeaf (s : State) (core key : Nat) (l : Leaf) : State :=
  (tlbsOf core).foldl (fun (s : State) t =>
    { s with tlbs := Tab.set s.tlbs t.1 (Tab.keep (Tab.getD s.tlbs t.1 []) t.2 s.free key l) }.draw) s

/-- Both take an upper-level pointer. -/
def State.holdPtr (s : State) (core key tbl : Nat) : State :=
  (tlbsOf core).foldl (fun (s : State) t =>
    { s with ptrs := Tab.set s.ptrs t.1 (Tab.keep (Tab.getD s.ptrs t.1 []) t.2 s.free key tbl) }.draw) s

/-- PAGE_WALK (18 R426): a core's TLB and its cluster's take the leaf of a page, and the pointers of its walk. -/
def execPageWalk (core ctx va : Nat) (s : State) : Res :=
  .next <|
    let ctx := ctx % 4096
    let va := va % 2 ^ 57
    let s := s.noteWalk core ctx va
    match s.walkFor core ctx va with
    | .error _ => s
    | .ok x =>
      let (n, t) := (s.walkStart core ctx va).getD (4, ctxRoot (s.ctxEntry (coreDie core) ctx))
      let s := (s.walkPath ctx va t n).foldl (fun (s : State) (p : Nat × Nat × Nat) =>
        if p.1 < 4 then s.holdPtr core (ptrKey p.1 ctx va) p.2.1 else s) s
      s.holdLeaf core (tlbKey ctx va) { pte := BitVec.ofNat 64 x.pte, level := x.level }

/-! ### Copy-on-write (18 R428) -/

/-- Pages that an operation has still to write. -/
def Op.writePages (o : Op) : List Nat :=
  match o.instr with
  | .cpa _ _ => if o.rest.isEmpty then [] else [pageOf o.cpaKind.2.2.2]
  | .hscat _ _ => (o.rest.filter fun k => decide (k < 2 ^ 60)).map fun k => pageOf (o.addAt k).1
  | .ared _ _ => o.rest.map fun i => pageOf (bitsOf (o.args.getD 0 0) 64 57 + 64 * (i % 2 ^ 40))
  | _ =>
    if isCopy o.instr && o.copy.dst == some .device then
      if o.copy.cmd == .m then o.rest.map fun k => pageOf (64 * o.copy.sectorOf k)
      else (o.rest.filter fun k => decide (k < 2 ^ 60)).map fun k => pageOf (64 * k)
    else []

/-- An access that writes a page of a context is under way. -/
def State.writesPage (s : State) (ctx p : Nat) : Bool :=
  (s.ops.any fun o => o.2.ctx == ctx && o.2.writePages.contains p) ||
    s.groups.any fun g =>
      (s.teamOf g.2.team).ctx == ctx &&
        match g.2.parked with
        | some { wait := .posted _ va _ _, .. } => pageOf va == p
        | _ => false

/-- COPY_ON_WRITE (18 R428): the page of a write under way is copied. A copy refused for want of a frame is left to the
write's own check. -/
def execCopyOnWrite (ctx va : Nat) (s : State) : Res :=
  .next <|
    if !s.writesPage ctx (pageOf va) then s
    else
      let s := s.notePath 0 ctx va none
      match s.walk 0 ctx (va % 2 ^ 57) with
      | .error _ => s
      | .ok x =>
        if !pteCow x.pte then s
        else
          match s.copyPage ctx (va % 2 ^ 57) x with
          | (t, none) => t
          | (_, some _) => s

end Sys2Proof.Machine
end

