-- ==== Sys2Proof/Machine/Blocks.lean ====
section
/-! DEFINITION. Extended register blocks (08 R204-R209): XACQ and its grant, XREL, WINSET, XQRY. -/

namespace Sys2Proof.Machine

/-- R204: the count n: s[A] in SR, all of X in SI. -/
def State.blockCount (s : State) (m : Form) (f : Fields) (u : Nat) : Nat :=
  if m == .si then f.x.toNat else s.sreg u f.a.toNat

/-- Lane-registers of `k` blocks of a group. -/
def Group.blocks (gr : Group) (k : Nat) : Nat := k * gr.width * 32

/-- The reserve a group's team has left on its core, and whether some group of the team on that core holds it (R206). -/
def State.reserveOf (s : State) (g : Nat) : Nat :=
  let gr := s.group g
  (s.teamOf gr.team).reserve.getD ((s.teamOf gr.team).cores.idxOf gr.core) 0

def State.reserveHeld (s : State) (g : Nat) : Bool :=
  let gr := s.group g
  s.groups.any fun p => p.2.team == gr.team && p.2.core == gr.core && p.2.holder && !p.2.retired

/-- The epoch of a granted block. Where the core's registers have held another context, those of the block may be
such, by their placement (log entry 9): it is then cleared, and has epoch 0 (07 R179). Otherwise its contents are free
values (R29). -/
def State.blockEpoch (s : State) (k ctx j : Nat) : Nat :=
  if ((s.core k).regCtxs.any fun c => c != ctx) && Config.choice (s.free + j) % 2 == 0 then 0 else s.free + j + 1

/-- R205: the grant of blocks up to `n`, from the reserve or the general pool. -/
def State.giveBlocks (s : State) (g n : Nat) (fromReserve : Bool) : State :=
  let gr := s.group g
  let k := n - gr.h
  let size := gr.blocks k
  let s := if fromReserve then
      s.modTeam gr.team fun t =>
        { t with reserve := t.reserve.modify (t.cores.idxOf gr.core) fun r => r - size }
    else s.modCore gr.core fun c => { c with pool := c.pool - size }
  ({ s with free := s.free + k }.modGroup g fun gr =>
    { gr with
      ext := gr.ext ++ (List.range k).map fun j => (s.blockEpoch gr.core (s.teamOf gr.team).ctx j, fromReserve)
      holder := gr.holder || fromReserve }).placeBlocks g k

/-- A group waiting in XACQ: its issue cycle, slot, number and target. -/
structure Waiter where
  since : Nat
  slot : Nat
  gid : Nat
  n : Nat
  deriving DecidableEq, Repr, Inhabited

def Waiter.before (a b : Waiter) : Bool := a.since < b.since || (a.since == b.since && a.slot < b.slot)

def insertWaiter (c : Waiter) : List Waiter → List Waiter
  | [] => [c]
  | d :: r => if c.before d then c :: d :: r else d :: insertWaiter c r

/-- The requests that wait on a core, oldest first. -/
def State.waiters (s : State) (k : Nat) : List Waiter :=
  List.foldl (fun ws (p : Nat × Group) =>
    match p.2.parked with
    | some { wait := .xacq n since, .. } =>
      if p.2.core == k && !(s.teamOf p.2.team).out then
        insertWaiter { since := since, slot := p.2.slot0, gid := p.1, n := n } ws
      else ws
    | _ => ws) [] s.groups

/-- R206: where a request for blocks up to `n` is granted from, if it is: true the reserve, false the general pool.
`behind`: an older request is unserved by the pool; `first`: it is its team's oldest. -/
def State.grantFrom (s : State) (g n : Nat) (behind first : Bool) : Option Bool :=
  let gr := s.group g
  let size := gr.blocks (n - gr.h)
  let inReserve := decide (size ≤ s.reserveOf g)
  if !behind && decide (size ≤ (s.core gr.core).pool) then some false
  else if gr.holder && inReserve then some true
  else if !s.reserveHeld g && first && inReserve then some true
  else none

/-- One cycle of R206 over the waiting requests, oldest first. -/
def State.grantBlocks (s : State) (ws : List Waiter) (behind : Bool) (seen : List Nat) : State :=
  match ws with
  | [] => s
  | w :: r =>
    let t := (s.group w.gid).team
    match s.grantFrom w.gid w.n behind (!seen.contains t) with
    | some res => ((s.giveBlocks w.gid w.n res).resume w.gid).grantBlocks r behind seen
    | none => s.grantBlocks r true (t :: seen)

/-- XACQ_GRANT (R205, R206). -/
def execXacqGrant (core : Nat) (s : State) : Res := .next (s.grantBlocks (s.waiters core) false [])

/-- XACQ (R205). -/
def execXacq (m : Form) (g : Guard) (f : Fields) (s : State) : Res :=
  issued s fun i =>
    match s.scalarUnits g with
    | [] => s
    | u :: _ =>
      let n := s.blockCount m f u
      if (s.roleOf i.gid).extmax < n then s.raise 0x45
      else if n ≤ (s.group i.gid).h then s
      else s.park u (.xacq n s.cycle)

/-- R207: a lane-register of blocks `n` upward is the destination of an operation that has not written it. -/
def State.blockPending (s : State) (g n : Nat) : Bool := (s.pendingVecs g).any fun r => 64 + 32 * n ≤ r

/-- XREL (R207). -/
def execXrel (m : Form) (g : Guard) (f : Fields) (s : State) : Res :=
  issued s fun i =>
    match s.scalarUnits g with
    | [] => s
    | u :: _ =>
      let n := s.blockCount m f u
      if (s.group i.gid).h ≤ n then s
      else if s.blockPending i.gid n then s.stall
      else s.dropBlocks i.gid n

/-- WINSET for one execution (R208). -/
def State.winsetOne (s : State) (m : Form) (f : Fields) (u : Nat) : State :=
  match s.iss.at? u with
  | none => s
  | some (gid, _) =>
    let n := s.blockCount m f u
    let h := (s.group gid).h
    if s.iss.out == .raised || s.iss.out == .stalled then s
    else if (s.roleOf gid).extmax < n then s.raise 0x45
    else if n < h && s.blockPending gid n then s.stall
    else if n ≤ h then (s.dropBlocks gid n).setDq m f u true
    else
      match (if (s.waiters (s.group gid).core).isEmpty then s.grantFrom gid n false true else none) with
      | some res => (s.giveBlocks gid n res).setDq m f u true
      | none => s.setDq m f u false

/-- WINSET (R208). -/
def execWinset (m : Form) (g : Guard) (f : Fields) (s : State) : Res :=
  issued s fun _ => List.foldl (fun t u => t.winsetOne m f u) s (s.scalarUnits g)

/-- XQRY (R209). -/
def execXqry (g : Guard) (f : Fields) (s : State) : Res :=
  issued s fun _ =>
    List.foldl (fun t u =>
      match s.iss.at? u with
      | none => t
      | some (gid, _) =>
        let gr := s.group gid
        t.setS u f.d.toNat
          (packFields [(gr.h, 3), ((s.roleOf gid).extmax, 3), (boolNat gr.holder, 1), (0, 9),
            ((s.core gr.core).pool, 17)])) s (s.scalarUnits g)

end Sys2Proof.Machine
end

