-- ==== Sys2Proof/Machine/Control.lean ====
section
/-! DEFINITION. The BR instructions (05 R128-R142): branches, calls, frames, fibre creation and end, and WAITC. -/

namespace Sys2Proof.Machine

/-! ### Targets (R67, R128, R132, R133) -/

/-- R67: the target form of a word at `pc`, for the fibre of a slot lane. -/
def State.target (s : State) (f : Fields) (l : Nat) : BitVec 57 :=
  let base := if f.xf 30 2 == 1 then s.sreg l f.a.toNat / 64 * 64 else (lineOf s.iss.pc).toNat
  BitVec.ofInt 57 ((base : Int) + 64 * sextN (f.xf 0 27) 27 + 12 * (f.xf 27 3 : Int))

/-- The pairs of slot lanes and targets are checked (R61), then taken at a level; `k` is the rest of the effect. -/
def State.transfer (s : State) (ts : List (Nat × BitVec 57)) (level : BitVec 12) (k : State → State) : State :=
  s.withTargets (ts.map Prod.snd) fun s => List.foldl (fun s t => s.goTo t.1 t.2 level) (k s) ts

/-- A branch whose condition each fibre of active decides. -/
def branchExec (g : Guard) (f : Fields) (taken : Nat → Bool) (k : State → State) (s : State) : Res :=
  issued s fun i =>
    let ls := (s.active g).filter taken
    s.transfer (ls.map fun l => (l, s.target f l)) i.level k

/-- BRA (R132). -/
def execBra (g : Guard) (f : Fields) (s : State) : Res := branchExec g f (fun _ => true) id s

/-- Table 5.7. -/
def brcHolds (c x y : Nat) : Bool :=
  let sx := sextN x 64
  let sy := sextN y 64
  match c with
  | 0 => x == y
  | 1 => x != y
  | 2 => decide (sx < sy)
  | 3 => decide (sx ≤ sy)
  | 4 => decide (sy < sx)
  | 5 => decide (sy ≤ sx)
  | 6 => decide (x < y)
  | 7 => decide (x ≤ y)
  | 8 => decide (y < x)
  | _ => decide (y ≤ x)

/-- BRC (R131, R132). -/
def execBrc (g : Guard) (f : Fields) (s : State) : Res :=
  branchExec g f (fun l => brcHolds (f.d.toNat % 16) (s.sreg l f.b.toNat) (s.sreg l f.c.toNat)) id s

/-- Whether predicate P of the word holds in a fibre. -/
def State.condQ (s : State) (f : Fields) (l : Nat) : Bool := s.q l (f.b.toNat % 32)

/-- BRANY (R132). -/
def execBrany (g : Guard) (f : Fields) (s : State) : Res :=
  branchExec g f (fun _ => (s.active g).any (s.condQ f)) id s
/-- BRALL (R132). -/
def execBrall (g : Guard) (f : Fields) (s : State) : Res :=
  branchExec g f (fun _ => (s.active g).all (s.condQ f)) id s
/-- BRNONE (R132). -/
def execBrnone (g : Guard) (f : Fields) (s : State) : Res :=
  branchExec g f (fun _ => !(s.active g).any (s.condQ f)) id s

/-- BRZ (R133). -/
def execBrz (g : Guard) (f : Fields) (s : State) : Res := branchExec g f (fun l => s.opB f 32 l == 0) id s
/-- BRNZ (R133). -/
def execBrnz (g : Guard) (f : Fields) (s : State) : Res := branchExec g f (fun l => s.opB f 32 l != 0) id s

/-- LOOP (R132): s[B] is lowered first; the branch is taken when the new value is not zero. -/
def execLoop (g : Guard) (f : Fields) (s : State) : Res :=
  let dec := fun l => (s.sreg l f.b.toNat + 2 ^ 64 - 1) % 2 ^ 64
  branchExec g f (fun l => dec l != 0)
    (fun t => List.foldl (fun t u => t.setS u f.b.toNat (dec u)) t (s.onceUnits g)) s

/-- JMP (R133). -/
def execJmp (g : Guard) (f : Fields) (s : State) : Res :=
  issued s fun i =>
    s.transfer ((s.active g).map fun l => (l, BitVec.ofNat 57 (s.opA f 64 l))) i.level id

/-- JMPT (R133). -/
def execJmpt (g : Guard) (f : Fields) (s : State) : Res :=
  issued s fun i =>
    s.transfer ((s.active g).map fun l =>
      (l, s.target f l + BitVec.ofNat 57 (64 * min (s.opB f 32 l) f.c.toNat))) i.level id

/-- The call of R134 with the target of each fibre. -/
def callExec (g : Guard) (f : Fields) (tgt : Nat → BitVec 57) (s : State) : Res :=
  issued s fun i =>
    let ls := s.active g
    if ls.isEmpty then s
    else if !i.stream && i.level == 4095 then s.raise 0x43
    else
      s.transfer (ls.map fun l => (l, tgt l)) (if i.stream then i.level else i.level + 1) fun t =>
        List.foldl (fun t u => t.setS u f.d.toNat (seqPc i.pc).toNat) t (s.onceUnits g)

/-- CALL (R134). -/
def execCall (g : Guard) (f : Fields) (s : State) : Res := callExec g f (s.target f) s
/-- CALLR (R134). -/
def execCallr (g : Guard) (f : Fields) (s : State) : Res :=
  callExec g f (fun l => BitVec.ofNat 57 (s.opA f 64 l)) s

/-- RET (R135). -/
def execRet (g : Guard) (f : Fields) (s : State) : Res :=
  issued s fun i =>
    let ls := s.active g
    if ls.isEmpty then s
    else if !i.stream && i.level == 0 then s.raise 0x44
    else
      s.transfer (ls.map fun l => (l, BitVec.ofNat 57 (s.sreg l f.a.toNat)))
        (if i.stream then i.level else i.level - 1) id

/-- PCRD (R136). -/
def execPcrd (g : Guard) (f : Fields) (s : State) : Res :=
  issued s fun _ =>
    List.foldl (fun t u => t.setS u f.d.toNat (s.target { f with x := f.x &&& 0x3FFFFFFF } u).toNat) s (s.onceUnits g)

/-! ### Frames (R137) -/

/-- The bytes of n frame slots of the issuing group; W is 1 in a stream kernel. -/
def Issue.frameUnit (i : Issue) : Nat := 4 * (if i.stream then 1 else i.width)

/-- R137: the lowest sp the fibre of a slot lane may reach. -/
def State.spLimit (s : State) (l : Nat) : Int :=
  match s.iss.at? l with
  | none => 0
  | some (g, _) =>
    let lim : Int := (s.sharedOf g).stklim.toNat
    if s.iss.stream then (s.group g).sp0.toNat - lim else lim

/-- ENTER (R137). -/
def execEnter (g : Guard) (f : Fields) (s : State) : Res :=
  issued s fun i =>
    let us := s.onceUnits g
    let w := i.frameUnit
    let new := fun u => (s.sreg u 62 : Int) - (f.xf 0 16 * w : Nat)
    if us.any fun u => s.sreg u 62 % w != 0 then s.raise 0x40
    else if us.any fun u => decide (new u < s.spLimit u) then s.raise 0x41
    else List.foldl (fun t u => t.setS u 62 (wrapN (new u) 64)) s us

/-- LEAVE (R137). -/
def execLeave (g : Guard) (f : Fields) (s : State) : Res :=
  issued s fun i =>
    let us := s.onceUnits g
    let w := i.frameUnit
    if us.any fun u => s.sreg u 62 % w != 0 then s.raise 0x40
    else List.foldl (fun t u => t.setS u 62 ((s.sreg u 62 + f.xf 0 16 * w) % 2 ^ 64)) s us

/-! ### Creating and ending fibres (R42, R43, R139, R140) -/

/-- R140: the lanes of a group that FSPAWN may take: vacant, with no operation left that will write them. -/
def State.vacant (s : State) (g : Nat) : List Nat :=
  let gr := s.group g
  (List.range gr.lanes.length).filter fun j =>
    (match gr.lanes[j]? with | some ln => !ln.live | none => false) &&
      !(s.ops.any fun o => !o.2.results.isEmpty && o.2.lanes.any fun x => x.2.1 == g && x.2.2 == j)

/-- R56, R140: the vacant slots of a stream team, lowest slot first. -/
def State.vacantSlots (s : State) (t : Nat) : List Nat :=
  let gs := s.groups.filter fun p => p.2.team == t && (p.2.lanes.all fun ln => !ln.live) &&
    !(s.ops.any fun o => o.2.serves p.1)
  (gs.foldl (fun (acc : List (Nat × Nat)) p =>
    let (a, b) := acc.span fun x => x.1 < p.2.slot0
    a ++ [(p.2.slot0, p.1)] ++ b) []).map Prod.snd

/-- A child's lane: v0-v7 are the parent's, every other base register and the predicate word zero (R42). -/
def childLane (parent old : Lane) : Lane :=
  { live := true, preds := 0, wbase := old.wbase
    regs := (parent.regs.filter fun r => r.1 < 8) ++ (old.regs.filter fun r => 64 ≤ r.1)
    bad := old.bad.filter fun r => 64 ≤ r.1 }

/-- R42: one request of a grouped kernel, by the fibre of a slot lane. -/
def State.spawnOne (s : State) (l : Nat) (pc : BitVec 57) (level : BitVec 12) : State × Bool :=
  match s.iss.at? l with
  | none => (s, false)
  | some (g, j) =>
    match s.vacant g with
    | [] => (s, false)
    | v :: _ =>
      let parent := (((s.rgroup g).lanes[j]?).getD {})
      ((s.modGroup g fun gr => gr.modLane v (childLane parent)).modIss fun i =>
        { i with children := i.children ++ [{ lane := v, pc := pc, level := level }] }, true)

/-- R56, R139: one request of a stream kernel. The child issues in a later cycle (R42). What the slot's last fibre left is
its team's: the statuses it has not joined (R191), and its horizon (16 R394). -/
def State.spawnSlot (s : State) (l : Nat) (pc : BitVec 57) : State × Bool :=
  match s.iss.at? l with
  | none => (s, false)
  | some (g, j) =>
    match s.vacantSlots s.iss.team with
    | [] => (s, false)
    | v :: _ =>
      let parent := (((s.rgroup g).lanes[j]?).getD {})
      let s := s.modTeam s.iss.team fun t => { t with horizon := max t.horizon (s.group v).horizon }
      (s.modGroup v fun gr =>
        { team := gr.team, role := gr.role, num := gr.num, core := gr.core, width := 1, slot0 := gr.slot0
          lanes := gr.lanes.map (childLane parent), sp0 := gr.sp0
          scalars := Tab.set (gr.scalars.filter fun x => x.1 < 48) 62 gr.sp0
          frontier := [{ pc := pc, lanes := [0] }], readySince := s.cycle + 1
          unjoined := gr.unjoined.map fun u => { u with gone := true } }, true)

def spawnExec (g : Guard) (f : Fields) (tgt : Nat → BitVec 57) (s : State) : Res :=
  issued s fun i =>
    let ls := s.active g
    if i.groups.any fun p => (s.group p.1).hact then (if ls.isEmpty then s else s.raise 0x30)
    else
      s.withTargets (ls.map tgt) fun s =>
        List.foldl (fun t l =>
          let (t, ok) := if i.stream then t.spawnSlot l (tgt l) else t.spawnOne l (tgt l) i.level
          t.setQ l (f.d.toNat % 32) ok) s ls

/-- FSPAWN (R42, R139). -/
def execFspawn (g : Guard) (f : Fields) (s : State) : Res := spawnExec g f (s.target f) s
/-- FSPAWNR (R42, R139). -/
def execFspawnr (g : Guard) (f : Fields) (s : State) : Res :=
  spawnExec g f (fun l => BitVec.ofNat 57 (s.opA f 64 l)) s

/-- Ends the fibre of a slot lane. -/
def State.endFibre (s : State) (l : Nat) : State :=
  match s.iss.at? l with
  | none => s
  | some (g, j) => s.modGroup g fun gr => gr.modLane j fun ln => { ln with live := false }

/-- FEND (R43, R140). -/
def execFend (g : Guard) (_f : Fields) (s : State) : Res :=
  issued s fun _ => List.foldl State.endFibre s (s.active g)

/-- YIELD (R141); with active empty it sets no mark (log entry 42). -/
def execYield (g : Guard) (_f : Fields) (s : State) : Res :=
  issued s fun _ => if (s.active g).isEmpty then s else s.modIss fun i => { i with yielded := true }

/-! ### WAITC (R142, R193) -/

/-- The fibres of a stalled WAITC keep the place of its issue in the order of acceptance (R193). -/
def State.stallWaitc (s : State) : State :=
  (List.foldl (fun (s : State) (p : Nat × List Nat) =>
    s.modGroup p.1 fun gr => { gr with waitcAt := some (gr.waitcAt.getD s.seq) }) s s.iss.groups).stall

/-- WAITC (R142, R191, R193). -/
def execWaitc (g : Guard) (f : Fields) (s : State) : Res :=
  issued s fun i =>
    if (s.active g).isEmpty then s
    else if !(s.rsharedOf i.gid).within f then s.stallWaitc
    else
      match s.covered i.gid with
      | none => s
      | some (h, u) => s.raise u.cause u.token 0 true (some h)

end Sys2Proof.Machine
end

