-- ==== Sys2Proof/Machine/Sync.lean ====
section
/-! DEFINITION. Barriers and pods (14 R330-R342, R352): BAR, ARRIVE, WAITB, PSEND, PRECV, PFREE, PQRY, and the
performance of an operation at a cluster's synchronisation unit. -/

namespace Sys2Proof.Machine

/-- How an operation at the synchronisation unit ends: performed, the group now waits, or a cause. -/
inductive SyncEnd where
  | done
  | waits (w : Wait)
  | cause (code : Nat)
  deriving DecidableEq, Repr, Inhabited

/-! ### Barriers (R333) -/

def Team.barrier (t : Team) (b : Nat) : Barrier := Tab.getD t.barriers b {}
def Team.setBarrier (t : Team) (b : Nat) (v : Barrier) : Team := { t with barriers := Tab.set t.barriers b v }

/-- R333: one arrival of a group: the phase it arrived in, or none for a target that differs. -/
def State.arriveAt (s : State) (t b n : Nat) : State × Option Bool :=
  let br := (s.teamOf t).barrier b
  if br.cnt != 0 && n != br.tgt then (s, none)
  else
    let tgt := if br.cnt == 0 then n else br.tgt
    let goal := if tgt == 0 then s.liveGroups t else tgt
    let s := s.modTeam t fun tm => tm.setBarrier b { br with tgt := tgt, cnt := br.cnt + 1 }
    (if goal ≤ br.cnt + 1 then s.flipPhase t b else s, some br.ph)

/-- q[n] of fibres of a group. -/
def Group.setQs (gr : Group) (ls : List Nat) (n : Nat) (b : Bool) : Group :=
  ls.foldl (fun gr l =>
    let w := gr.pred l
    let m := BitVec.ofNat 32 (2 ^ n)
    gr.setPred l (if b then w ||| m else w &&& ~~~m)) gr

/-! ### Pods (R337, R339, R340) -/

def Pod.slot (p : Pod) (j : Nat) : SlotState := p.slots.getD j .free
def Pod.setSlot (p : Pod) (j : Nat) (x : SlotState) : Pod := { p with slots := p.slots.set j x }
def State.podOf (s : State) (t p : Nat) : Pod := ((s.teamOf t).pods[p]?).getD default
def State.modPod (s : State) (t p : Nat) (f : Pod → Pod) : State :=
  s.modTeam t fun tm => { tm with pods := tm.pods.modify p f }

/-- Table 14.5: the slot word of slot `j`. -/
def State.slotWordOf (s : State) (t p j : Nat) : Nat :=
  let tm := s.teamOf t
  let pd := s.podOf t p
  let a := pd.base + j * pd.bytes
  packFields [(a, 20), (pd.home, 2), (j, 6), (boolNat (pd.fph.getD j false), 1), (0, 3),
    (tm.sbase.getD pd.home 0 + a, 19), (tm.cores.getD pd.home 0 % 8, 3)]

/-- PSEND.RSV when slot WHEAD is free: its slot word. -/
def State.reserveSlot (s : State) (t p : Nat) : State × Option Nat :=
  let pd := s.podOf t p
  let j := pd.whead
  if pd.slot j == .free then
    let last := j + 1 == pd.count
    let s := s.modPod t p fun pd =>
      { pd.setSlot j .reserved with
        fph := pd.fph.set j pd.wph, whead := if last then 0 else j + 1, wph := pd.wph != last }
    (s, some (s.slotWordOf t p j))
  else (s, none)

/-- PRECV when slot RHEAD is full: its slot word. -/
def State.receiveSlot (s : State) (t p : Nat) : State × Option Nat :=
  let pd := s.podOf t p
  let j := pd.rhead
  if pd.slot j == .full then
    let last := j + 1 == pd.count
    let s := s.modPod t p fun pd =>
      { pd.setSlot j .held with rhead := if last then 0 else j + 1, rph := pd.rph != last }
    (s, some (s.slotWordOf t p j))
  else (s, none)

/-- R339: groups parked on a pod are served oldest first. -/
def State.servePod (s : State) (t p : Nat) (ws : List Nat) : State :=
  match ws with
  | [] => s
  | g :: r =>
    let s :=
      match (s.group g).parked with
      | some { wait := .pod i recv dst, .. } =>
        if i == p && (s.group g).team == t then
          match (if recv then s.receiveSlot t p else s.reserveSlot t p) with
          | (s, some w) =>
            (s.modPod t p fun pd => { pd with waiting := pd.waiting.filter (· != g) }).wake g dst w
          | (s, none) => s
        else s
      | _ => s
    s.servePod t p r

/-! ### Performance at the synchronisation unit (R331, R334) -/

/-- The barrier, or 16 and the pod, an operation acts on. -/
def syncUnit (i : Instr) : Nat :=
  match i with
  | .bar _ f | .arrive _ f | .waitb _ f => f.xf 0 4
  | .psendRsv _ f | .psendCmt _ f | .precv _ f | .pfree _ f => 16 + f.xf 0 4
  | _ => 0

/-- R331: an arrival, PSEND.CMT or PFREE waits for the earlier core accesses of its group. -/
def syncReleases (i : Instr) : Bool :=
  match i with
  | .bar _ _ | .arrive _ _ | .psendCmt _ _ | .pfree _ _ => true
  | _ => false

/-- R331: the place of a group's operation in the order of one cycle: its team core, and its slot. -/
def State.syncPlace (s : State) (g : Nat) : Nat × Nat :=
  let gr := s.group g
  ((s.teamOf gr.team).cores.idxOf gr.core, gr.slot0)

/-- R331: an operation of the same cycle that comes after the group's has been performed, so that the group's is performed
in a later cycle. -/
def State.syncPast (s : State) (g : Nat) : Bool :=
  let (c, k, l) := (s.teamOf (s.group g).team).lastSync
  let (tc, slot) := s.syncPlace g
  c == s.cycle && (decide (tc < k) || (tc == k && decide (slot < l)))

/-- The group's operation is the last one performed. -/
def State.noteSync (s : State) (g : Nat) : State :=
  s.modTeam (s.group g).team fun t => { t with lastSync := (s.cycle, s.syncPlace g) }

/-- R333, R339: one operation of a group performed at the sync state. `v` is its scalar or predicate operand, read at
issue; `ls` the lanes of its issued entry. -/
def State.syncEffect (s : State) (g : Nat) (i : Instr) (v : Nat) (ls : List Nat) : State × SyncEnd :=
  let t := (s.group g).team
  let n := syncUnit i
  let p := n - 16
  if 16 ≤ n && (s.teamOf t).pods.length ≤ p then (s, .cause 0x26)
  else
    match (s.noteSync g).readSync t n with
    | (s, true) => (s.syncLost t n, .cause 0x74)
    | (s, false) =>
    match i with
    | .bar _ f =>
      match s.arriveAt t n (f.xf 4 10) with
      | (s, none) => (s, .cause 0x30)
      | (s, some ph) =>
        (s, if ((s.teamOf t).barrier n).ph != ph then .done else .waits (.barrier n ph))
    | .arrive _ f =>
      match s.arriveAt t n (f.xf 4 10) with
      | (s, none) => (s, .cause 0x30)
      | (s, some ph) => (s.modGroup g fun gr => gr.setQs ls (f.d.toNat % 32) ph, .done)
    | .waitb _ _ =>
      let q := v == 1
      (s, if ((s.teamOf t).barrier n).ph != q then .done else .waits (.barrier n q))
    | .psendRsv _ f =>
      match s.reserveSlot t p with
      | (s, some w) => (s.modGroup g fun gr => gr.putScal (f.d.toNat % 64) w, .done)
      | (s, none) => (s.modPod t p fun pd => { pd with waiting := pd.waiting ++ [g] }, .waits (.pod p false (f.d.toNat % 64)))
    | .precv _ f =>
      match s.receiveSlot t p with
      | (s, some w) => (s.modGroup g fun gr => gr.putScal (f.d.toNat % 64) w, .done)
      | (s, none) => (s.modPod t p fun pd => { pd with waiting := pd.waiting ++ [g] }, .waits (.pod p true (f.d.toNat % 64)))
    | .psendCmt _ _ =>
      let j := bitsOf v 22 6
      let pd := s.podOf t p
      if pd.count ≤ j || pd.slot j != .reserved then (s, .cause 0x26)
      else
        let s := s.modPod t p fun pd => pd.setSlot j .full
        (s.servePod t p (s.podOf t p).waiting, .done)
    | .pfree _ _ =>
      let j := bitsOf v 22 6
      let pd := s.podOf t p
      if pd.count ≤ j || pd.slot j != .held then (s, .cause 0x26)
      else
        let s := s.modPod t p fun pd => pd.setSlot j .free
        (s.servePod t p (s.podOf t p).waiting, .done)
    | _ => (s, .done)

/-- R331: the operation of a word at issue. It is performed in the same step unless earlier core accesses of its group
are still on their way (R334), or one that comes after it in this cycle's order has been performed. -/
def syncExec (g : Guard) (i : Instr) (v : State → Nat → Nat) (s : State) : Res :=
  issued s fun is =>
    match s.onceUnits g with
    | [] => s
    | u :: _ =>
      let a := v s u
      if (syncReleases i && decide (s.cycle < (s.group is.gid).accessBy)) || s.syncPast is.gid then
        s.park u (.syncOp i (BitVec.ofNat 64 a))
      else
        match s.syncEffect is.gid i a ((is.groups.head?.map Prod.snd).getD []) with
        | (s, .done) => s
        | (s, .waits w) => s.park u w
        | (s, .cause c) => s.raise c

/-- BAR (R333). -/
def execBar (g : Guard) (f : Fields) (s : State) : Res := syncExec g (.bar g f) (fun _ _ => 0) s
/-- ARRIVE (R333). -/
def execArrive (g : Guard) (f : Fields) (s : State) : Res := syncExec g (.arrive g f) (fun _ _ => 0) s
/-- WAITB (R333): the predicate of the lowest-numbered fibre of the issued entry. -/
def execWaitb (g : Guard) (f : Fields) (s : State) : Res :=
  syncExec g (.waitb g f) (fun s _ => boolNat (s.q (s.iss.entry.headD 0) (f.xf 14 5))) s
/-- PSEND.RSV (R339). -/
def execPsendRsv (g : Guard) (f : Fields) (s : State) : Res := syncExec g (.psendRsv g f) (fun _ _ => 0) s
/-- PSEND.CMT (R339). -/
def execPsendCmt (g : Guard) (f : Fields) (s : State) : Res :=
  syncExec g (.psendCmt g f) (fun s u => s.sreg u (f.a.toNat % 64)) s
/-- PRECV (R339). -/
def execPrecv (g : Guard) (f : Fields) (s : State) : Res := syncExec g (.precv g f) (fun _ _ => 0) s
/-- PFREE (R339). -/
def execPfree (g : Guard) (f : Fields) (s : State) : Res :=
  syncExec g (.pfree g f) (fun s u => s.sreg u (f.a.toNat % 64)) s

/-- PQRY (R331, R341). -/
def execPqry (g : Guard) (f : Fields) (s : State) : Res :=
  issued s fun i =>
    match s.onceUnits g with
    | [] => s
    | u :: _ =>
      let p := f.xf 0 4
      if i.stream || (s.teamOf i.team).pods.length ≤ p then s.raise 0x26
      else if s.syncPast i.gid then s.stall
      else
        match (s.noteSync i.gid).readSync i.team (16 + p) with
        | (s, true) => (s.syncLost i.team (16 + p)).raise 0x74
        | (s, false) =>
        let pd := s.podOf i.team p
        let count := fun x => (pd.slots.filter fun y => y == x).length
        s.setS u (f.d.toNat % 64)
          (packFields [(count .free, 7), (0, 1), (count .full, 7), (0, 1), (pd.whead, 6), (boolNat pd.wph, 1), (0, 1),
            (pd.rhead, 6), (boolNat pd.rph, 1), (0, 1), (pd.count - 1, 6)])

/-- The operation of a waiting group is performed. -/
def State.performSync (s : State) (g : Nat) : State :=
  match (s.group g).parked with
  | some { wait := .syncOp i v, moves, .. } =>
    match s.syncEffect g i v.toNat (moves.map Move.lane) with
    | (s, .done) => s.resume g
    | (s, .waits w) => s.modGroup g fun gr => { gr with parked := gr.parked.map fun p => { p with wait := w } }
    | (s, .cause c) => s.stopParked g c
  | _ => s

/-- SYNC_OPERATION_PERFORM (R331, R334, 15 R378): once the earlier core accesses of the group have been performed, its
operation is performed at the sync state; while its team is saved, it is written to the mailbox. -/
def execSyncOperationPerform (gid : Nat) (s : State) : Res :=
  .next <|
    match (s.group gid).parked with
    | some { wait := .syncOp _ _, .. } =>
      let t := (s.group gid).team
      if s.cycle < (s.group gid).accessBy || s.syncPast gid then s
      else if (s.teamOf t).out then
        s.modTeam t fun tm =>
          { tm with mailbox := if tm.mailbox.contains gid then tm.mailbox else tm.mailbox ++ [gid] }
      else s.performSync gid
    | _ => s

end Sys2Proof.Machine
end

