-- ==== Sys2Proof/Machine/Preempt.lean ====
section
/-! DEFINITION. Pre-emption and context switch (15 R377-R381, 07 R195, 08 R224, 09 R239, 16 R394, 18 R447, 19 R470). -/

namespace Sys2Proof.Machine

/-- Where the groups of a saved team stand: no core of any cluster, on the die of their grid. -/
def awayCore (d tc : Nat) : Nat := 2048 + 512 * tc + 128 * d

/-! ### Choosing teams (R377, R378) -/

def Team.coreCount (t : Team) : Nat := t.slot0.length

def insertDown (x : Nat × Nat) : List (Nat × Nat) → List (Nat × Nat)
  | [] => [x]
  | y :: r => if y.1 < x.1 then x :: y :: r else y :: insertDown x r

/-- Teams in descending linear index. -/
def State.downward (s : State) (p : Team → Bool) : List Nat :=
  (s.teams.foldl (fun r x => if p x.2 then insertDown (x.2.index, x.1) r else r) []).map Prod.snd

/-- The grid of a GSEQ on a die. -/
def State.gridOf (s : State) (d gseq : Nat) : Option (Nat × Launch) :=
  s.launches.find? fun p => p.2.die == d && p.2.gseq == gseq

def State.teamGseq (s : State) (t : Team) : Nat := ((Tab.get? s.launches t.launch).map Launch.gseq).getD 0

/-- Bytes of the context's save pool not in use. -/
def State.poolLeft (s : State) (d ctx : Nat) : Nat := ctxSaveSize (s.ctxEntry d ctx) * 4096 - Tab.getD s.saved ctx 0

/-- A team is chosen when the pool can hold what it saves, whose size is the device's (log entry 8). -/
def State.choose (s : State) (d t : Nat) : State :=
  let tm := s.teamOf t
  let n := Config.choice s.free + 1
  let s := s.draw
  if s.poolLeft d tm.ctx < n then s.modDie d fun di => { di with preempt := { di.preempt with short := true } }
  else
    ({ s with saved := Tab.set s.saved tm.ctx (Tab.getD s.saved tm.ctx 0 + n) }.modTeam t fun tm =>
      { tm with stopping := true, savedBytes := n }).modDie d fun di =>
        { di with preempt := { di.preempt with chosen := di.preempt.chosen ++ [(t, s.teamGseq tm)] } }

def State.chosenCores (s : State) (d : Nat) : Nat :=
  ((s.die d).preempt.chosen.map fun x => (s.teamOf x.1).coreCount).sum

/-- R377: the teams an order vacates; they stop before their next issue (Table 15.13, step 1). -/
def State.chooseTeams (s : State) (d ctx : Nat) (whole : Bool) (cores gseq : Nat) : State :=
  if whole then
    (s.downward fun t => t.resident && t.ctx == ctx && s.teamDie t == d).foldl (fun (s : State) t => s.choose d t) s
  else
    match s.gridOf d gseq with
    | none => s
    | some (id, l) =>
      (s.downward fun t => t.resident && t.launch == id).foldl (fun (s : State) t =>
        if recGang l.record || decide (s.chosenCores d < cores) then s.choose d t else s) s

/-! ### Settling (Table 15.13, steps 1 and 3) -/

/-- An operation that has moved nothing and may be withdrawn until the restore, or that goes on without its team. -/
def Op.withdraws (o : Op) : Bool :=
  match o.instr with
  | .tsend _ _ | .trecv _ _ | .tspawn _ _ | .trange _ _ => !o.moved
  | .nmadd _ _ | .nmscl _ _ | .nmopt _ _ | .nmred _ _ => !o.moved
  | .ared _ _ | .arwait _ _ => true
  | _ => isCopy o.instr && !o.moved

/-- A group may be saved: its walk has ended, its fetch is done, its horizon has passed (R394). -/
def State.groupStill (s : State) (gr : Group) : Bool :=
  s.past (coreDie gr.core) gr.horizon && (gr.retired || ((gr.stop.isNone || gr.halt) && gr.refetch.isNone))

/-- A chosen team has ended, or may be saved now: some fibre lives, its operations are settled, and every horizon has
passed. -/
def State.teamStill (s : State) (t : Nat) : Bool :=
  (s.teamOf t).ended ||
    (s.past (s.teamDie (s.teamOf t)) (s.teamOf t).horizon && (s.groups.all fun p => p.2.team != t || (s.groupStill p.2 && !s.hasJob (.posted p.1))) && (s.groups.any fun p => p.2.team == t && p.2.anyLive) &&
      s.ops.all fun p => p.2.team != t || p.2.withdraws)

/-! ### Saving (Table 15.13, steps 2, 4, 5 and 6) -/

/-- The lane-registers of extended blocks that a team's groups hold on a core. -/
def State.extRegs (s : State) (t k : Nat) : Nat :=
  (s.groups.map fun p => if p.2.team == t && p.2.core == k then p.2.width * 32 * p.2.h else 0).sum

/-- A watch on the team's own window moves with it: its span is kept from the window's base. -/
def moveWatch (w : Watch) (k1 b1 size k2 b2 : Nat) : Watch :=
  if w.core == some k1 && decide (b1 / 64 ≤ w.span) && decide (w.span < (b1 + size + 63) / 64) then
    { w with core := some k2, span := w.span - b1 / 64 + b2 / 64 }
  else w

/-- A wait that a saved group gives up, to execute its instruction again at the restore (R205, R239, 16 R400); a pair's,
whose other member has executed, is taken up again instead (log entry 17). -/
def Wait.again (w : Wait) : Bool :=
  match w with
  | .xacq _ _ | .collective _ _ | .twait _ _ _ _ _ | .posted _ _ _ _ => true
  | _ => false

/-- A group leaves its core, or comes to one. -/
def carryGroup (gr : Group) (k1 b1 size k2 b2 slot : Nat) : Group :=
  { gr with
    core := k2, slot0 := slot, horizon := 0
    watch := gr.watch.map fun w => moveWatch w k1 b1 size k2 b2
    parked := gr.parked.filter fun p => p.pair || !p.wait.again, waitcAt := none }

/-- The window of a team on a core, from its base. -/
def State.windowCells (s : State) (k base size : Nat) : List Host.Cell :=
  (cellsIn (Tab.getD s.scratch k []) base size).map fun c => (c.1 - base, c.2)

/-- Sectors of the save pool are written; none while one waits for sectors (18 R419). -/
def State.fillPool (s : State) (d pa : Nat) : Nat → Option State
  | 0 => some s
  | n + 1 => (s.putSector d pa (Config.choice s.free)).bind fun s => s.draw.fillPool d (pa + 64) n

/-- What a team saves is written to its context's pool, in a form and at a place of the device's own (log entry 8). None
while it waits for sectors. -/
def State.savePool (s : State) (t : Nat) : Option State :=
  let tm := s.teamOf t
  let e := s.ctxEntry (s.teamDie tm) tm.ctx
  let n := (tm.savedBytes + 63) / 64
  s.draw.fillPool (s.teamDie tm) (ctxSave e + 64 * (Config.choice s.free % (64 * ctxSaveSize e - n + 1))) n

/-- A team is saved and gives up its cores; `whole`: its context is switched out (21 R478). -/
def State.saveTeam (s : State) (t : Nat) (whole : Bool) : State :=
  let s := s.arWithdraw t
  let tm := s.teamOf t
  let d := s.teamDie tm
  let ks := (List.range tm.cores.length).zip tm.cores
  let windows := ks.map fun p => s.windowCells p.2 (tm.sbase.getD p.1 0) (tm.ssize.getD p.1 0)
  let marrows := tm.cores.map fun k => (s.core k).marrow
  let s := ks.foldl (fun (s : State) (p : Nat × Nat) =>
    s.modCore p.2 fun c =>
      { c with
        pool := c.pool + tm.regBase.getD p.1 0 + tm.reserve.getD p.1 0 + s.extRegs t p.2
        marrow := if c.marrow.owner == some t then {} else c.marrow }) s
  let s := { s with groups := s.groups.map fun (p : Nat × Group) =>
    if p.2.team == t then
      let tc := tm.cores.idxOf p.2.core
      (p.1, carryGroup p.2 p.2.core (tm.sbase.getD tc 0) (tm.ssize.getD tc 0) (awayCore d tc) 0 p.2.slot0)
    else p }
  let s := { s with ops := s.ops.map fun (p : Nat × Op) =>
    if p.2.team == t then (p.1, { p.2 with core := awayCore d (tm.cores.idxOf p.2.core) }) else p }
  s.modTeam t fun tm =>
    { tm with
      out := true, awaitsEn := whole, stopping := false, cores := [], windows := windows, marrows := marrows, mailbox := [] }

/-- All chosen teams that have not ended are saved together; none while what they save waits for sectors. -/
def State.saveTeams (s : State) (whole : Bool) : List (Nat × Nat) → Option State
  | [] => some s
  | x :: r =>
    if (s.teamOf x.1).ended then s.saveTeams whole r
    else (s.savePool x.1).bind fun s => (s.saveTeam x.1 whole).saveTeams whole r

/-! ### The report (R379) -/

/-- An entry of Table 15.14 for a chosen team, at its address, and the payload of its event record. -/
def State.teamEntry (s : State) (va : Nat) (whole : Bool) (i : Nat) (x : Nat × Nat) : Nat × Nat × Option Nat :=
  let tm := s.teamOf x.1
  let n := if tm.ended then 0 else tm.savedBytes
  ((va + 16 * (i + 1)) % 2 ^ 57, packFields [(tm.index, 31), (boolNat tm.ended, 1), (x.2, 32), (n, 32)],
    some (packFields [(tm.ctx, 12), (x.2, 32), (tm.index, 31), (boolNat tm.ended, 1), (n, 32), (boolNat whole, 1)]))

/-- The report of an order that vacates `cores` cores. -/
def State.report (s : State) (d cores va : Nat) (whole : Bool) : List (Nat × Nat × Option Nat) :=
  let p := (s.die d).preempt
  (va % 2 ^ 57, packFields [(p.chosen.length, 16), (cores, 8), (boolNat p.short, 1), (0, 39), (s.gtc d, 64)], none) ::
    ((List.range p.chosen.length).zip p.chosen).map fun x => s.teamEntry va whole x.1 x.2

def State.modPreempt (s : State) (d : Nat) (f : Preempt → Preempt) : State :=
  s.modDie d fun di => { di with preempt := f di.preempt }

/-- Writes what is left of a report, in order, each entry followed by its event record; then BUSY clears. A write waits for
sectors (18 R419). -/
def State.writeReport (s : State) (d ctx : Nat) : List (Nat × Nat × Option Nat) → State
  | [] =>
    (s.modPreempt d fun p =>
      { p with busy := false, order := none, chosen := [], started := false, todo := [], deadlines := [] }).endWait (.order d)
  | x :: r =>
    match s.storeFor d ctx 0 (s.die d).preempt.deadlines x.1 x.2.1 16 with
    | (s, .waits h) => (s.modPreempt d fun p => { p with todo := x :: r }).noteWait (.order d) h
    | (s, _) =>
      let s := match x.2.2 with
        | some v => s.logAt d (0x240 + d) 0x06 (s.die d).preempt.released [(v, 128)]
        | none => s
      s.writeReport d ctx r

/-- A step of a die's order: it chooses its teams; once every one of them is settled it saves those that have not ended; then
it writes its report. -/
def State.preemptOn (s : State) (d : Nat) : State :=
  let p := (s.die d).preempt
  match p.order with
  | none => s
  | some (ctx, whole, cores, gseq, report) =>
    if !p.todo.isEmpty then s.writeReport d ctx p.todo
    else if !p.started then (s.modPreempt d fun p => { p with started := true }).chooseTeams d ctx whole cores gseq
    else if !(p.chosen.all fun x => s.teamStill x.1) then s
    else
      let n := s.chosenCores d
      match s.saveTeams whole p.chosen with
      | none => s.noteWait (.order d) (homeDie (ctxSave (s.ctxEntry d ctx)))
      | some s =>
        let s := s.modPreempt d fun p => { p with deadlines := s.deadlinesAt d ctx, released := s.gtc d }
        s.writeReport d ctx (s.report d n (report / 16 * 16) whole)

/-- PREEMPT_ORDER (R377-R380). -/
def execPreemptOrder (die : Nat) (s : State) : Res := .next (s.preemptOn die)

/-! ### Restore (R381) -/

/-- The needs of a saved team: its record's spans, and the lane-registers its groups hold. -/
def State.savedNeeds (s : State) (t : Nat) : List Need :=
  let tm := s.teamOf t
  match Tab.get? s.launches tm.launch with
  | none => []
  | some l =>
    (List.range tm.coreCount).map fun tc =>
      let n := recNeed l.record tc
      { n with
        regs := tm.regBase.getD tc 0 + s.extRegs t (awayCore l.die tc), reserve := tm.reserve.getD tc 0 }

/-- The hash-grid slots of the team's numbers are free in a cluster (R344). -/
def State.hashFree (s : State) (t c : Nat) : Bool := (s.teamOf t).hslots.all fun h => (s.slotOwner c h.1).isNone

def State.fitsSaved (s : State) (t c : Nat) (ks : List Nat) : Bool :=
  s.hashFree t c && s.fitsNow (s.savedNeeds t) c ks

/-- The waits and watches of a restored group: each MWAIT ends (R146), its deadline looked at now. -/
def State.endLoggedWait (s : State) (g : Nat) : State :=
  match (s.group g).parked with
  | some { wait := .mwait dl dst, .. } =>
    (s.wake g dst (if dl < s.gtc (coreDie (s.group g).core) then 1 else 3)).modGroup g fun gr => { gr with watch := none }
  | _ => s

/-- R381 step 5, 08 R224: a withdrawn operation is accepted again: its checks are made anew, and its deadlines. A reduction
that has begun goes on as it is (19 R470). -/
def State.reaccept (s : State) (id : Nat) : State :=
  match s.op id with
  | none => s
  | some o =>
    if o.moved || o.reducing then s
    else
      let o := { o with
        deadlines := s.deadlinesAt (coreDie o.core) o.ctx, passed := [], withdrawn := [], queued := none }
      let near := nearUpdate o.instr || nearRed o.instr
      let (s, o) := (if near then o.rest else []).foldl (fun (a : State × Op) i =>
        let va := a.2.rowVa i
        match a.1.access o.core o.ctx va (nearAcc o.instr) with
        | (s, .ok x) =>
          (s, { a.2 with vals := Tab.set a.2.vals (1 + i) [x.pa, x.pte], passed := a.2.passed ++ [(pageOf va, x.pte)] })
        | (s, .error _) => (s, { a.2 with withdrawn := a.2.withdrawn ++ [(pageOf va, 1)] })) (s, o)
      s.modOp id fun _ => o

/-- The request of a restored group's pair is made again (R205). -/
def State.rewait (s : State) (g : Nat) : State :=
  match (s.group g).parked with
  | some { wait := .xacq n _, .. } =>
    s.modGroup g fun gr => { gr with parked := gr.parked.map fun p => { p with wait := .xacq n s.cycle } }
  | _ => s

/-- Reloads a team on cores: its state, then its mailbox and its watches. -/
def State.restoreTeam (s : State) (t : Nat) (ks : List Nat) : State :=
  let tm := s.teamOf t
  let ns := s.savedNeeds t
  let (s, sp) := s.spots ns ks
  let tcs := List.range sp.length
  let spot := fun (tc : Nat) => sp.getD tc default
  let s := s.takeSpots t tm.ctx 0 sp
  let s := tcs.foldl (fun (s : State) tc =>
    let p := spot tc
    let s := if p.need.mx then s.modCore p.core fun c => { c with marrow := tm.marrows.getD tc {} } else s
    let old := Tab.getD s.scratch p.core []
    let keep := List.filter (fun (c : Host.Cell) => decide (c.1 < p.sbase) || decide (p.sbase + p.need.size ≤ c.1)) old
    let cells := (tm.windows.getD tc []).foldl (fun m c => cellWrite m (p.sbase + c.1) c.2) keep
    { s with scratch := Tab.set s.scratch p.core cells }.mendWords p.core p.sbase p.need.size) s
  let s := { s with groups := s.groups.map fun (x : Nat × Group) =>
    if x.2.team == t then
      let tc := (x.2.core - 2048) / 512
      let p := spot tc
      let gr := carryGroup x.2 x.2.core 0 p.need.size p.core p.sbase (x.2.slot0 - tm.slot0.getD tc 0 + p.slot0)
      (x.1, { gr with readySince := s.cycle, lastIssue := s.cycle })
    else x }
  let s := { s with
    ops := s.ops.map fun (x : Nat × Op) => if x.2.team == t then (x.1, { x.2 with core := (spot ((x.2.core - 2048) / 512)).core }) else x
    saved := Tab.modify s.saved tm.ctx fun n => n - tm.savedBytes }
  let s := s.modTeam t fun tm =>
    { tm with
      out := false, cores := ks, sbase := sp.map Spot.sbase, srun := sp.map Spot.run, slot0 := sp.map Spot.slot0
      windows := [], marrows := [], mailbox := [], savedBytes := 0 }
  let s := s.placeWindows ((s.groups.filter fun x => x.2.team == t && !x.2.retired).map Prod.fst)
  let s := tm.mailbox.foldl (fun (s : State) g => s.performSync g) s
  let gs := (s.groups.filter fun x => x.2.team == t).map Prod.fst
  let s := gs.foldl State.rewait (gs.foldl State.endLoggedWait s)
  (((s.ops.filter fun x => x.2.team == t).map Prod.fst).foldl State.reaccept s).arRestore t

/-- The saved teams of a GANG grid, all in one step or none. -/
def State.restoreGang (s : State) (blocked : List Nat) : List Nat → Option State
  | [] => some s
  | t :: r =>
    let tm := s.teamOf t
    let sets := dieSets (s.teamDie tm) tm.coreCount s.free
    match sets.find? fun x => s.fitsSaved t x.1 x.2 && !(x.2.any fun k => blocked.contains k) with
    | none => none
    | some x => ({ s with free := s.free + 1 }.restoreTeam t x.2).restoreGang blocked r

/-- The lowest linear index among a grid's saved teams. -/
def State.firstSaved (s : State) (id : Nat) : Nat :=
  (s.savedTeams id).foldl (fun m t => min m (s.teamOf t).index) (2 ^ 31)

/-- TEAM_RESTORE (R381, 21 R478): the first saved team of a grid, on the cores named of a cluster of its die; or its
grid waits for room there. -/
def execTeamRestore (t cluster cores : Nat) (s : State) : Res :=
  .next <|
    let tm := s.teamOf t
    match Tab.get? s.launches tm.launch with
    | none => s
    | some l =>
      let ks := maskCores cluster cores
      if !tm.out || tm.ended || cluster / 16 != l.die || ks.length != tm.coreCount || !ctxEn (s.ctxEntry l.die tm.ctx) || tm.awaitsEn
          || s.firstSaved tm.launch != tm.index then s
      else
        let blocked := s.blockedCores tm.launch l
        if recGang l.record then
          match s.restoreGang blocked (s.savedTeams tm.launch) with
          | some s => s.aim tm.launch []
          | none => s.draw.aim tm.launch ks
        else if s.fitsSaved t cluster ks && !(ks.any fun k => blocked.contains k) then
          (s.restoreTeam t ks).aim tm.launch []
        else s.aim tm.launch ks

end Sys2Proof.Machine
end

