-- ==== Sys2Proof/Machine/Fabric.lean ====
section
/-! DEFINITION. The control plane's writes and commands (14 R326, R327, 18 R427, 21 R476-R482), the end of link trainings
(19 R453, R454), time (19 R459), host and fabric (21 R483, R484), and the management plane (01 R14, R23, R25, 21
R485-R489). -/

namespace Sys2Proof.Machine

/-! ### Register writes (00 R3, 14 R326, 15 R355, 18 R418, 21 R476) -/

/-- REGISTER_WRITE (R3, R476). -/
def execRegisterWrite (die offset : Nat) (v : BitVec 64) (s : State) : Res :=
  .next (s.setRegWord die (offset / 8 * 8) v.toNat 0 8)

/-- CLUSTER_CONFIG_WRITE (R326, R327). -/
def execClusterConfigWrite (cluster : Nat) (fuse : Bool) (s : State) : Res :=
  .next { s with clusters := Tab.set s.clusters cluster { s.cluster cluster with fuse := fuse } }

/-- FREE_FRAME_PUSH (R418). -/
def execFreeFramePush (die la : Nat) (psz pflat : Bool) (s : State) : Res :=
  .next (s.pushFrame die (la % 2 ^ 40 / 4096 * 4096) psz pflat)

/-- CACHE_MODE_SWITCH (R327): all eight arrays are emptied, and ACT takes FUSE. -/
def execCacheModeSwitch (cluster : Nat) (s : State) : Res :=
  .next <|
    let c := s.cluster cluster
    if !s.switching cluster then s
    else
      { s with
        caches := s.caches.filter fun (x : Nat × Tab CacheLine) => coreCluster x.1 != cluster
        clusters := Tab.set s.clusters cluster { fuse := c.fuse, act := c.fuse } }.log (cluster / 16) (0x200 + cluster) 0x08
          [(cluster % 16, 4), (boolNat c.fuse, 1)]

/-! ### Control commands (R479) -/

/-- A command runs, and has not ended but for its record. -/
def State.commandRuns (s : State) : Bool := s.control.busy && s.control.finishing.isNone

/-- The command that runs, when its OP is `op`: CTX, CTX2, A0, A1, A2. -/
def State.command (s : State) (op : Nat) : Option (Nat × Nat × Nat × Nat × Nat) :=
  if s.commandRuns && s.control.latched.1 == op then some s.control.latched.2 else none

/-- The running command ends: STATUS and COUNT, the record, and BUSY once the record has been written. -/
def State.endCommand (s : State) (status count : Nat) : State :=
  let l := s.control.latched
  let k := (s.die 0).logWait.length
  let s := { s with control := { s.control with status := status, count := count % 2 ^ 24 } }.pushRecord 0 0x244 0x10 (s.gtc 0)
    [(l.1, 4), (status, 8), (count, 24), (l.2.1, 12), (l.2.2.1, 12)]
  let n := (s.die 0).logWait.length
  ({ s with control :=
      if n == k then { s.control with busy := false } else { s.control with finishing := some n } }.storeLogs).endWait .clone

/-- UNKNOWN_CONTROL_OP (R479). -/
def execUnknownControlOp (s : State) : Res :=
  .next (if s.commandRuns && (s.control.latched.1 == 0 || decide (7 < s.control.latched.1)) then s.endCommand 0xFF 0 else s)

/-! ### Cloning a context (R480) -/

/-- An entry at a level of a table that points to a table beneath. -/
def pointsOn (level e : Nat) : Bool := pteV e && !pteLeaf e && pteOk level e

/-- A clone may use a sector: its check passes, and a way leads to it (log entry 43). -/
def State.cloneReads (s : State) (pa : Nat) : Bool := s.sectorStatus pa == 0 && s.reaches 0 pa

/-- Entry `i` of a table that a clone reads. One whose sector fails its check (18 R432) is copied as it stands, with
nothing beneath it (log entry 43). -/
def State.entryAt (s : State) (tbl i : Nat) : Nat :=
  if s.cloneReads (tbl + 8 * i) then s.paLoad (tbl + 8 * i) 8 else 0

/-- Tables of a subtree that a clone copies, counted no further than 257. -/
def State.countTables (s : State) (mask tbl : Nat) : Nat → Nat
  | 0 => 1
  | n + 1 =>
    (List.range 512).foldl (fun k i =>
      if 256 < k then k
      else
        let e := s.entryAt tbl i
        if pointsOn (n + 1) e && bitOf mask i then k + s.countTables (2 ^ 512 - 1) (pteAddr e) n else k) 1

/-- Takes a 4 KiB frame of a die's pool. -/
def State.takeFrame (s : State) (d : Nat) : State × Nat :=
  let di := s.die d
  (s.modDie d fun di => { di with pool4k := di.pool4k.drop 1 }, di.pool4k.headD 0)

/-- Copies a table, and those beneath it that the mask names, into frames of a die's pool. Gives the new table. -/
def State.cloneTable (s : State) (d mask tbl : Nat) : Nat → State × Nat
  | 0 =>
    let (s, n) := s.takeFrame d
    ((List.range 8).foldl (fun (s : State) j => s.copyLine (paLa tbl / 512 + j) (n / 512 + j)) s, n)
  | l + 1 =>
    let (s, n) := s.takeFrame d
    let s := (List.range 8).foldl (fun (s : State) j => s.copyLine (paLa tbl / 512 + j) (n / 512 + j)) s
    ((List.range 512).foldl (fun (s : State) i =>
      let e := s.entryAt tbl i
      if pointsOn (l + 1) e && bitOf mask i then
        let (s, c) := s.cloneTable d (2 ^ 512 - 1) (pteAddr e) l
        (s.setPaBytes (n + 8 * i) (setBits e 12 40 (c / 4096)) 8).triggerDevice (n + 8 * i)
      else s) s, n)

/-- The clone that a control command asks for. It waits for sectors as any write does (R419). -/
def State.cloneContext (s : State) : State :=
  match s.command 1 with
  | none => s
  | some (ctx, ctx2, a0, _, _) =>
    let s := ((s.noteCorrected (s.ctxAddr ctx) false).noteCorrected (s.ctxAddr ctx2) false).noteCorrected (a0 % 2 ^ 52) false
    let e := s.ctxEntry 0 ctx
    let root := ctxRoot e
    let d := homeDie root
    let mask := s.paLoad (s.placeOf (a0 % 2 ^ 52)) 64
    if ctxEn e || ctxEn (s.ctxEntry 0 ctx2) || !s.cloneReads (s.ctxAddr ctx) || !s.cloneReads (a0 % 2 ^ 52) then
      s.endCommand 1 0
    else
      let n := s.countTables mask root 4
      if 256 < n then s.endCommand 3 0
      else if (s.die d).pool4k.length < n then s.endCommand 2 0
      else if (s.die d).freeSectors < 64 * n then s.noteWait .clone d
      else
        let (t, r) := s.cloneTable d mask root 4
        match t.putSector 0 (s.ctxAddr ctx2) (setBits (setBits e 64 40 (r / 4096)) 0 1 0) with
        | none => s.noteWait .clone (homeDie (s.ctxAddr ctx2))
        | some t => (t.notePress d).endCommand 0 n

/-- CLONE_CONTEXT (R480). -/
def execCloneContext (s : State) : Res := .next s.cloneContext

/-! ### Translation invalidation (18 R427) -/

/-- TRANSLATION_INVALIDATION (18 R427). -/
def execTranslationInvalidation (s : State) : Res :=
  .next <|
    match s.command 2 with
    | none => s
    | some (ctx, _, a0, a1, _) =>
      let p := if a1 == 0 then 0 else pageOf a0
      let n := if a1 == 0 then 2 ^ 45 else (a0 % 2 ^ 57 + a1 - 1) / 4096 - p + 1
      (((s.dropLeaves ctx p n).dropPtrs ctx p n).withdraw ctx p n).endCommand 0 0

/-! ### Writes from outside (21 R483, R484) -/

/-- A physical address as the port writes it: of no page, so that descriptors stay. -/
def bareAddr (pa : Nat) : Xlate := { pa := pa, pte := 0, level := 0, at_ := 0 }

/-- Eight bytes that the host or another package writes, and the die where they enter. Such a write that finds no free
sector waits (18 R419). -/
def State.outerWrite (s : State) (d pa v : Nat) : State :=
  match s.writeHome d (bareAddr pa) v 8 0 with
  | (s, .waits h) => s.noteWait (.outer d pa v) h
  | (s, _) => s.endWait (.outer d pa v)

/-! ### Writes that waited for sectors (18 R419) -/

/-- A write that waits for sectors is tried again. -/
def State.retryWait (s : State) (w : SectorWait) : State :=
  match w with
  | .op id => s.writeUnit id
  | .row key =>
    match Tab.get? s.nmRows key with
    | some row => s.performRow key row
    | none => s.endWait w
  | .posted g => s.performPosted g
  | .done id => s.finishDone id
  | .order d => s.preemptOn d
  | .clone => s.cloneContext
  | .log _ => s.storeLogs
  | .outer d pa v => s.outerWrite d pa v

/-- SECTOR_WAIT_RESUME (18 R419): the writes that wait for sectors of a die go on, in the order in which they came to
wait. -/
def execSectorWaitResume (die : Nat) (s : State) : Res :=
  .next <|
    if (s.die die).freeSectors == 0 then s
    else (s.sectorWaits.filter fun w => w.2 == die).foldl (fun (s : State) w => s.retryWait w.1) s

/-! ### The other commands (R482, 11 R295, 15 R382) -/

/-- R482: every line of a frame returns to unbacked, its sectors to FREE; a flat frame loses its place, by 64 KiB frames
(log entry 21). -/
def State.releaseFrame (s : State) (la size : Nat) : State :=
  let d := la / 2 ^ 38 % 4
  let inFrame := fun (line : Nat) => decide (la / 512 ≤ line) && decide (line < (la + size) / 512)
  let freed := (s.lines.map fun (l : Nat × LineState) => if inFrame l.1 then lineSectors (some l.2) else 0).sum
  let s := { s with
    lines := s.lines.filter fun (l : Nat × LineState) => !inFrame l.1
    mem := s.mem.filter fun (c : Host.Cell) => !(decide (la ≤ c.1) && decide (c.1 < la + size))
    desc := s.desc.filter fun (x : Nat × BitVec 16) => !inFrame (x.1 / 8)
    faults := s.faults.filter fun (x : Nat × SectorFault) => !inFrame (x.1 / 8)
    flat := s.flat.filter fun (x : Nat × Nat) => size != 65536 || x.1 != la / 65536 }
  (s.modDie d fun di => { di with freeSectors := di.freeSectors + freed }).notePress d

/-- FRAME_RELEASE (R482). -/
def execFrameRelease (s : State) : Res :=
  .next <|
    match s.command 3 with
    | none => s
    | some (_, _, a0, a1, _) =>
      if 2 ^ 40 ≤ a0 then s.endCommand 1 0
      else
        let size := if bitOf a1 0 then 65536 else 4096
        (s.releaseFrame (a0 / size * size) size).endCommand 0 0

/-- The resident group or free fibre of a context on a fibre slot of a core. -/
def State.slotHolder (s : State) (ctx core slot : Nat) : Option Nat :=
  (s.groups.find? fun g =>
    !g.2.retired && g.2.core == core && decide (g.2.slot0 ≤ slot) && decide (slot < g.2.slot0 + g.2.width) &&
      (s.teamOf g.2.team).ctx == ctx && !(s.teamOf g.2.team).out).map Prod.fst

/-- DEBUG_WRITE (11 R295, R297): a write of sr.dbg, its RESUME and DROP with it. -/
def execDebugWrite (s : State) : Res :=
  .next <|
    match s.command 5 with
    | none => s
    | some (ctx, _, a0, a1, _) =>
      match (if bitsOf a0 9 13 == s.pkg.toNat then s.slotHolder ctx (bitsOf a0 0 9) (bitsOf a0 32 11) else none) with
      | none => s.endCommand 1 0
      | some g =>
        let s := s.modShared g fun sh => { sh with dbg := BitVec.ofNat 6 a1 }
        (if bitOf a1 7 then s.resumeDebug g (bitOf a1 8) else s).endCommand 0 0

/-- END_GRID (15 R382). -/
def execEndGrid (s : State) : Res :=
  .next <|
    match s.command 6 with
    | none => s
    | some (_, _, a0, a1, _) =>
      match s.launches.find? fun l => l.2.die == a0 % 4 && l.2.gseq == a1 % 2 ^ 32 with
      | none => s.endCommand 1 0
      | some (id, _) => (s.killGrid id 2 0).endCommand 0 0

/-- END_CONTEXT (15 R382, R482). -/
def execEndContext (s : State) : Res :=
  .next <|
    match s.command 7 with
    | none => s
    | some (ctx, _, _, _, _) => (s.killContext ctx 2 0).endCommand 0 0

/-! ### Link trainings (19 R453, R454) -/

/-- LINK_RETRAIN_ORDER (19 R453): the module's own training begins, once none runs. -/
def execLinkRetrainOrder (s : State) : Res :=
  .next <|
    match s.command 4 with
    | none => s
    | some (_, _, a0, _, _) =>
      let d := bitsOf a0 0 2
      let p := bitsOf a0 2 1
      let m := bitsOf a0 3 2
      let st := (s.module d p m).state
      if st == 3 then s else s.modEnds d p m fun r => r.train st

/-- RETRAIN_COMPLETE (19 R453, R454): a fallback's training ends at 32 lanes or takes the module down; a retrain order's
ends at 64 lanes or where the module stood, and with it the command. -/
def execRetrainComplete (die port module : Nat) (ok : Bool) (s : State) : Res :=
  .next <|
    let r := s.module die port module
    let led := if r.led then die else neighbour die port
    match r.state == 3, r.goal with
    | true, some 4 =>
      if ok then
        let now := s.gtc die
        (s.modEnds die port module fun r => r.trained 1 now (s.die die).age).linkLog led port module 0
      else s.goDown led port module
    | true, some st =>
      let now := s.gtc die
      (s.modEnds die port module fun r => r.trained (if ok then 0 else st) now (s.die die).age).endCommand (if ok then 0 else 1) 0
    | _, _ => s

/-! ### Time (19 R459) -/

/-- GTC_SYNC (R459): a die's counter is found up to δ ahead of the base; one that is to lose ticks stands still while the
others gain them. -/
def execGtcSync (die : Nat) (s : State) : Res :=
  .next <|
    if die == 0 then s
    else
      let old := Tab.getD s.gtcOff die 0
      let new := Config.choice s.free % (gtcSkew + 1)
      { s.draw with time := s.time + (old - new), gtcOff := Tab.set s.gtcOff die new }

/-! ### Host and fabric (R483, R484) -/

/-- HOST_ACCESS (R477, R483): eight bytes through BAR0 or BAR2; and, at 4, the host's own set-up of the port, an MSI-X
vector's mask of KINDs or BAR2's base (log entry 37). -/
def execHostAccess (write : Bool) (bar addr : Nat) (v : BitVec 64) (s : State) : Res :=
  .next <|
    let a := addr / 8 * 8
    if bar == 0 then
      let pa := 2 ^ 48 + a % 2 ^ 30
      if write && s.reaches 0 pa then s.ctlStore pa v.toNat 8 8 else s
    else if bar == 2 then
      let pa := (s.bar2 + a % 2 ^ 36) % 2 ^ 40
      if write then s.outerWrite 0 pa v.toNat else (s.readHome 0 pa).1
    else if !write then s
    else if addr < 64 then
      { s with msixMask := Tab.set s.msixMask addr ((List.range 64).filter fun k => bitOf v.toNat k) }
    else { s with bar2 := v.toNat % 2 ^ 40 }

/-- REMOTE_PACKAGE_REQUEST (R484): eight bytes of another package's, through its window and route; or, at an address of
region 0x0, another package's request to this one. -/
def execRemotePackageRequest (write : Bool) (pa : Nat) (v : BitVec 64) (s : State) : Res :=
  .next <|
    let a := pa % 2 ^ 52 / 8 * 8
    if paRegion a == 0 && bitsOf a 40 8 != 0 then s
    else if paRegion a == 0 || 8 ≤ paRegion a then
      (if write then s.outerWrite (s.homeOf a) a v.toNat else (s.readHome (s.homeOf a) a).1)
    else s

/-! ### Management (R485-R489) -/

/-- LIMIT_REGISTER_WRITE (R485). -/
def execLimitRegisterWrite (clim : Bool) (v : BitVec 11) (s : State) : Res :=
  .next { s with manage := s.manage.setLimit clim v.toNat }

/-- A value between its floor and its fused ceiling (R485). -/
def clampTo (lo hi v : Nat) : Nat := if v < lo then lo else if hi < v then hi else v

/-- LIMIT_IN_FORCE (01 R23, R485). -/
def execLimitInForce (s : State) : Res :=
  .next <|
    let m := s.manage
    if !m.pending then s
    else
      let p := clampTo 300 1800 m.plim
      let c := clampTo 200 1700 m.clim
      { s with manage :=
        { m with
          plimNow := p, plimOld := (m.powerLimit (s.gtc 0), s.gtc 0 + 1000000), climNow := c, cclk := c
          pending := false } }.log 0 0x244 0x13
        [(p, 11), (c, 11)]

/-- FIRMWARE_KICK (R487). -/
def execFirmwareKick (s : State) : Res := .next { s with manage := { s.manage with kicked := s.gtc 0 } }

/-- R487: the safe state, entered by a die's controller for a reason of record 0x14. -/
def State.enterSafe (s : State) (d reason : Nat) : State :=
  let m := (s.manage.setLimit false 900).setLimit true 1000
  { s with manage := { m with safe := true, kicked := s.gtc 0 } }.log d (0x244 + d) 0x14 [(reason, 2), (d, 2)]

/-- R486: the boot ROM accepts an image that carries a good signature and a security version not below the fused one. -/
def imageOk (signed : Bool) (svn : Nat) : Bool := signed && decide (Config.fusedSvn.toNat ≤ svn)

/-- R486: the boot ROM of a die's controller verifies its image; a refused one leaves the controller in the safe state. -/
def State.verify (s : State) (d : Nat) (signed : Bool) (svn : Nat) : State :=
  let ok := imageOk signed (svn % 2 ^ 32)
  let s := s.log d (0x244 + d) 0x11 [(if ok then 0 else 1, 2), (d, 2), (svn, 32)]
  if ok then s else s.enterSafe d 1

/-- WATCHDOG_EXPIRY (R486, R487): the safe state, and die 0's controller starts again from ROM; its image is what it finds
(log entry 39). -/
def execWatchdogExpiry (s : State) : Res :=
  .next (if s.gtc 0 < s.manage.kicked + 1000000000 then s
    else (s.enterSafe 0 0).draw.draw.verify 0 (Config.choice s.free % 2 == 0) (Config.choice (s.free + 1)))

/-- R487: a controller's write to host memory; one outside the window the host has set is dropped. -/
def State.firmwareWrite (s : State) (d addr v : Nat) : State :=
  let a := addr % 2 ^ 48 / 8 * 8
  let base := s.manage.hwbase.getD 0
  if decide (base ≤ a) && decide (a + 8 ≤ base + s.manage.hwsize.getD 0) then
    (s.writeHome d (bareAddr (2 ^ 49 + a)) v 8 0).1
  else s

/-- PATROL_SCRUB (R488). -/
def execPatrolScrub (sector : Nat) (s : State) : Res :=
  .next <|
    let pa := 64 * (sector % 2 ^ 34)
    match Tab.get? s.faults (sector % 2 ^ 34) with
    | some .corrected => s.noteCorrected pa true
    | some .uncorrectable =>
      let d := homeDie pa
      let b := s.sectorBank pa
      s.draw.log d (0x244 + d) 0x12 [(sector % 2 ^ 34, 34), (b / 1024, 3), (b / 16, 6), (b, 4)]
    | _ => s

/-- Signatures a key store can give: an LMS tree of two levels of height 15 (R486). -/
def keyLeaves : Nat := 2 ^ 30

/-- SPDM_REQUEST (R486): signed measurements, while the identity key is not exhausted. -/
def execSpdmRequest (die : Nat) (s : State) : Res :=
  .next <|
    let n := Tab.getD s.manage.leaves die 0
    if keyLeaves ≤ n then s
    else
      { s with manage := { s.manage with leaves := Tab.set s.manage.leaves die (n + 1) } }.log die (0x244 + die) 0x11
        [(2, 2), (die, 2), (Config.fusedSvn.toNat, 32)]

/-- PACKAGE_SLEEP (01 R25). -/
def execPackageSleep (s : State) : Res := .next { s with asleep := true }

/-- PACKAGE_WAKE (01 R14, 19 R459, R486): every register at its reset value, the GTC past every value read before; the
fuses, the key stores' counters and what lies outside the package remain. Each die's controller verifies its image:
`signed` says of die 0's whether its signature is good; the others', and the versions, are what they are (log entry
39). -/
def execPackageWake (reference : Nat) (signed : Bool) (s : State) : Res :=
  .next <|
    if !s.asleep then s
    else
      let t := max reference (s.time + gtcSkew + 1)
      let w := State.reset
      let w := { w with
        time := t, gtcOff := (List.range 4).map fun d => (d, Config.choice (s.free + d) % (gtcSkew + 1))
        outside := s.outside, seq := s.seq, agenda := s.agenda, free := s.free + 12
        manage := { w.manage with leaves := s.manage.leaves, kicked := t } }
      (List.range 4).foldl (fun (w : State) d =>
        w.verify d (if d == 0 then signed else Config.choice (s.free + 4 + d) % 2 == 0) (Config.choice (s.free + 8 + d))) w

/-- THERMAL_CLOCK_REDUCTION (R489): a die above 100 °C has CLIM lowered. -/
def execThermalClockReduction (die tj clim : Nat) (s : State) : Res :=
  .next <|
    if tj ≤ 100 || 256 ≤ tj || s.manage.clim ≤ clim then s
    else
      { s with manage := { s.manage.setLimit true clim with tj := s.manage.tj.set die tj } }.log 0 0x244 0x15
        [(die, 2), (tj, 8), (clim, 11)]

/-- THERMAL_TRIP (R489): a die at 115 °C, by its sensor, loses data-plane power, and the package sleeps. -/
def execThermalTrip (die : Nat) (s : State) : Res := .next (if s.manage.tj.getD die 0 < 115 then s else { s with asleep := true })

end Sys2Proof.Machine
end

