-- ==== Sys2Proof/Machine/MatrixData.lean ====
section
/-! DEFINITION. The matrix engine's data (09 R226-R253, 10 R258): operand images, K blocks, FP8 import, the BF16 split,
pre-additions, sums in classical and recombined order, and the engine's cells. -/

namespace Sys2Proof.Machine

/-! ### K blocks (R230) -/

/-- A block of an operand along K: its scale byte, and one mantissa for each element. -/
structure Blk where
  s : Nat
  ms : List Int
  deriving DecidableEq, Repr, Inhabited

/-- A block in parts of `kb` elements, each with its scale byte (R230). -/
def Blk.cut (kb : Nat) (b : Blk) : List Blk :=
  (List.range (b.ms.length / kb)).map fun i => { s := b.s, ms := (b.ms.drop (kb * i)).take kb }

/-- Elements of an engine block of a BXw operand (R230). -/
def kbOf (w : Nat) : Nat := if 5 ≤ w then 64 else 128

/-- Blocks of A and B over the same 128 elements along K, at the smaller kb. -/
def pairBlks (as bs : List Blk) : List (Blk × Blk) :=
  let kb := List.foldl (fun m (b : Blk) => min m b.ms.length) 128 (as ++ bs)
  (as.flatMap (Blk.cut kb)).zip (bs.flatMap (Blk.cut kb))

/-! ### Sums (R112, R247) -/

/-- The exact block product (R231). -/
def dotInts (as bs : List Int) : Int := List.foldl (fun (p : Int) (x : Int × Int) => p + x.1 * x.2) 0 (as.zip bs)

/-- R112: one block is added to an accumulator's FP32 bits. -/
def accBlock (wA wB : Nat) (acc : Nat × Flags) (p : Blk × Blk) : Nat × Flags :=
  if p.1.s == 0xFF || p.2.s == 0xFF then ((floatFmt .f32).nanBits, acc.2)
  else if p.1.s == 0 || p.2.s == 0 then acc
  else
    let e : Int := (p.1.s : Int) + p.2.s - 254 - ((wA : Int) - 1) - ((wB : Int) - 1)
    let x := floatVal .f32 acc.1
    let r := floatExpr .f32 [x] (numAdd x (numScaled (dotInts p.1.ms p.2.ms) e))
    (r.1, acc.2 ||| r.2)

def accBlocks (wA wB : Nat) (acc : Nat × Flags) (ps : List (Blk × Blk)) : Nat × Flags :=
  List.foldl (accBlock wA wB) acc ps

/-- R247: a product is post-added, or subtracted. -/
def postAdd (acc : Nat × Flags) (neg : Bool) (m : Nat) : Nat × Flags :=
  let x := floatVal .f32 acc.1
  let y := floatVal .f32 m
  let r := floatExpr .f32 [x, y] (if neg then numSub x y else numAdd x y)
  (r.1, acc.2 ||| r.2)

/-! ### Pre-additions (R245, R246) -/

/-- Mantissas times 2^−d, rounded; whether a rounding was inexact. -/
def shiftMants (d : Nat) (ms : List Int) : List Int × Bool :=
  let rs := ms.map fun m => rnaInt (numOfInt m) d
  (rs, (ms.zip rs).any fun p => p.1 != p.2 * (2 : Int) ^ d)

/-- R246: X + Y, or X − Y, of two blocks at one place. -/
def preAdd (neg : Bool) (x y : Blk) : Blk × Flags :=
  let sg := fun (m : Int) => if neg then -m else m
  if x.s == 0xFF || y.s == 0xFF then ({ s := 0xFF, ms := x.ms.map fun _ => 0 }, 0)
  else if y.s == 0 then ((if x.s == 0 then { s := 0, ms := x.ms.map fun _ => 0 } else x), 0)
  else if x.s == 0 then ({ y with ms := y.ms.map sg }, 0)
  else
    let e := max x.s y.s
    let (xs, nx) := shiftMants (e - x.s) x.ms
    let (ys, ny) := shiftMants (e - y.s) y.ms
    ({ s := e, ms := (xs.zip ys).map fun p => p.1 + sg p.2 }, if nx || ny then flNX else 0)

/-- Table 9.4: the operands of product `c` out of sub-tiles 11, 12, 21, 22 numbered 0 to 3: the first, and the second
with its sign. -/
def rcA (c : Nat) : Nat × Option (Bool × Nat) :=
  match c with
  | 1 => (0, some (false, 3))
  | 2 => (2, some (false, 3))
  | 3 => (0, none)
  | 4 => (3, none)
  | 5 => (0, some (false, 1))
  | 6 => (2, some (true, 0))
  | _ => (1, some (true, 3))
def rcB (c : Nat) : Nat × Option (Bool × Nat) :=
  match c with
  | 1 => (0, some (false, 3))
  | 2 => (0, none)
  | 3 => (1, some (true, 3))
  | 4 => (2, some (true, 0))
  | 5 => (3, none)
  | 6 => (0, some (false, 1))
  | _ => (2, some (false, 3))

/-- R247: the products post-added into each C sub-tile, in order, with their signs. -/
def rcPosts (q : Nat) : List (Nat × Bool) :=
  match q with
  | 0 => [(1, false), (4, false), (5, true), (7, false)]
  | 1 => [(3, false), (5, false)]
  | 2 => [(2, false), (4, false)]
  | _ => [(1, false), (2, true), (3, false), (6, false)]

/-- The pre-added blocks of a product, out of the four sub-tiles' blocks at one place. -/
def preAddOf (sel : Nat × Option (Bool × Nat)) (subs : List (List Blk)) : List Blk × Flags :=
  match sel.2 with
  | none => (subs.getD sel.1 [], 0)
  | some (neg, y) =>
    let rs := ((subs.getD sel.1 []).zip (subs.getD y [])).map fun p => preAdd neg p.1 p.2
    (rs.map Prod.fst, List.foldl (fun fl r => fl ||| r.2) 0 rs)

/-! ### FP8 import and the BF16 split (R241, R242) -/

/-- R241: a block of 64 values as BX8. -/
def importBlk (xs : List Num) : Blk × Flags :=
  let r := bxEncode 8 true xs
  ({ s := r.1, ms := r.2.1 }, r.2.2)

/-- R242: the primary and residual blocks of 64 values. -/
def splitBlk (xs : List Num) : Blk × Blk × Flags :=
  let r := bxEncode 8 false xs
  let zeros := xs.map fun _ => (0 : Int)
  let nv := r.2.2 &&& flNV
  if r.1 == 0xFF || r.1 == 0 then ({ s := r.1, ms := zeros }, { s := r.1, ms := zeros }, nv)
  else
    let qe : Int := (r.1 : Int) - 134
    let part := (xs.zip r.2.1).map fun p =>
      let d := (numSub p.1 (numScaled p.2 qe)).1
      if numEq d (numScaled 1 (qe - 1)) then (p.2 + 1, (numSub d (numScaled 1 qe)).1) else (p.2, d)
    let sl := max (r.1 - 8) 1
    let le : Int := (sl : Int) - 134
    let lo := part.map fun p => max (-128) (min 127 (rnaInt p.2 le))
    let inexact := ((part.map Prod.snd).zip lo).any fun p => !numEq p.1 (numScaled p.2 le)
    ({ s := r.1, ms := part.map Prod.fst }, { s := if lo.all (· == 0) then 0 else sl, ms := lo },
      nv ||| (if inexact then flNX else 0))

/-! ### Operand images (R258, Table 10.4) -/

/-- An image: window address, type, rows, and elements of a row. -/
structure Img where
  base : Nat
  t : Ty
  rows : Nat
  epr : Nat
  deriving DecidableEq, Repr, Inhabited

def Img.rowBytes (m : Img) : Nat := if tyBx m.t then m.epr / bxElems m.t * 64 else m.epr * (tyWidth m.t / 8)
def Img.payload (m : Img) : Nat := m.rows * m.rowBytes
/-- Payload, with its descriptor or scale array. -/
def Img.bytes (m : Img) : Nat :=
  m.payload + (if tyBx m.t then m.payload / 32 else if tyMx m.t then m.payload / 32 else 0)

/-- The payload of sector `q` of row `r`, and its scale byte: none for a sector that is refused (R258). -/
def State.imgSector (s : State) (o : Op) (m : Img) (r q : Nat) : Nat × Option Nat :=
  let p := r * (m.rowBytes / 64) + q
  let d := s.placeLoad (s.opScr o (m.base + m.payload + 2 * p)) 2
  (s.placeLoad (s.opScr o (m.base + 64 * p)) 64, if d % 256 == tyCode m.t then some (d / 256 % 256) else none)

/-- The bits of element `e` of row `r` of an image whose elements are whole bytes. -/
def State.imgBits (s : State) (o : Op) (m : Img) (r e : Nat) : Nat :=
  let z := tyWidth m.t / 8
  s.placeLoad (s.opScr o (m.base + r * m.rowBytes + z * e)) z

/-- Refused sectors of an image. -/
def State.imgRefused (s : State) (o : Op) (m : Img) : Nat :=
  if tyBx m.t then
    let ds := (List.range (m.payload / 64)).map fun p =>
      s.placeLoad (s.opScr o (m.base + m.payload + 2 * p)) 2 % 256
    (ds.filter fun d => d != tyCode m.t).length
  else 0

/-- The decoded elements of a row (R91, R97, R100); none where the sector is refused. -/
def State.imgRow (s : State) (o : Op) (m : Img) (r : Nat) : List (Option Num) :=
  if tyBx m.t then
    (List.range (m.epr / bxElems m.t)).flatMap fun q =>
      match s.imgSector o m r q with
      | (p, some sc) => (List.range (bxElems m.t)).map fun e => some (bxElem m.t p sc e)
      | (_, none) => (List.range (bxElems m.t)).map fun _ => none
  else if tyMx m.t then
    (List.range m.epr).map fun e =>
      let sc := s.placeLoad (s.opScr o (m.base + m.payload + r * (m.epr / 32) + e / 32)) 1
      some (mxVal m.t sc (s.imgBits o m r e))
  else (List.range m.epr).map fun e => some (floatVal m.t (s.imgBits o m r e))

/-- A piece of an operand row: blocks along K for each part (one part; two, hi and lo, for BF16); `refused`. -/
structure RowBlk where
  parts : List Blk
  fl : Flags := 0
  refused : Bool := false
  deriving DecidableEq, Repr, Inhabited

/-- Consecutive runs of 64 elements. -/
def runs64 (xs : List Num) : List (List Num) := (List.range (xs.length / 64)).map fun i => (xs.drop (64 * i)).take 64

/-- The blocks of an operand row, in ascending K (R230, R241, R242): a BX2 sector gives two. -/
def State.operandRow (s : State) (o : Op) (m : Img) (r : Nat) : List RowBlk :=
  if tyBx m.t then
    let kb := kbOf (tyWidth m.t)
    (List.range (m.epr / bxElems m.t)).flatMap fun q =>
      let x := s.imgSector o m r q
      (List.range (bxElems m.t / kb)).map fun h =>
        { parts := [{ s := x.2.getD 0, ms := (List.range kb).map fun e => bxMant m.t x.1 (kb * h + e) }]
          refused := x.2.isNone }
  else
    let xs := (s.imgRow o m r).map fun x => x.getD (numZero false)
    (runs64 xs).map fun x =>
      if m.t == .bf16 then
        let (hi, lo, fl) := splitBlk x
        { parts := [hi, lo], fl := fl }
      else
        let (b, fl) := importBlk x
        { parts := [b], fl := fl }

/-- A row as it is written: its bytes, its descriptors or scale bytes, its flags, and whether every value is
reproduced exactly. -/
structure RowOut where
  bytes : Nat
  arr : List Nat
  fl : Flags
  exact : Bool
  deriving Repr, Inhabited

def sameNum (x y : Num) : Bool :=
  (x.isNan && y.isNan) || (x.isInf && y.isInf && x.neg? == y.neg?) || numEq x y

/-- R268, R270: a row of 128 values in a format: BX blocks by R98, MXFP8 by R101, others by Table 4.6. -/
def encodeRow (t : Ty) (imx : Bool) (xs : List Num) : RowOut :=
  if tyBx t then
    let n := bxElems t
    let bs := (List.range (xs.length / n)).map fun i =>
      let x := (xs.drop (n * i)).take n
      let r := bxBlock t imx x
      (r, (List.range n).all fun e => sameNum (x.getD e .nan) (bxElem t r.1 (r.2.1 / 256) e))
    { bytes := ofLeBytes (bs.flatMap fun b => leBytes b.1.1 64), arr := bs.map fun b => b.1.2.1
      fl := List.foldl (fun a b => a ||| b.1.2.2) 0 bs, exact := bs.all fun b => b.2 }
  else if tyMx t then
    let bs := (List.range (xs.length / 32)).map fun i =>
      let x := (xs.drop (32 * i)).take 32
      let r := mxEncode t x
      (r, (List.range 32).all fun e => sameNum (x.getD e .nan) (mxVal t r.1 (r.2.1.getD e 0)))
    { bytes := ofLeBytes ((bs.flatMap fun b => b.1.2.1).map fun v => BitVec.ofNat 8 v), arr := bs.map fun b => b.1.1
      fl := List.foldl (fun a b => a ||| b.1.2.2) 0 bs, exact := bs.all fun b => b.2 }
  else
    let rs := xs.map fun x => (x, roundFloat t x)
    { bytes := ofLeBytes (rs.flatMap fun r => leBytes r.2.1 (tyWidth t / 8)), arr := []
      fl := List.foldl (fun a r => a ||| r.2.2) 0 rs, exact := rs.all fun r => sameNum r.1 (floatVal t r.2.1) }

/-- Rows written into an image, with their descriptor or scale arrays. -/
def State.putRows (s : State) (o : Op) (m : Img) (rs : List RowOut) : State :=
  let ps := (List.range rs.length).zip rs
  List.foldl (fun (s : State) (p : Nat × RowOut) =>
    let b := s.opBase o
    let s := s.storeScr o.core (b + m.base + p.1 * m.rowBytes) p.2.bytes m.rowBytes
    let z := if tyBx m.t then 2 else 1
    let n := p.2.arr.length
    if n == 0 then s
    else s.storeScr o.core (b + m.base + m.payload + z * n * p.1) (ofLeBytes (p.2.arr.flatMap fun v => leBytes v z)) (z * n))
    s ps

def transposeRows (n : Nat) (rows : List (List Num)) : List (List Num) :=
  (List.range n).map fun j => rows.map fun r => r.getD j (numZero false)

/-! ### Tiles, cells and scale bytes (Table 9.1, R228, R229) -/

/-- The values of `n` consecutive keys from `k`, zero where nothing is listed, of a table whose keys start there. -/
def denseFrom {α : Type} (z : α) (t : Tab α) (k : Nat) : Nat → List α
  | 0 => []
  | n + 1 =>
    match t with
    | [] => z :: denseFrom z [] (k + 1) n
    | (j, v) :: r => if j == k then v :: denseFrom z r (k + 1) n else z :: denseFrom z t (k + 1) n

def dense {α : Type} (z : α) (t : Tab α) (k n : Nat) : List α := denseFrom z (t.filter fun p => decide (k ≤ p.1)) k n

/-- `n` consecutive keys from `k` with new values, those that are zero not listed. -/
def putDense {α : Type} [BEq α] (z : α) (t : Tab α) (k : Nat) (vs : List α) : Tab α :=
  t.filter (fun p => decide (p.1 < k)) ++
    (((List.range vs.length).zip vs).filter fun p => p.2 != z).map (fun p => (k + p.1, p.2)) ++
    t.filter (fun p => decide (k + vs.length ≤ p.1))

/-- Row `i` of a tile as FP32 bits. -/
def Marrow.tileRow (m : Marrow) (t i : Nat) : List Nat :=
  (dense (0 : Word) m.tiles (16384 * t + 128 * i) 128).map BitVec.toNat

def Marrow.tile (m : Marrow) (t : Nat) : List (List Nat) := (List.range 128).map fun i => m.tileRow t i

/-- Keys `[lo, lo + n)` of a unit hold new bits, with new check bits. -/
def Marrow.mended (m : Marrow) (unit lo n : Nat) : Tab SramError :=
  m.bad.filter fun p => !(decide (2 ^ 20 * unit + lo ≤ p.1) && decide (p.1 < 2 ^ 20 * unit + lo + n))

def Marrow.putTileRow (m : Marrow) (t i : Nat) (vs : List Nat) : Marrow :=
  let k := 16384 * t + 128 * i
  { m with tiles := putDense 0 m.tiles k (vs.map fun v => BitVec.ofNat 32 v), bad := m.mended 2 k vs.length }

def Marrow.putTile (m : Marrow) (t : Nat) (rows : List (List Nat)) : Marrow :=
  List.foldl (fun (m : Marrow) (p : Nat × List Nat) => m.putTileRow t p.1 p.2) m ((List.range rows.length).zip rows)

def Marrow.tag (m : Marrow) (b : Nat) : Tag := Tab.getD m.tags b .zero

/-- Mantissa width of a tag's blocks. -/
def Tag.w (t : Tag) : Nat := match t with | .raw w | .rc _ w => w | _ => 8

/-- The blocks of column `j` of a macro, in ascending K, under a tag. -/
def Marrow.column (m : Marrow) (b : Nat) (t : Tag) (j : Nat) : List Blk :=
  let kb := kbOf t.w
  (List.range (128 / kb)).map fun q =>
    { s := (Tab.getD m.scales (256 * b + 2 * j + q) 0).toNat
      ms := (List.range kb).map fun e =>
        sextN (Tab.getD m.cells (16384 * b + 128 * (kb * q + e) + j) 0).toNat 9 }

/-- One block written to column `j` of a macro: none is a refused sector's, whose cells stay, and whose scale byte stays
or is zeroed (R263). -/
def Marrow.putBlk (m : Marrow) (b j q kb : Nat) (keep : Bool) (v : Option Blk) : Marrow :=
  let sk := 256 * b + 2 * j + q
  let scale := fun (m : Marrow) (x : Nat) =>
    { m with
      scales := if x == 0 then Tab.erase m.scales sk else Tab.set m.scales sk (BitVec.ofNat 8 x)
      bad := m.mended 4 sk 1 }
  match v with
  | none => if keep then m else scale m 0
  | some v =>
    let ps := (List.range v.ms.length).zip v.ms
    let m := scale m v.s
    List.foldl (fun (m : Marrow) (p : Nat × Int) =>
      let k := 16384 * b + 128 * (kb * q + p.1) + j
      { m with
        cells := if p.2 == 0 then Tab.erase m.cells k else Tab.set m.cells k (BitVec.ofNat 9 (wrapN p.2 9))
        bad := if m.bad.isEmpty then m.bad else m.mended 3 k 1 }) m ps

/-- R228, R251, R263: what a reader of macros with tags uses: one scale byte of each block, and the cells of blocks that
are not zero blocks. Keys are those of `Marrow.bad`. -/
def Marrow.uses (m : Marrow) (tags : Tab Tag) (key : Nat) : Bool :=
  let n := key % 2 ^ 20
  match key / 2 ^ 20 with
  | 3 =>
    let b := n / 16384
    Tab.getD m.scales (256 * b + 2 * (n % 128) + n / 128 % 128 / kbOf (Tab.getD tags b .zero).w) 0 != 0
  | 4 => n % 2 == 0 || kbOf (Tab.getD tags (n / 256) .zero).w == 64
  | _ => true

/-- The errors that a reader of keys `[lo, lo + n)` of a unit (2 tiles, 3 cells, 4 scale bytes) meets. -/
def Marrow.errorsIn (m : Marrow) (tags : Tab Tag) (r : Nat × Nat × Nat) : Tab SramError :=
  m.bad.filter fun p =>
    decide (2 ^ 20 * r.1 + r.2.1 ≤ p.1) && decide (p.1 < 2 ^ 20 * r.1 + r.2.1 + r.2.2) && m.uses tags p.1

/-- R229: whether one of them cannot be corrected. -/
def Marrow.lost (m : Marrow) (tags : Tab Tag) (r : Nat × Nat × Nat) : Bool :=
  (m.errorsIn tags r).any fun p => p.2 == .uncorrectable

/-- Corrected errors among the keys read are repaired and logged. -/
def State.repairMarrow (s : State) (k : Nat) (tags : Tab Tag) (r : Nat × Nat × Nat) : State :=
  let es := (s.core k).marrow.errorsIn tags r
  List.foldl (fun (s : State) (p : Nat × SramError) =>
    match p.2 with
    | .corrected b =>
      (s.modCore k fun c => { c with marrow := { c.marrow with bad := Tab.erase c.marrow.bad p.1 } }).log (coreDie k) k
        0x02 [(r.1, 4), (p.1 - 2 ^ 20 * r.1, 32), (b, 8)]
    | .uncorrectable => s) s es

end Sys2Proof.Machine
end

