-- ==== Sys2Proof/Machine/Matrix.lean ====
section
/-! DEFINITION. The MX instructions (10 R255-R277): collective issue and acceptance (09 R233-R239), the single
instructions with the transposer and the stash, and the completion of an accepted operation. -/

namespace Sys2Proof.Machine

/-! ### The words' fields -/

def mmaShape (f : Fields) : Nat := f.xf 6 3
def mmaG (f : Fields) : Nat := 2 ^ mmaShape f
def mmaQuad (f : Fields) : Bool := mmaShape f == 5
def mmaCl (f : Fields) : Bool := f.xf 9 1 == 1
def mmaMasked (f : Fields) : Bool := f.xf 10 1 == 1
/-- MK: the mask goes by blocks along K, not by rows. -/
def mmaByBlock (f : Fields) : Bool := f.xf 11 1 == 1
def mmaMaddr (f : Fields) : Nat := f.xf 16 15 * 16
def mxMacro (f : Fields) : Nat := f.b.toNat % 16
def mxTok (f : Fields) : Nat := if mxTk f then f.c.toNat % 64 else 64

/-- The MX instructions of the collective kind (Table 9.4a), with their fields. -/
def collectiveOf (i : Instr) : Option (Guard × Fields) :=
  match i with
  | .mzro g f | .mldb g f | .mma g f | .mmat g f | .mdrn g f | .mqef g f | .mrda g f | .mwra g f | .maddt g f
  | .mscl g f => some (g, f)
  | _ => none

def isCollective (i : Instr) : Bool := (collectiveOf i).isSome

/-- Operations that run on the matrix engine, the transposer or the stash. -/
def isMatrix (i : Instr) : Bool :=
  isCollective i || (match i with | .mxpose _ _ | .mstsh _ _ | .mldsh _ _ => true | _ => false)

/-- The macros an MMA reads, hi parts before lo parts, in the order of Table 10.8. -/
def mmaMacros (f : Fields) : List Nat :=
  let b := mxMacro f
  let sp := xTy f == .bf16
  if mmaQuad f then
    if mmaCl f then (List.range (if sp then 8 else 4)).map (b + ·)
    else if sp then List.range 7 ++ (List.range 7).map (8 + ·)
    else (List.range 7).map (b + ·)
  else (List.range (if sp then 2 * mmaG f else mmaG f)).map (b + ·)

/-- The tiles an MMA writes. -/
def mmaTiles (f : Fields) : List Nat :=
  let d := f.d.toNat % 8
  if mmaQuad f then [d, d + 1, d + 2, d + 3] else [d]

def mldbRc (f : Fields) : Bool := f.xf 6 1 == 1
def mldbG (f : Fields) : Nat := 2 ^ f.xf 7 3

/-- The macros an MLDB loads, with the tags they take (R263). -/
def mldbTags (f : Fields) : List (Nat × Tag) :=
  let b := mxMacro f
  let t := xTy f
  let w := if tyBx t then tyWidth t else 8
  let g := mldbG f
  if mldbRc f then
    if t == .bf16 then
      (List.range 7).map (fun c => (c, .rcHi (c + 1))) ++ (List.range 7).map (fun c => (8 + c, .rcLo (c + 1)))
    else (List.range 7).map fun c => (b + c, .rc (c + 1) w)
  else if t == .bf16 then
    (List.range g).map (fun k => (b + k, .hi)) ++ (List.range g).map (fun k => (b + g + k, .lo))
  else (List.range g).map fun k => (b + k, .raw w)

/-- Table 10.7: what the scoreboard records: units read, and units written; tiles are 0 to 7, macros 8 to 23. -/
def mxUses (i : Instr) : List Nat × List Nat :=
  match i with
  | .mzro _ f => ([], (List.range (f.xf 0 3 + 1)).map (f.d.toNat % 8 + ·))
  | .mldb _ f => ([], (mldbTags f).map fun p => 8 + p.1)
  | .mma _ f => ((mmaMacros f).map (8 + ·), mmaTiles f)
  | .mmat _ f => ((mmaMacros f).map (8 + ·), [f.d.toNat % 8])
  | .mdrn _ f => ([f.d.toNat % 8], if f.xf 13 1 == 1 then [f.d.toNat % 8] else [])
  | .mqef _ f => ([f.d.toNat % 8], if f.xf 7 1 == 1 then [f.d.toNat % 8] else [])
  | .mrda _ f => ([f.d.toNat % 8], [])
  | .mwra _ f => ([], [f.d.toNat % 8])
  | .maddt _ f => ([f.a.toNat % 8, f.b.toNat % 8], [f.d.toNat % 8])
  | .mscl _ f => ([f.a.toNat % 8], [f.d.toNat % 8])
  | _ => ([], [])

/-- R233: two operations conflict on a unit that either writes. -/
def mxConflict (i j : Instr) : Bool :=
  let a := mxUses i
  let b := mxUses j
  a.2.any (fun u => b.1.contains u || b.2.contains u) || b.2.any fun u => a.1.contains u

/-! ### Images and checks (Tables 10.5, 10.6, 10.8) -/

def mldbImg (f : Fields) (a : Nat) : Img :=
  let t := xTy f
  let g := if mldbRc f then 4 else mldbG f
  if t == .bx2 then { base := a, t := t, rows := 64 * g, epr := 256 } else { base := a, t := t, rows := 128 * g, epr := 128 }

def mmaImg (f : Fields) (a : Nat) : Img :=
  if mmaQuad f then { base := a, t := xTy f, rows := 256, epr := 256 }
  else { base := a, t := xTy f, rows := 128, epr := 128 * mmaG f }

def mmatImg (f : Fields) (a : Nat) : Img := { base := a, t := xTy f, rows := 128 * mmaG f, epr := 128 }
def tileImg (t : Ty) (a : Nat) : Img := { base := a, t := t, rows := 128, epr := 128 }

/-- The window ranges of an MX word, out of its scalars A and B: address, bytes, and the operand that names it: 1 A,
2 B, 4 the mask (DEDUCED, log entry 26). An address in a scalar is a multiple of 64. -/
def mxRanges (i : Instr) (sa sb : Nat) : List (Nat × Nat × Nat) :=
  let a := sa % 2 ^ 32
  let b := sb % 2 ^ 32
  let mask := fun (f : Fields) => if mmaMasked f then [(mmaMaddr f, (if mmaByBlock f then 2 else 16), 4)] else []
  match i with
  | .mldb _ f => [(a, (mldbImg f a).bytes, 1)]
  | .mma _ f => [(a, (mmaImg f a).bytes, 1)] ++ mask f
  | .mmat _ f => [(a, (mmatImg f a).bytes, 1)] ++ mask f
  | .mdrn _ f =>
    [(a, (tileImg (xTy f) a).bytes, 1)] ++ (if f.xf 12 1 == 1 then [(b, (tileImg (xTy2 f) b).bytes, 2)] else [])
  | .mxpose _ f => [(a, (tileImg (xTy f) a).bytes, 1), (b, (tileImg (xTy2 f) b).bytes, 2)]
  | .mqef _ f => [(a, (tileImg (xTy f) a).bytes, 1), (b, 32768, 2)]
  | .mstsh _ f => [(a, 64 * f.xf 6 14, 1)]
  | .mldsh _ _ => [(a, 0, 1)]
  | .mrda _ f | .mwra _ f => [(a, 512 * (f.xf 7 7 + 1), 1)]
  | _ => []

def Tag.isRaw (t : Tag) : Bool := match t with | .raw _ | .zero => true | _ => false

/-- Table 10.8, R250: the tags an MMA or MMAT finds. -/
def mmaTagsOk (m : Marrow) (f : Fields) : Bool :=
  let ts := (mmaMacros f).map m.tag
  let sp := xTy f == .bf16
  let half := ts.length / 2
  if mmaQuad f && !mmaCl f then
    if sp then ts == (List.range 7).map (fun c => Tag.rcHi (c + 1)) ++ (List.range 7).map (fun c => Tag.rcLo (c + 1))
    else
      let w := (ts.getD 0 .zero).w
      ts == (List.range 7).map fun c => Tag.rc (c + 1) w
  else if sp then
    ((ts.take half).all fun t => t == .hi || t == .zero) && (ts.drop half).all fun t => t == .lo || t == .zero
  else ts.all Tag.isRaw

/-- The window's size for a team. -/
def State.outOf (s : State) (a n : Nat) : Bool := decide ((s.window s.ownIndex).2.2 < a + n)

/-- Table 10.6, checks 1 to 3: the cause, operand and address. -/
def State.mxCheck (s : State) (i : Instr) (k t sa sb : Nat) : Option (Nat × Nat × Nat) :=
  let rs := mxRanges i sa sb
  match rs.find? fun r => r.2.2 != 4 && r.1 % 64 != 0 with
  | some r => some (0x24, r.2.2, r.1)
  | none =>
    match rs.find? fun r => r.2.1 != 0 && s.outOf r.1 r.2.1 with
    | some r => some (0x26, r.2.2, r.1)
    | none =>
      match i with
      | .mma _ f | .mmat _ f => if mmaTagsOk (s.core k).marrow f then none else some (0x32, 0, 0)
      | _ => none

/-! ### Acceptance (R233, R236) -/

/-- Member groups of a team on a core that have not retired (R38). -/
def State.membersOn (s : State) (k t : Nat) : List Nat :=
  (s.groups.filter fun p => p.2.core == k && p.2.team == t && !p.2.retired && s.member p.2).map Prod.fst

/-- Accepted operations of a core that are not finished (R233, R276, log entry 42). -/
def State.pendOn (s : State) (k : Nat) : Nat := s.inFlight fun o => o.core == k && isMatrix o.instr

/-- R266: the mask, read at acceptance; none when a word of it is in error. -/
def State.mxMask (s : State) (f : Fields) (k t : Nat) : Option Nat :=
  let tm := s.teamOf t
  let p := Place.scr k (tm.sbase.getD (tm.cores.idxOf k) 0 + mmaMaddr f)
  let n := if mmaByBlock f then 2 else 16
  if s.placeLost p n then none else some (s.placeLoad p n)

/-- The mask words' corrected errors (07 R187). -/
def State.repairMask (s : State) (f : Fields) (k t : Nat) : State :=
  let tm := s.teamOf t
  s.repairPlace (.scr k (tm.sbase.getD (tm.cores.idxOf k) 0 + mmaMaddr f)) (if mmaByBlock f then 2 else 16)

/-- Whether a refused sector leaves a macro's block as it was (R263). -/
def keeps (old : Tag) (w : Nat) : Bool :=
  match old with
  | .raw v => v == w
  | .hi | .lo => w == 8
  | _ => false

/-- An operation enters the engine for its members: counters, tokens (R236 step 4, R257). -/
def State.mxEnter (s : State) (o : Op) : State :=
  List.foldl (fun (s : State) (m : Nat × Nat) =>
    (s.modShared m.1 fun sh => sh.setCount o.cls (sh.count o.cls + 1)).modGroup m.1 fun gr =>
      if m.2 < 64 then { gr with pending := gr.pending ++ [m.2] } else gr)
    { s with seq := s.seq + 1, ops := Tab.set s.ops s.seq o } o.members

/-- A collective operation is accepted (R236 step 4). Its tags are fixed now; what they were is kept, as
what the operation reads (R228) or finds for refused sectors (R263). -/
def State.acceptCollective (s : State) (i : Instr) (f : Fields) (k t sa sb : Nat) (ms : List Nat) : State :=
  let mr := (s.core k).marrow
  let masked := match i with | .mma _ _ | .mmat _ _ => mmaMasked f | _ => false
  let mask := if masked then s.mxMask f k t else some 0
  let s := if masked then s.repairMask f k t else s
  let tags := match i with | .mldb _ _ => mldbTags f | _ => []
  let o : Op :=
    { instr := i, gid := ms.headD 0, core := k, ctx := (s.teamOf t).ctx, team := t, tok := mxTok f, cls := 3
      args := [sa, sb, mask.getD 0], tags := mr.tags, rest := [0], status := if mask.isNone then 8 else 0
      members := ms.map fun m => (m, mxTok f)
      after := (s.ops.filter fun p => p.2.core == k && mxConflict i p.2.instr).map Prod.fst }
  (s.modCore k fun c =>
    { c with marrow := { c.marrow with
      seq := c.marrow.seq + 1, tags := List.foldl (fun (ts : Tab Tag) p => Tab.set ts p.1 p.2) c.marrow.tags tags } }).mxEnter o

/-- Scalars a collective word reads: what R236 compares beside the word. -/
def State.mxScalars (s : State) (i : Instr) (g : Nat) : List Nat :=
  match collectiveOf i with
  | some (_, f) => ((i.row (s.group g).width).reads f).map fun n => (s.group g).scal n
  | none => []

/-- R235: every lane holds a fibre, all of them are in the issued entry, and the guard holds in each. -/
def State.allActive (s : State) (g : Guard) : Bool :=
  let i := s.iss
  let gr := s.group i.gid
  i.entry.length == i.width && gr.lanes.length == i.width && (gr.lanes.all fun ln => ln.live) &&
    (s.active g).length == i.width

/-- A collective instruction (R235, R236): the group waits, or completes the match as its last member. -/
def collectiveExec (i : Instr) (g : Guard) (f : Fields) (s : State) : Res :=
  issued s fun iss =>
    let me := iss.gid
    let k := iss.core
    if iss.stream then s
    else if !(s.granted i && s.owns i) then s.raise 0x14
    else if !s.allActive g then s.raise 0x30
    else if (s.sharedOf me).count 3 == 255 then s.stall
    else if (s.core k).marrow.missing then s.raise 0x31
    else
      let ms := s.membersOn k iss.team
      let others := ms.filter fun m => m != me
      let sig := s.mxScalars i me
      let waits := others.map fun m =>
        match (s.group m).parked with
        | some { wait := .collective j sig', .. } => some (j, sig')
        | _ => none
      if waits.any Option.isNone then s.park (iss.entry.headD 0) (.collective i sig)
      else if waits.any fun w => w != some (i, sig) then
        (others.foldl (fun (s : State) m => s.stopParked m 0x31) s).raise 0x31
      else
        let l := iss.entry.headD 0
        let sa := s.sreg l (f.a.toNat % 64)
        let sb := s.sreg l (f.b.toNat % 64)
        match s.mxCheck i k iss.team sa sb with
        | some (c, sub, ea) => (others.foldl (fun (s : State) m => s.stopParked m c sub ea) s).raise c sub ea
        | none =>
          if 16 ≤ s.pendOn k then s.park l (.collective i sig)
          else others.foldl State.resume (s.acceptCollective i f k iss.team sa sb ms)

/-- R233: a collective that waited for room is accepted once an operation has finished, unless its groups are frozen (11
R299). -/
def State.acceptWaiting (s : State) (k t : Nat) : State :=
  let ms := s.membersOn k t
  match ms with
  | [] => s
  | m :: _ =>
    match (s.group m).parked with
    | some { wait := .collective i sig, .. } =>
      let all := ms.all fun h =>
        match (s.group h).parked with
        | some { wait := .collective j sig', .. } => j == i && sig' == sig
        | _ => false
      match collectiveOf i with
      | some (_, f) =>
        if all && decide (s.pendOn k < 16) && !(s.core k).marrow.missing && !s.frozen k then
          ms.foldl State.resume
            (s.acceptCollective i f k t ((s.group m).scal (f.a.toNat % 64)) ((s.group m).scal (f.b.toNat % 64)) ms)
        else s
      | none => s
    | _ => s

/-- Collectives that groups which are frozen no longer waited for (11 R299). -/
def State.acceptThawed (s : State) : State :=
  s.groups.foldl (fun (s : State) (p : Nat × Group) =>
    match p.2.parked with
    | some { wait := .collective _ _, .. } => s.acceptWaiting p.2.core p.2.team
    | _ => s) s

/-- MZRO (R262). -/
def execMzro (g : Guard) (f : Fields) (s : State) : Res := collectiveExec (.mzro g f) g f s
/-- MLDB (R263). -/
def execMldb (g : Guard) (f : Fields) (s : State) : Res := collectiveExec (.mldb g f) g f s
/-- MMA (R264-R266). -/
def execMma (g : Guard) (f : Fields) (s : State) : Res := collectiveExec (.mma g f) g f s
/-- MMAT (R267). -/
def execMmat (g : Guard) (f : Fields) (s : State) : Res := collectiveExec (.mmat g f) g f s
/-- MDRN (R268). -/
def execMdrn (g : Guard) (f : Fields) (s : State) : Res := collectiveExec (.mdrn g f) g f s
/-- MQEF (R269). -/
def execMqef (g : Guard) (f : Fields) (s : State) : Res := collectiveExec (.mqef g f) g f s
/-- MRDA (R274). -/
def execMrda (g : Guard) (f : Fields) (s : State) : Res := collectiveExec (.mrda g f) g f s
/-- MWRA (R274). -/
def execMwra (g : Guard) (f : Fields) (s : State) : Res := collectiveExec (.mwra g f) g f s
/-- MADDT (R275). -/
def execMaddt (g : Guard) (f : Fields) (s : State) : Res := collectiveExec (.maddt g f) g f s
/-- MSCL (R275). -/
def execMscl (g : Guard) (f : Fields) (s : State) : Res := collectiveExec (.mscl g f) g f s

/-! ### Single instructions (R257, R270-R273, R276) -/

/-- One execution of a single instruction that runs as an operation, under the guard of R32: its checks, then `k` decides
on the group, the scalars A and B. It stalls while 16 operations are unfinished (R233, log entry 42). -/
def singleExec (i : Instr) (g : Guard) (f : Fields) (cls : Nat) (k : State → Nat → Nat → Nat → State) (s : State) : Res :=
  issued s fun iss =>
    if iss.stream || (s.scalarUnits g).isEmpty then s
    else
      let me := iss.gid
      if s.engineBusy me cls (16 ≤ s.pendOn iss.core) then s.stall
      else
        let l := iss.entry.headD 0
        let sa := s.sreg l (f.a.toNat % 64)
        let sb := s.sreg l (f.b.toNat % 64)
        match s.mxCheck i iss.core iss.team sa sb with
        | some (c, sub, ea) => s.raise c sub ea
        | none => k s me sa sb

/-- An operation of a single instruction. -/
def State.singleOp (s : State) (i : Instr) (f : Fields) (me cls : Nat) (args after : List Nat) : Op :=
  { instr := i, gid := me, core := s.iss.core, ctx := (s.teamOf s.iss.team).ctx, team := s.iss.team, tok := mxTok f
    cls := cls, args := args, rest := [0], members := [(me, mxTok f)]
    after := after }

/-- MXPOSE (R270). -/
def execMxpose (g : Guard) (f : Fields) (s : State) : Res :=
  singleExec (.mxpose g f) g f 3 (fun s me sa sb => s.mxEnter (s.singleOp (.mxpose g f) f me 3 [sa, sb, 0] [])) s

/-- R271: the end of the highest live entry. -/
def Marrow.top (m : Marrow) : Nat := m.stash.foldl (fun t p => max t (p.2.base + p.2.size)) 0

/-- Stash copies of a core that are not finished: they keep their order (R271). -/
def State.stashOps (s : State) (k : Nat) : List Nat :=
  (s.ops.filter fun p => p.2.core == k && (match p.2.instr with | .mstsh _ _ | .mldsh _ _ => true | _ => false)).map Prod.fst

def State.modMarrow (s : State) (k : Nat) (f : Marrow → Marrow) : State :=
  s.modCore k fun c => { c with marrow := f c.marrow }

/-- MSTSH (R272): decided at acceptance; a refused put completes at once. -/
def execMstsh (g : Guard) (f : Fields) (s : State) : Res :=
  singleExec (.mstsh g f) g f 1 (fun s me sa _ =>
    let k := s.iss.core
    let m := (s.core k).marrow
    let id := f.xf 0 6
    let n := 64 * f.xf 6 14
    let top := m.top
    if (Tab.get? m.stash id).isSome then s.writeToken me (mxTok f) 1 1 0 false 0xFFFF (m.stashSize - top)
    else if m.stashSize < top + n then s.writeToken me (mxTok f) 1 1 0 false 0 (m.stashSize - top)
    else
      let o := s.singleOp (.mstsh g f) f me 1 [sa, top, n] (s.stashOps k)
      (s.modMarrow k fun m => { m with stash := Tab.set m.stash id { base := top, size := n } }).mxEnter
        { o with detail := f.xf 6 14, info := m.stashSize - (top + n) }) s

/-- MLDSH (R273, Table 10.6 check 4). -/
def execMldsh (g : Guard) (f : Fields) (s : State) : Res :=
  singleExec (.mldsh g f) g f 0 (fun s me sa _ =>
    let k := s.iss.core
    let m := (s.core k).marrow
    let id := f.xf 0 6
    match Tab.get? m.stash id with
    | none => s.writeToken me (mxTok f) 0 3 0 false 0 (m.stashSize - m.top)
    | some e =>
      if s.outOf (sa % 2 ^ 32) e.size then s.raise 0x26 1 (sa % 2 ^ 32)
      else
        let m' := if f.xf 6 1 == 1 then { m with stash := Tab.erase m.stash id } else m
        let o := s.singleOp (.mldsh g f) f me 0 [sa, e.base, e.size] (s.stashOps k)
        (s.modMarrow k fun _ => m').mxEnter { o with detail := e.size / 64, info := m.stashSize - m'.top }) s

/-- MSEQ (R276). -/
def execMseq (g : Guard) (f : Fields) (s : State) : Res :=
  issued s fun iss =>
    if iss.stream || (s.scalarUnits g).isEmpty then s
    else
      let v := (s.core iss.core).marrow.seq.toNat + 2 ^ 32 * min (s.pendOn iss.core) 16
      s.setS (iss.entry.headD 0) (f.d.toNat % 64) v

/-! ### What an operation reads (R229, R238) -/

/-- The rows an MMA leaves out (R266). -/
def rowIn (f : Fields) (mask i : Nat) : Bool := !(mmaMasked f && !mmaByBlock f) || bitOf mask i

/-- The macros whose blocks a product uses: none that the block mask leaves out (R266). -/
def macrosOn (f : Fields) (mask : Nat) : List Nat :=
  if mmaMasked f && mmaByBlock f then (mmaMacros f).filter fun b => bitOf mask ((b - mxMacro f) % mmaG f) else mmaMacros f

/-- Engine cells read: unit, first key, count. -/
def mxReads (i : Instr) (mask : Nat) : List (Nat × Nat × Nat) :=
  let tile := fun (t : Nat) => (2, 16384 * t, 16384)
  let prod := fun (f : Fields) (ts : List Nat) =>
    ((macrosOn f mask).flatMap fun b => [(3, 16384 * b, 16384), (4, 256 * b, 256)]) ++
      ts.flatMap fun t => ((List.range 128).filter fun r => rowIn f mask r).map fun r => (2, 16384 * t + 128 * r, 128)
  match i with
  | .mma _ f => prod f (mmaTiles f)
  | .mmat _ f => prod f [f.d.toNat % 8]
  | .mdrn _ f | .mqef _ f => [tile (f.d.toNat % 8)]
  | .mrda _ f => [(2, 16384 * (f.d.toNat % 8) + 128 * f.xf 0 7, 128 * (f.xf 7 7 + 1))]
  | .maddt _ f => [tile (f.a.toNat % 8), tile (f.b.toNat % 8)]
  | .mscl _ f => [tile (f.a.toNat % 8)]
  | _ => []

/-- Window bytes read: address and count. -/
def mxLoads (i : Instr) (sa sb n : Nat) : List (Nat × Nat) :=
  let a := sa % 2 ^ 32
  let b := sb % 2 ^ 32
  match i with
  | .mldb _ f => [(a, (mldbImg f a).bytes)]
  | .mma _ f => [(a, (mmaImg f a).bytes)]
  | .mmat _ f => [(a, (mmatImg f a).bytes)]
  | .mxpose _ f => [(b, (tileImg (xTy2 f) b).bytes)]
  | .mqef _ _ => [(b, 32768)]
  | .mwra _ f => [(a, 512 * (f.xf 7 7 + 1))]
  | .mstsh _ _ => [(a, n)]
  | _ => []

/-- The first byte of a team's stash on a core: the last bytes of its run outside the window (log entry 8). -/
def State.stashAt (s : State) (o : Op) : Nat :=
  let tm := s.teamOf o.team
  let tc := tm.cores.idxOf o.core
  let r := tm.srun.getD tc (0, 0)
  (if tm.sbase.getD tc 0 == r.1 then r.1 + r.2 else tm.sbase.getD tc 0) - (s.core o.core).marrow.stashSize

/-- Scratchpad words an operation reads, the stash's among them (R185, R187, R260). -/
def State.mxPlaces (s : State) (o : Op) : List (Place × Nat) :=
  match o.instr with
  | .mldsh _ _ => [(.scr o.core (s.stashAt o + o.args.getD 1 0), o.args.getD 2 0)]
  | i => (mxLoads i (o.args.getD 0 0) (o.args.getD 1 0) (o.args.getD 2 0)).map fun p => (s.opScr o p.1, p.2)

/-! ### Products (R240, R243, R247, R265) -/

/-- An operand row as blocks: by part, by K tile. -/
abbrev ARow := List (List (List Blk))
/-- An operand column: by part, by K tile, with its mantissa width. -/
abbrev BCol := List (List (Nat × List Blk))

/-- R243: the passes: part of A, part of B. -/
def passes (split : Bool) : List (Nat × Nat) := if split then [(0, 0), (0, 1), (1, 0)] else [(0, 0)]

/-- R240: one element over its K tiles in ascending order, pass by pass. -/
def classicalElem (split : Bool) (wA acc : Nat) (a : ARow) (b : BCol) : Nat × Flags :=
  List.foldl (fun (x : Nat × Flags) (p : Nat × Nat) =>
    List.foldl (fun (x : Nat × Flags) (q : List Blk × (Nat × List Blk)) =>
      accBlocks wA q.2.1 x (pairBlks q.1 q.2.2)) x ((a.getD p.1 []).zip (b.getD p.2 []))) (acc, 0) (passes split)

/-- R247: the four elements of the C sub-tiles at one place, over one pass: `as` and `bs` are the pre-added operands of
products 1 to 7. -/
def recombinedElems (wA wB : Nat) (cs : List (Nat × Flags)) (as bs : List (List Blk)) : List (Nat × Flags) :=
  let ms := (as.zip bs).map fun p => accBlocks wA wB (0, 0) (pairBlks p.1 p.2)
  let fl := List.foldl (fun f (m : Nat × Flags) => f ||| m.2) (0 : Flags) ms
  ((List.range 4).zip cs).map fun c =>
    let r := List.foldl (fun x (p : Nat × Bool) => postAdd x p.2 (ms.getD (p.1 - 1) (0, 0)).1) c.2 (rcPosts c.1)
    (r.1, r.2 ||| fl)

/-- The blocks of one row by K tile, for a part: `n` blocks each. -/
def byTile (n : Nat) (bs : List Blk) : List (List Blk) :=
  (List.range (bs.length / n)).map fun t => (bs.drop (n * t)).take n

/-- An image row of MMA as blocks, with its flags. -/
def State.mmaRow (s : State) (o : Op) (m : Img) (r : Nat) : ARow × Flags :=
  let rs := s.operandRow o m r
  let n := 128 / (if tyBx m.t then kbOf (tyWidth m.t) else 64)
  let part := fun p => byTile n (rs.map fun b => b.parts.getD p default)
  ((if m.t == .bf16 then [part 0, part 1] else [part 0]), List.foldl (fun f b => f ||| b.fl) 0 rs)

/-- A column of the macros named, in K order, masked-out ones as zero blocks (R266). -/
def Marrow.colOf (m : Marrow) (ms : List (Nat × Bool)) (j : Nat) : List (Nat × List Blk) :=
  ms.map fun b =>
    let t := m.tag b.1
    let bs := m.column b.1 t j
    (t.w, if b.2 then bs else bs.map fun x => { x with s := 0 })

/-- A tile after a classical product, with the flags: rows left out stay. -/
def classicalTile (f : Fields) (mask wA : Nat) (split : Bool) (old : List (List Nat)) (rows : List (ARow × Flags))
    (cols : List BCol) : List (List Nat) × Flags :=
  let rs := ((List.range 128).zip (old.zip rows)).map fun p =>
    if rowIn f mask p.1 then
      let es := (p.2.1.zip cols).map fun e => classicalElem split wA e.1 p.2.2.1 e.2
      (es.map Prod.fst, List.foldl (fun fl e => fl ||| e.2) p.2.2.2 es)
    else (p.2.1, 0)
  (rs.map Prod.fst, List.foldl (fun fl r => fl ||| r.2) 0 rs)

/-- The macro of quad sub-tile B(x+1)(y+1): BX2 content stands in the order B11, B21, B12, B22 (Table 9.3). -/
def quadMacro (m : Marrow) (b x y : Nat) : Nat :=
  if (List.range 4).any fun k => m.tag (b + k) == .raw 2 then b + 2 * y + x else b + 2 * x + y

/-- The engine as an operation reads it: under the tags left by the operations accepted before it (R228). -/
def State.engineOf (s : State) (o : Op) : Marrow := { (s.core o.core).marrow with tags := o.tags }

/-- The rows of a tile are written. -/
def State.putRowsOf (s : State) (k t : Nat) (rows : List (List Nat)) : State := s.modMarrow k fun m => m.putTile t rows

/-- A product's rows are written, but for those its mask leaves out (R266). -/
def State.putMasked (s : State) (k t : Nat) (f : Fields) (mask : Nat) (rows : List (List Nat)) : State :=
  s.modMarrow k fun m =>
    (((List.range rows.length).zip rows).filter fun p => rowIn f mask p.1).foldl (fun m p => m.putTileRow t p.1 p.2) m

/-- MMA (R265): the tiles after the product, and the operation's flags. -/
def State.mmaResult (s : State) (o : Op) (f : Fields) (mask : Nat) : List (Nat × List (List Nat)) × Flags :=
  let m := s.engineOf o
  let t := xTy f
  let img := mmaImg f (o.args.getD 0 0 % 2 ^ 32)
  let split := t == .bf16
  let wA := if tyBx t then tyWidth t else 8
  let b := mxMacro f
  let d := f.d.toNat % 8
  let parts := if split then [0, 1] else [0]
  if !mmaQuad f then
    let g := mmaG f
    let on := fun k => !(mmaMasked f && mmaByBlock f) || bitOf mask k
    let rows := (List.range 128).map fun i => s.mmaRow o img i
    let cols := (List.range 128).map fun j =>
      parts.map fun p => m.colOf ((List.range g).map fun k => (b + g * p + k, on k)) j
    let r := classicalTile f mask wA split (m.tile d) rows cols
    ([(d, r.1)], r.2)
  else if mmaCl f then
    let rows := fun x => (List.range 128).map fun i => s.mmaRow o img (128 * x + i)
    let cols := fun y => (List.range 128).map fun j =>
      parts.map fun p => m.colOf ((List.range 2).map fun x => (quadMacro m (b + 4 * p) x y, true)) j
    let rs := (List.range 4).map fun q =>
      (d + q, classicalTile f mask wA split (m.tile (d + q)) (rows (q / 2)) (cols (q % 2)))
    (rs.map fun r => (r.1, r.2.1), List.foldl (fun fl r => fl ||| r.2.2) 0 rs)
  else
    let wB := (m.tag b).w
    let rows := (List.range 256).map fun i => s.mmaRow o img i
    let fl0 := List.foldl (fun fl (r : ARow × Flags) => fl ||| r.2) (0 : Flags) rows
    let sub := fun (p i q : Nat) => (((rows.getD (128 * (q / 2) + i) ([], 0)).1).getD p []).getD (q % 2) []
    let pre := fun (p i : Nat) => (List.range 7).map fun c => preAddOf (rcA (c + 1)) ((List.range 4).map (sub p i))
    let as := parts.map fun p => (List.range 128).map (pre p)
    let flA := List.foldl (fun fl (x : List (List (List Blk × Flags))) =>
      List.foldl (fun fl y => List.foldl (fun fl (z : List Blk × Flags) => fl ||| z.2) fl y) fl x) fl0 as
    let bs := parts.map fun p => (List.range 128).map fun j =>
      (List.range 7).map fun c => m.column (b + 8 * p + c) (m.tag (b + 8 * p + c)) j
    let olds := (List.range 4).map fun q => m.tile (d + q)
    let elems := (List.range 128).map fun i => (List.range 128).map fun j =>
      let cs := (List.range 4).map fun q => (((olds.getD q []).getD i []).getD j 0, (0 : Flags))
      List.foldl (fun cs (p : Nat × Nat) =>
        recombinedElems wA wB cs ((((as.getD p.1 []).getD i [])).map Prod.fst) ((bs.getD p.2 []).getD j [])) cs (passes split)
    let fl := List.foldl (fun fl r => List.foldl (fun fl e => List.foldl (fun fl (c : Nat × Flags) => fl ||| c.2) fl e) fl r) flA elems
    ((List.range 4).map fun q => (d + q, elems.map fun r => r.map fun e => (e.getD q (0, 0)).1), fl)

/-- MMAT (R267): the tile, flags, and whether every block was exact. -/
def State.mmatResult (s : State) (o : Op) (f : Fields) (mask : Nat) : List (List Nat) × Flags × Bool :=
  let m := s.engineOf o
  let t := xTy f
  let img := mmatImg f (o.args.getD 0 0 % 2 ^ 32)
  let w := if tyBx t then tyWidth t else 8
  let kb := kbOf w
  let g := mmaG f
  let b := mxMacro f
  let tiles := (List.range g).map fun k =>
    transposeRows 128 ((List.range 128).map fun r => (s.imgRow o img (128 * k + r)).map fun x => x.getD (numZero false))
  let enc := fun (xs : List Num) =>
    let r := bxEncode w (!tyBx t) xs
    (({ s := r.1, ms := r.2.1 } : Blk), r.2.2, (xs.zip r.2.1).all fun p => sameNum p.1 (bxVal w r.1 p.2))
  let rows := (List.range 128).map fun i =>
    tiles.map fun x => (List.range (128 / kb)).map fun q => enc (((x.getD i []).drop (kb * q)).take kb)
  let arows := rows.map fun r =>
    (([r.map fun k => k.map fun e => e.1] : ARow),
      List.foldl (fun fl k => List.foldl (fun fl (e : Blk × Flags × Bool) => fl ||| e.2.1) fl k) (0 : Flags) r)
  let on := fun k => !(mmaMasked f && mmaByBlock f) || bitOf mask k
  let cols := (List.range 128).map fun j => [m.colOf ((List.range g).map fun k => (b + k, on k)) j]
  let r := classicalTile f mask w false (m.tile (f.d.toNat % 8)) arows cols
  (r.1, r.2, rows.all fun r => r.all fun k => k.all fun e => e.2.2)

/-! ### MLDB (R263) -/

/-- A plain load: the engine after it, and its flags. A BX2 row fills one block in each of two macros. -/
def State.mldbPlain (s : State) (o : Op) (f : Fields) (img : Img) : Marrow × Flags :=
  let m := (s.core o.core).marrow
  let t := xTy f
  let b := mxMacro f
  let g := mldbG f
  let kb := if tyBx t then kbOf (tyWidth t) else 64
  let keep := fun (k : Nat) => keeps (Tab.getD o.tags (b + k) .zero) (if tyBx t then tyWidth t else 8)
  List.foldl (fun (a : Marrow × Flags) r =>
    let bl := s.operandRow o img r
    let j := r % 128
    List.foldl (fun (a : Marrow × Flags) (p : Nat × RowBlk) =>
      let put := fun (m : Marrow) (k q part : Nat) =>
        m.putBlk (b + k) j q kb (keep k) (if p.2.refused then none else some (p.2.parts.getD part default))
      let m := if t == .bx2 then put a.1 (2 * (r / 128) + p.1) 0 0
        else
          let m := put a.1 (r / 128) p.1 0
          if t == .bf16 then put m (g + r / 128) p.1 1 else m
      (m, a.2 ||| p.2.fl)) a ((List.range bl.length).zip bl)) (m, 0) (List.range img.rows)

/-- A pre-added load (R245, R246). -/
def State.mldbPre (s : State) (o : Op) (f : Fields) (img : Img) : Marrow × Flags :=
  let m := (s.core o.core).marrow
  let t := xTy f
  let b := mxMacro f
  let kb := if tyBx t then kbOf (tyWidth t) else 64
  let blk := fun (part : Nat) (x : RowBlk) =>
    let y := x.parts.getD part default
    if x.refused then { y with s := 0, ms := y.ms.map fun _ => 0 } else y
  let sub := fun (part j q : Nat) =>
    if t == .bx2 then
      (s.operandRow o img (128 * (q % 2) + j)).map (blk part) |>.drop (q / 2) |>.take 1
    else (s.operandRow o img (128 * q + j)).map (blk part)
  let fl0 := List.foldl (fun fl r => List.foldl (fun fl (x : RowBlk) => fl ||| x.fl) fl (s.operandRow o img r)) (0 : Flags)
    (List.range img.rows)
  let parts := if t == .bf16 then [0, 1] else [0]
  List.foldl (fun (a : Marrow × Flags) j =>
    List.foldl (fun (a : Marrow × Flags) part =>
      let subs := (List.range 4).map (sub part j)
      List.foldl (fun (a : Marrow × Flags) c =>
        let r := preAddOf (rcB (c + 1)) subs
        let m := List.foldl (fun (m : Marrow) (p : Nat × Blk) => m.putBlk (b + 8 * part + c) j p.1 kb false (some p.2)) a.1
          ((List.range r.1.length).zip r.1)
        (m, a.2 ||| r.2)) a (List.range 7)) a parts) (m, fl0) (List.range 128)

/-! ### Elementwise work (R269, R275) -/

/-- MQEF's row: the image row, the new residuals as bytes, and flags. -/
def State.mqefRow (s : State) (o : Op) (f : Fields) (row : List Nat) (i : Nat) : RowOut × Nat × Flags :=
  let t := xTy f
  let ea := o.args.getD 1 0 % 2 ^ 32 + 256 * i
  let olds := (List.range 128).map fun j => s.placeLoad (s.opScr o (ea + 2 * j)) 2
  let xs := (row.zip olds).map fun p =>
    if f.xf 6 1 == 1 then
      let x := floatVal .f32 p.1
      let y := floatVal .bf16 p.2
      floatExpr .f32 [x, y] (numAdd x y)
    else (p.1, 0)
  let vs := xs.map fun x => floatVal .f32 x.1
  let out := encodeRow t false vs
  let got := fun (j : Nat) =>
    if tyBx t then bxElem t (bitsOf out.bytes (512 * (j / 64)) 512) (out.arr.getD (j / 64) 0 / 256) (j % 64)
    else floatVal t (bitsOf out.bytes (8 * j) 8)
  let es := ((List.range 128).zip (vs.zip olds)).map fun p =>
    let y := got p.1
    if y.isNan || y.isInf then (p.2.2, 0) else roundFloat .bf16 (numSub p.2.1 y).1
  (out, ofLeBytes (es.flatMap fun e => leBytes e.1 2),
    List.foldl (fun fl e => fl ||| e.2) (List.foldl (fun fl x => fl ||| x.2) out.fl xs) es)

/-- An elementwise tile operation. -/
def tileMap (op : Nat → Nat → Nat × Flags) (a b : List (List Nat)) : List (List Nat) × Flags :=
  let rs := (a.zip b).map fun r => (r.1.zip r.2).map fun e => op e.1 e.2
  (rs.map fun r => r.map Prod.fst, List.foldl (fun fl r => List.foldl (fun fl e => fl ||| e.2) fl r) 0 rs)

def zeroTile : List (List Nat) := List.replicate 128 (List.replicate 128 0)

/-! ### Completion (R238) -/

/-- An image is written from rows of values, and its flags and exactness counted. -/
def State.putImage (s : State) (o : Op) (img : Img) (imx : Bool) (rows : List (List Num)) : State × Flags × Bool :=
  let outs := rows.map (encodeRow img.t imx)
  (s.putRows o img outs, List.foldl (fun fl r => fl ||| r.fl) 0 outs, outs.all fun r => r.exact)

/-- What an operation does, all its reads being whole: the state, its flags, and EXACT. -/
def State.mxEffect (s : State) (o : Op) : State × Flags × Bool :=
  let a := o.args.getD 0 0 % 2 ^ 32
  let b := o.args.getD 1 0 % 2 ^ 32
  let k := o.core
  let m := (s.core k).marrow
  match o.instr with
  | .mzro _ f =>
    ((List.range (f.xf 0 3 + 1)).foldl (fun (s : State) t => s.putRowsOf k (f.d.toNat % 8 + t) zeroTile) s, 0, false)
  | .mldb _ f =>
    let img := mldbImg f a
    let r := if mldbRc f then s.mldbPre o f img else s.mldbPlain o f img
    (s.modMarrow k fun _ => r.1, r.2, false)
  | .mma _ f =>
    let r := s.mmaResult o f (o.args.getD 2 0)
    (r.1.foldl (fun (s : State) t => s.putMasked k t.1 f (o.args.getD 2 0) t.2) s, r.2, false)
  | .mmat _ f =>
    let r := s.mmatResult o f (o.args.getD 2 0)
    (s.putMasked k (f.d.toNat % 8) f (o.args.getD 2 0) r.1, r.2.1, r.2.2)
  | .mdrn _ f =>
    let d := f.d.toNat % 8
    let ys := (m.tile d).map fun r => r.map (floatVal .f32)
    let (s, fl, _) := s.putImage o (tileImg (xTy f) a) false ys
    let tr := f.xf 12 1 == 1
    let (s, fl2, ex) := if tr then s.putImage o (tileImg (xTy2 f) b) false (transposeRows 128 ys) else (s, 0, false)
    (if f.xf 13 1 == 1 then s.putRowsOf k d zeroTile else s, fl ||| fl2, tr && ex)
  | .mxpose _ f =>
    let src := tileImg (xTy2 f) b
    let t2 := xTy2 f
    let rows := (List.range 128).map fun r => (s.imgRow o src r).map fun x => x.getD (numZero false)
    s.putImage o (tileImg (xTy f) a) (t2 == .e4m3 || t2 == .e5m2 || tyMx t2) (transposeRows 128 rows)
  | .mqef _ f =>
    let d := f.d.toNat % 8
    let img := tileImg (xTy f) a
    let rs := ((List.range 128).zip (m.tile d)).map fun p => s.mqefRow o f p.2 p.1
    let s := s.putRows o img (rs.map fun r => r.1)
    let s := ((List.range 128).zip rs).foldl (fun (s : State) p => s.storeScr k (s.opBase o + b + 256 * p.1) p.2.2.1 256) s
    (if f.xf 7 1 == 1 then s.putRowsOf k d zeroTile else s, List.foldl (fun fl r => fl ||| r.2.2) 0 rs, false)
  | .mrda _ f =>
    ((List.range (f.xf 7 7 + 1)).foldl (fun (s : State) r =>
      s.storeScr k (s.opBase o + a + 512 * r)
        (ofLeBytes ((m.tileRow (f.d.toNat % 8) (f.xf 0 7 + r)).flatMap fun v => leBytes v 4)) 512) s, 0, false)
  | .mwra _ f =>
    ((List.range (f.xf 7 7 + 1)).foldl (fun (s : State) r =>
      let row := (List.range 128).map fun j => s.placeLoad (s.opScr o (a + 512 * r + 4 * j)) 4
      s.modMarrow k fun m => m.putTileRow (f.d.toNat % 8) (f.xf 0 7 + r) row) s, 0, false)
  | .maddt _ f =>
    let op := fun (x y : Nat) =>
      let p := floatVal .f32 x
      let q := floatVal .f32 y
      floatExpr .f32 [p, q] (if f.xf 0 1 == 1 then numSub p q else numAdd p q)
    let r := tileMap op (m.tile (f.a.toNat % 8)) (m.tile (f.b.toNat % 8))
    (s.putRowsOf k (f.d.toNat % 8) r.1, r.2, false)
  | .mscl _ f =>
    let q := floatVal .f32 b
    let op := fun (x _ : Nat) => floatExpr .f32 [floatVal .f32 x, q] (numMul (floatVal .f32 x) q)
    let r := tileMap op (m.tile (f.a.toNat % 8)) (m.tile (f.a.toNat % 8))
    (s.putRowsOf k (f.d.toNat % 8) r.1, r.2, false)
  | .mstsh _ _ =>
    let n := o.args.getD 2 0
    let v := s.placeLoad (s.opScr o a) n
    ((s.modMarrow k fun m => { m with stashMem := cellStore m.stashMem (o.args.getD 1 0) v n }).mendWords k
      (s.stashAt o + o.args.getD 1 0) n, 0, false)
  | .mldsh _ _ =>
    let n := o.args.getD 2 0
    (s.storeScr k (s.opBase o + a) (cellLoad m.stashMem (o.args.getD 1 0) n) n, 0, false)
  | _ => (s, 0, false)

/-- Refused sectors of an operation's source (R260). -/
def State.mxRefused (s : State) (o : Op) : Nat :=
  let a := o.args.getD 0 0 % 2 ^ 32
  let b := o.args.getD 1 0 % 2 ^ 32
  match o.instr with
  | .mldb _ f => s.imgRefused o (mldbImg f a)
  | .mma _ f => s.imgRefused o (mmaImg f a)
  | .mmat _ f => s.imgRefused o (mmatImg f a)
  | .mxpose _ f => s.imgRefused o (tileImg (xTy2 f) b)
  | _ => 0

/-- The operation runs: with an error it cannot correct among what it reads, it ends with status 0x08 and no other
effect (R229, R260). -/
def State.mxPerform (s : State) (id : Nat) (o : Op) : State :=
  let reads := mxReads o.instr (o.args.getD 2 0)
  let loads := s.mxPlaces o
  let bad := o.status == 8 || reads.any ((s.core o.core).marrow.lost o.tags) || loads.any fun p => s.placeLost p.1 p.2
  let s := reads.foldl (fun (s : State) r => s.repairMarrow o.core o.tags r) s
  let s := loads.foldl (fun (s : State) p => s.repairPlace p.1 p.2) s
  let n := s.mxRefused o
  let note := fun (o : Op) => { o with
    rest := [], detail := o.detail + n, status := max o.status (if bad then 8 else if n != 0 then 2 else 0) }
  if bad then s.modOp id note
  else
    let (s, fl, ex) := s.mxEffect o
    s.modOp id fun o => { note o with flags := fl, exact := ex }

/-- R238: the counters fall and the status word goes to every member's token in one step. -/
def State.mxFinish (s : State) (id : Nat) (o : Op) : State :=
  List.foldl (fun (s : State) (m : Nat × Nat) =>
    (s.modShared m.1 fun sh => sh.setCount o.cls (sh.count o.cls - 1)).writeToken m.1 m.2 o.cls o.status o.flags o.exact
      o.detail o.info id) { s with ops := Tab.erase s.ops id } o.members

/-- MATRIX_OPERATION_COMPLETE (R233, R238): of an operation that no earlier one in flight conflicts with. -/
def execMatrixOperationComplete (id : Nat) (s : State) : Res :=
  .next <|
    match s.op id with
    | none => s
    | some o =>
      if !isMatrix o.instr || o.after.any fun j => (s.op j).isSome then s
      else
        let s := s.mxPerform id o
        match s.op id with
        | none => s
        | some o => (s.mxFinish id o).acceptWaiting o.core o.team

end Sys2Proof.Machine
end

