-- ==== Sys2Proof/Machine/Requests.lean ====
section
/-! DEFINITION. Exactly-once requests at their home die, and their responses at their source (19 R455, R456, 20 R475). -/

namespace Sys2Proof.Machine

/-! ### At the home (R456) -/

/-- The status of a VACQ that its cell does not allow yet (16 R403). -/
def retryLater : Nat := 0xFF

/-- Performs what a request is to do, at its home; none while it must wait there. A posted step's response carries a
cause. -/
def State.performJob (s : State) (j : Job) : State × Option Reply :=
  match j with
  | .unit id k =>
    match s.op id with
    | none => (s, some {})
    | some o =>
      match o.instr with
      | .cpa _ _ => s.cpaHome id o
      | .hscat _ _ => s.scatterHome id k o
      | .nmred _ _ => let r := s.redHome o k; (r.1, some r.2)
      | .nmfence _ _ => (s, some { val := s.seq })
      | _ =>
        match s.rowHome id o k with
        | some (s, r) => (s, some r)
        | none => (s, none)
  | .posted g =>
    match (s.group g).parked with
    | some { wait := .posted i va v _, .. } =>
      match s.waitAddr g va (memNeeds i).1 with
      | (s, .error c) => (s, some { status := c })
      | (s, .ok x) =>
        if s.postedBehind g x then (s.enqueuePosted g x, none)
        else
        match (s.serveWait (s.homeOf x.pa) g).memEffect (s.homeOf x.pa) g i x v with
        | (s, .done r t) => (s, some { val := r.getD 0, gwct := t })
        | (s, .waits) =>
          if s.sectorWaits.any fun w => w.1 == .posted g then (s, none)
          else (s.setPlace g none, some { status := retryLater })
        | (s, .cause c) => (s, some { status := c })
    | _ => (s, some {})

/-- TSN `a` is not older than `lo`. -/
def tsnFrom (lo a : Nat) : Bool := decide ((a + 65536 - lo) % 65536 < 32768)

/-- R456: the window starts at the oldest unanswered TSN a request carries; what lies below is discarded. -/
def Filter.advance (f : Filter) (oldest : Nat) : Filter :=
  let lo := if tsnFrom f.lo oldest then oldest else f.lo
  { lo := lo, marks := f.marks.filter fun m => tsnIn lo m.1 }

def State.setFilter (s : State) (x : Msg) (f : Filter) : State :=
  { s with filters := Tab.set s.filters (4 * x.src + x.dst) f }

/-- The request a message belongs to. -/
def State.reqOf (s : State) (x : Msg) : Option (Nat × Req) :=
  s.reqs.find? fun r => r.2.msg.src == x.src && r.2.msg.dst == x.dst && r.2.msg.tsn == x.tsn

/-- EXACTLY_ONCE_REQUEST (R456, R457): a request that has arrived at a die, none of its source and lane before it, is
performed, or answered from the filter. -/
def execExactlyOnceRequest (die index : Nat) (s : State) : Res :=
  .next <|
    let xs := Tab.getD s.atHome die []
    match xs[index]? with
    | none => s
    | some x =>
      if (xs.take index).any fun y => y.src == x.src && y.lane == x.lane then s
      else
        let f := (Tab.getD s.filters (4 * x.src + x.dst) {}).advance x.oldest
        let gone := { s with atHome := Tab.set s.atHome die (xs.eraseIdx index) }.setFilter x f
        if !tsnIn f.lo x.tsn then gone
        else
          match Tab.get? f.marks x.tsn with
          | some r => gone.sendOff die { x with reply := some r }
          | none =>
            match s.reqOf x with
            | none => gone
            | some (_, r) =>
              match s.performJob r.job with
              | (s, none) => s
              | (s, some a) =>
                ({ s with atHome := Tab.set s.atHome die (xs.eraseIdx index) }.setFilter x
                  { f with marks := Tab.set f.marks x.tsn a }).sendOff die { x with reply := some a }

/-! ### At the source (R475) -/

/-- VACQ and VREL have a result, out of the cell's old value (16 R403, R404). -/
def memResult (i : Instr) : Bool := match i with | .vacq _ _ | .vrel _ _ => true | _ => false

/-- What a response does for its request. -/
def State.answerJob (s : State) (j : Job) (r : Reply) : State :=
  match j with
  | .unit id k =>
    s.modOp id fun o =>
      match o.instr with
      | .cpa _ _ => o.cpaTake r
      | .hscat _ _ => o.scatterTake k r
      | .nmred _ _ => o.redTake k r
      | .nmfence _ _ => o.markerTake k r
      | _ => o.rowTake k r
  | .posted g =>
    if r.status == 0 then
      match (s.group g).parked with
      | some { wait := .posted i _ _ dst, .. } => (s.memDone g dst (if memResult i then some r.val else none) r.gwct).resume g
      | _ => s
    else if r.status == retryLater then s
    else s.stopParked g (if r.status == 0x09 then 0x69 else r.status)

/-- RESPONSE_RECEIVE (R475): the first response to a TSN is taken, a later one discarded. -/
def execResponseReceive (source index : Nat) (s : State) : Res :=
  .next <|
    let xs := Tab.getD s.replies source []
    match xs[index]? with
    | none => s
    | some x =>
      let s := { s with replies := Tab.set s.replies source (xs.eraseIdx index) }
      match s.reqOf x with
      | none => s
      | some (n, r) => { s with reqs := Tab.erase s.reqs n }.answerJob r.job (x.reply.getD {})

end Sys2Proof.Machine
end

