-- ==== Sys2Proof/Machine/System.lean ====
section
/-! DEFINITION. SY row 0 (11 R294, R300-R304), the emulation trap and its return (03 R76, R77), the illegal
instruction (03 R75), and MON with MWAIT (05 R143-R146). -/

namespace Sys2Proof.Machine

/-! ### Special registers (Tables 7.7 and 11.4) -/

/-- The index of a core among its team's cores: sr.tcore (R38). -/
def State.tcore (s : State) (gr : Group) : Nat := (s.teamOf gr.team).cores.idxOf gr.core

/-- The value of a special register other than sr.lane and sr.slot. sr.cpol, sr.stklim and the like come from the group
or its stream team (R52); HALT of sr.dbg is the reading fibre's own (log entry 42). -/
def State.srValue (s : State) (g n : Nat) : Nat :=
  let gr := s.group g
  let t := s.teamOf gr.team
  let sh := s.sharedOf g
  let record := ((Tab.get? s.launches t.launch).map Launch.record).getD 0
  match n with
  | 0x000 => gr.cause.toNat
  | 0x001 => sh.flags.toNat
  | 0x002 => sh.stklim.toNat
  | 0x003 => gr.uemu.toNat
  | 0x004 => gr.emret.toNat
  | 0x005 => gr.emop.toNat
  | 0x006 => gr.emd.toNat
  | 0x007 => gr.ema.toNat
  | 0x008 => gr.emb.toNat
  | 0x009 => gr.emc.toNat
  | 0x00A => gr.emx.toNat
  | 0x00B => sh.dbg.toNat + (if gr.halt then 64 else 0)
  | 0x00C => gr.epc.toNat
  | 0x00D => gr.eaddr.toNat
  | 0x00E => sh.ufh.toNat
  | 0x00F => sh.cpol.toNat
  | 0x012 => gr.num
  | 0x013 => s.tcore gr
  | 0x014 => t.x.toNat
  | 0x015 => t.y.toNat
  | 0x016 => t.z.toNat
  | 0x017 => recX record
  | 0x018 => recY record
  | 0x019 => recZ record
  | 0x01A => gr.core + 2 ^ 9 * s.pkg.toNat
  | 0x01B => packFields [(sh.ld, 8), (sh.st, 8), (sh.cp, 8), (sh.tl, 8)]
  | 0x01C => packFields [(gr.h, 3), ((s.roleOf g).extmax, 3),
      (boolNat (match gr.parked with | some { wait := .xacq _ _, .. } => true | _ => false), 1)]
  | 0x01D => packFields [(t.ssize.getD (s.tcore gr) 0, 20), (t.sbase.getD (s.tcore gr) 0, 19)]
  | 0x01E => t.ctx
  | 0x020 => s.gtc (coreDie gr.core)
  | 0x021 => ctxHvec (s.ctxEntry (coreDie gr.core) t.ctx)
  | 0x022 => sh.bpa0.toNat
  | 0x023 => sh.bpa1.toNat
  | _ => 0

/-- R301, R194: SRRD. -/
def execSrrd (g : Guard) (f : Fields) (s : State) : Res :=
  issued s fun i =>
    let n := f.xf 0 12
    if srFibre n then
      s.forLanes (s.active g)
        (fun l => match i.at? l with
          | some (gid, j) => (if n == 0x010 then (if i.stream then l else j) else (s.group gid).slot0 + j, 0)
          | none => (0, 0))
        (fun u l v => u.setVreg l f.d.toNat v)
    else
      List.foldl (fun t u => match i.at? u with
        | some (gid, _) => t.setS u (f.d.toNat % 64) (s.srValue gid n)
        | none => t) s (s.onceUnits g)

/-- A write of sr.dbg (Table 11.8): with RESUME set, every halted group or fibre that the register governs goes on, DROP
discarding a caught cause. -/
def State.setDbg (s : State) (g v : Nat) : State :=
  let s := s.modShared g fun sh => { sh with dbg := BitVec.ofNat 6 v }
  let t := (s.group g).team
  let gs := if (s.teamOf t).stream then (s.groups.filter fun p => p.2.team == t).map Prod.fst else [g]
  if bitOf v 7 then gs.foldl (fun s h => s.resumeDebug h (bitOf v 8)) s else s

/-- R301, R3: SRWR, under the access code of each field. -/
def State.setSr (s : State) (g n v : Nat) : State :=
  match n with
  | 0x001 => s.modShared g fun sh => { sh with flags := BitVec.ofNat 7 v }
  | 0x002 => s.modShared g fun sh => { sh with stklim := BitVec.ofNat 19 v }
  | 0x003 => s.modGroup g fun gr => { gr with uemu := BitVec.ofNat 57 v }
  | 0x004 => s.modGroup g fun gr => { gr with emret := BitVec.ofNat 57 v }
  | 0x00B => s.setDbg g v
  | 0x00C => s.modGroup g fun gr => { gr with epc := BitVec.ofNat 57 v }
  | 0x00E => s.modShared g fun sh => { sh with ufh := BitVec.ofNat 57 v }
  | 0x00F => s.modShared g fun sh => { sh with cpol := BitVec.ofNat 57 (setBits sh.cpol.toNat 0 14 v) }
  | 0x022 => s.modShared g fun sh => { sh with bpa0 := BitVec.ofNat 57 v }
  | 0x023 => s.modShared g fun sh => { sh with bpa1 := BitVec.ofNat 57 v }
  | _ => s

def execSrwr (g : Guard) (f : Fields) (s : State) : Res :=
  issued s fun i =>
    List.foldl (fun t u => match i.at? u with
      | some (gid, _) => t.setSr gid (f.xf 0 12) (s.sreg u (f.a.toNat % 64))
      | none => t) s (s.onceUnits g)

/-- GTCRD (R302). -/
def execGtcrd (g : Guard) (f : Fields) (s : State) : Res :=
  issued s fun i =>
    List.foldl (fun t u => t.setS u (f.d.toNat % 64) (s.gtc (coreDie i.core))) s (s.onceUnits g)

/-- TRAPI (R302). -/
def execTrapi (g : Guard) (f : Fields) (s : State) : Res :=
  issued s fun _ => if (s.active g).isEmpty then s else s.raise 0x16 (f.xf 0 8)

/-- BKPT (R302). -/
def execBkpt (g : Guard) (f : Fields) (s : State) : Res :=
  issued s fun _ => if (s.active g).isEmpty then s else s.raise 0x50 (f.xf 0 8)

/-! ### Return from a fault handler (R294) -/

def liveLane (gr : Group) (j : Nat) : Bool := match gr.lanes[j]? with | some ln => ln.live | none => false

/-- R294: the shadow restored, without the fibres that ended in the handler, and the stop entry's fibres placed. -/
def leaveHandler (gr : Group) (sh : Shadow) (mode : Nat) : Group :=
  let pc := match mode with
    | 0 => sh.stop.pc
    | 1 => sh.stop.past
    | _ => gr.epc
  let fr := (sh.frontier.map fun e => { e with lanes := e.lanes.filter (liveLane gr) }).filter fun e => !e.lanes.isEmpty
  let gr := sh.preds.foldl (fun gr p => if liveLane gr p.1 then gr.setPred p.1 p.2 else gr) gr
  let rest := fr.filter fun e => !isEntry sh.stop.pc sh.stop.level e
  let back := (sh.stop.lanes.filter (liveLane gr)).map fun j => ({ lane := j, pc := pc, level := sh.stop.level } : Move)
  { gr with
    frontier := arriveAll rest back
    shadow := none
    cause := BitVec.ofNat 36 (setBits gr.cause.toNat 26 1 0) }

/-- Whether every live fibre of each issuing group is in the issued entry. -/
def State.allInEntry (s : State) : Bool :=
  s.iss.groups.all fun p =>
    let gr := s.group p.1
    (List.range gr.lanes.length).all fun j => !liveLane gr j || p.2.contains j

/-- ERET (R294). -/
def execEret (g : Guard) (f : Fields) (s : State) : Res :=
  issued s fun i =>
    let gs := (s.onceUnits g).filterMap fun u => (i.at? u).map Prod.fst
    if gs.isEmpty then s
    else if !(gs.all fun p => (s.group p).hact) then s.raise 0x13
    else if !s.allInEntry then s.raise 0x30
    else
      (List.foldl (fun (s : State) (p : Nat) =>
        s.modGroup p fun gr => match gr.shadow with
          | some sh => leaveHandler gr sh (f.xf 0 2)
          | none => gr) s gs).modIss fun i => { i with out := .settled, placed := gs }

/-! ### Emulation (R75-R77) -/

/-- ILLEGAL_INSTRUCTION (R75 step 5). -/
def execIllegalInstruction (_w : BitVec 96) (s : State) : Res := issued s fun _ => s.raise 0x10

/-- EMULATION_TRAP (R76): the word is kept in the emulation registers, and every fibre of the entry goes to the
handler, one call level up. -/
def execEmulationTrap (reason : BitVec 2) (w : BitVec 96) (s : State) : Res :=
  issued s fun i =>
    let gr := s.group i.gid
    if i.stream || gr.uemu == 0 || gr.emop.getLsbD 31 then s.raise 0x11
    else if i.level == 4095 then s.raise 0x43
    else
      s.transfer (i.entry.map fun l => (l, gr.uemu)) (i.level + 1) fun t =>
        t.modGroup i.gid fun gr =>
          { gr with
            emop := BitVec.ofNat 32 (bitsOf w.toNat 0 19 + reason.toNat * 2 ^ 19 + 2 ^ 31)
            emd := w.extractLsb' 19 8, ema := w.extractLsb' 27 12, emb := w.extractLsb' 39 12
            emc := w.extractLsb' 51 12, emx := w.extractLsb' 64 32, emret := seqPc i.pc }

/-- EMRET (R77). At level 0, where a handler of its own may stand, the level wraps to 4,095 (log entry 42). -/
def execEmret (_g : Guard) (_f : Fields) (s : State) : Res :=
  issued s fun i =>
    let gr := s.group i.gid
    if !gr.emop.getLsbD 31 then s.raise 0x11
    else if gr.frontier.any fun e => e.level == i.level && e.pc != i.stopPc then s.raise 0x30
    else if !validPc gr.emret then s.raise 0x12
    else
      List.foldl (fun t l => t.goTo l gr.emret (i.level - 1))
        (s.modGroup i.gid fun gr => { gr with emop := gr.emop &&& 0x7FFFFFFF }) i.entry

/-! ### Caches, the log and the context (R303, R304) -/

/-- IFENCE (R303): every earlier instruction has completed; the core's fetched lines go. -/
def execIfence (g : Guard) (_f : Fields) (s : State) : Res :=
  issued s fun i =>
    if (s.active g).isEmpty then s else s.modCore i.core fun c => { c with fetched := [] }

/-- EVLOG (R304). -/
def execEvlog (g : Guard) (f : Fields) (s : State) : Res :=
  issued s fun i =>
    List.foldl (fun (t : State) u => t.log (coreDie i.core) i.core 0x04
      [(f.xf 0 16, 16), (s.sreg u (f.a.toNat % 64), 64), (s.curCtx, 12)]) s (s.onceUnits g)

/-- CFLSH (R303); it also drops every network slot (12 R316). -/
def execCflsh (g : Guard) (_f : Fields) (s : State) : Res :=
  issued s fun i =>
    if (s.active g).isEmpty then s
    else
      { s with caches := s.caches.filter fun (c : Nat × Tab CacheLine) => !(s.cacheKeys i.core).contains c.1 }.modCore i.core fun c => { c with networks := [] }

/-- R316: the network slots of a context that a range overlaps are dropped; an image has 1,664 bytes. -/
def State.dropNetworks (s : State) (k ctx a n : Nat) : State :=
  if (s.core k).networks.isEmpty then s
  else s.modCore k fun c => { c with
    networks := c.networks.filter fun x => !(x.1 == ctx && decide (x.2.1 < a + n) && decide (a < x.2.1 + 1664)) }

/-- R303: drops from a core's cache the lines of `[lo, hi]` of one page; an unmapped page is skipped. -/
def State.invalidatePart (s : State) (k ctx lo hi : Nat) : State :=
  let s := s.noteWalk k ctx (lo % 2 ^ 57)
  match s.lookup k ctx (lo % 2 ^ 57) with
  | .error _ => s
  | .ok x =>
    if paRegion x.pa != 0 then s
    else s.dropLines k (paLa x.pa / 512) ((paLa x.pa + (hi - lo)) / 512)

/-- CINV (R303). -/
def execCinv (g : Guard) (f : Fields) (s : State) : Res :=
  issued s fun i =>
    List.foldl (fun t u =>
      let a := s.sreg u (f.a.toNat % 64) % 2 ^ 57
      let n := min (s.sreg u (f.b.toNat % 64)) (2 ^ 32)
      if n == 0 then t
      else
        State.dropNetworks (List.foldl (fun (t : State) j =>
          let p := a / 4096 + j
          t.invalidatePart i.core s.curCtx (max a (4096 * p)) (min (a + n - 1) (4096 * p + 4095))) t
          (List.range ((a + n - 1) / 4096 - a / 4096 + 1))) i.core s.curCtx a n) s (s.onceUnits g)

/-- CTXRD (R304). -/
def execCtxrd (g : Guard) (f : Fields) (s : State) : Res :=
  issued s fun i =>
    let ctx := s.curCtx
    let e := s.ctxEntry (coreDie i.core) ctx
    let v := match f.xf 0 8 with
      | 0 => ctx + boolNat (ctxCompat e) * 2 ^ 12
      | 1 => Tab.getD s.walks ctx 0 % 2 ^ 32
      | _ => bitsOf e 192 64
    List.foldl (fun t u => t.setS u (f.d.toNat % 64) v) s (s.onceUnits g)

/-! ### MON and MWAIT (05 R143-R146) -/

/-- R143: the watch of an address, or the cause, with SUB and faulting address. -/
def State.watchOf (s : State) (a : Nat) : State × Except (Nat × Nat × Nat) Watch :=
  let i := s.iss
  let ctx := s.curCtx
  if onchip a then
    if bitsOf a 30 2 == 0 && bitsOf a 19 11 == 0 && bitsOf a 32 9 == i.core && s.inWindow ctx i.core (bitsOf a 0 19) 1
    then (s, .ok { core := some i.core, span := bitsOf a 6 13 })
    else (s, .error (0x26, 1, a))
  else
    match s.access i.core ctx a .read with
    | (s, .error c) => (s, .error (c, if 0x20 ≤ c && c < 0x30 then 1 else 0, if 0x20 ≤ c && c < 0x30 then a else 0))
    | (s, .ok x) =>
      if s.reaches (coreDie i.core) x.pa then (s, .ok { core := none, span := s.placeOf x.pa / 64 }) else (s, .error (0x69, 0, 0))

def State.monOne (s : State) (f : Fields) (u : Nat) : State :=
  if s.iss.out == .raised then s
  else
    let a := BitVec.ofInt 57 ((s.sreg u (f.a.toNat % 64) : Int) + sextN f.x.toNat 32)
    match s.watchOf a.toNat with
    | (s, .error (c, sub, ea)) => s.raise c sub ea
    | (s, .ok w) =>
      match s.iss.at? u with
      | some (gid, _) => s.modGroup gid fun gr => { gr with watch := some w }
      | none => s

/-- MON (R143). -/
def execMon (g : Guard) (f : Fields) (s : State) : Res :=
  issued s fun _ => List.foldl (fun t u => t.monOne f u) s (s.onceUnits g)

/-- One execution of MWAIT (R145). A watch that triggered after the deadline alone gives 1 (DESIGN CHOICE, log entry
42). -/
def State.mwaitOne (s : State) (f : Fields) (u : Nat) : State :=
  match s.iss.at? u with
  | none => s
  | some (gid, _) =>
    let dl := s.sreg u (f.a.toNat % 64)
    let dst := f.d.toNat % 64
    let off := fun (s : State) (v : Nat) => (s.setS u dst v).modGroup gid fun gr => { gr with watch := none }
    match (s.group gid).watch with
    | none => s.setS u dst 2
    | some w =>
      match w.triggered with
      | some t => off s (if t ≤ dl then 0 else 1)
      | none => if dl < s.gtc (coreDie s.iss.core) then off s 1 else s.park u (.mwait dl dst)

/-- MWAIT (R145). -/
def execMwait (g : Guard) (f : Fields) (s : State) : Res :=
  issued s fun _ => List.foldl (fun t u => t.mwaitOne f u) s (s.onceUnits g)

/-- A parked MWAIT ends with a reason and its watch is disarmed (R145). -/
def State.endMwait (s : State) (g dst v : Nat) : State :=
  (s.wake g dst v).modGroup g fun gr => { gr with watch := none }

/-- MWAIT_DEADLINE (R145). -/
def execMwaitDeadline (g : Nat) (s : State) : Res :=
  .next <|
    match (s.group g).parked with
    | some { wait := .mwait dl dst, .. } =>
      if decide (dl < s.gtc (coreDie (s.group g).core)) && !(s.teamOf (s.group g).team).out then s.endMwait g dst 1 else s
    | _ => s

/-- MWAIT_OTHER_WAKE (R145). -/
def execMwaitOtherWake (g : Nat) (s : State) : Res :=
  .next <|
    match (s.group g).parked with
    | some { wait := .mwait _ dst, .. } => if (s.teamOf (s.group g).team).out then s else s.endMwait g dst 3
    | _ => s

end Sys2Proof.Machine
end

