-- ==== Sys2Proof/Machine/Dispatch.lean ====
section
/-! DEFINITION. One arm for each instruction: a word's meaning, or the step of another unit. -/

namespace Sys2Proof.Machine

def exec (i : Instr) (s : State) : Host.Outcome State Fault Refusal :=
  match i with
  | .nop g f => Sys2Proof.Machine.execNop g f s
  | .mov m g f => Sys2Proof.Machine.execMov m g f s
  | .isel m g f => Sys2Proof.Machine.execIsel m g f s
  | .ppack g f => Sys2Proof.Machine.execPpack g f s
  | .punpk g f => Sys2Proof.Machine.execPunpk g f s
  | .pset g f => Sys2Proof.Machine.execPset g f s
  | .pmov m g f => Sys2Proof.Machine.execPmov m g f s
  | .icmp m g f => Sys2Proof.Machine.execIcmp m g f s
  | .aadd m g f => Sys2Proof.Machine.execAadd m g f s
  | .alea m g f => Sys2Proof.Machine.execAlea m g f s
  | .achk m g f => Sys2Proof.Machine.execAchk m g f s
  | .iadd m g f => Sys2Proof.Machine.execIadd m g f s
  | .isub m g f => Sys2Proof.Machine.execIsub m g f s
  | .imul m g f => Sys2Proof.Machine.execImul m g f s
  | .imulh m g f => Sys2Proof.Machine.execImulh m g f s
  | .imulw m g f => Sys2Proof.Machine.execImulw m g f s
  | .imad m g f => Sys2Proof.Machine.execImad m g f s
  | .idiv m g f => Sys2Proof.Machine.execIdiv m g f s
  | .irem m g f => Sys2Proof.Machine.execIrem m g f s
  | .imin m g f => Sys2Proof.Machine.execImin m g f s
  | .imax m g f => Sys2Proof.Machine.execImax m g f s
  | .iabs m g f => Sys2Proof.Machine.execIabs m g f s
  | .ineg m g f => Sys2Proof.Machine.execIneg m g f s
  | .iadds m g f => Sys2Proof.Machine.execIadds m g f s
  | .isubs m g f => Sys2Proof.Machine.execIsubs m g f s
  | .isad m g f => Sys2Proof.Machine.execIsad m g f s
  | .idot4 g f => Sys2Proof.Machine.execIdot4 g f s
  | .and_ m g f => Sys2Proof.Machine.execAnd m g f s
  | .or_ m g f => Sys2Proof.Machine.execOr m g f s
  | .xor_ m g f => Sys2Proof.Machine.execXor m g f s
  | .not_ m g f => Sys2Proof.Machine.execNot m g f s
  | .andn m g f => Sys2Proof.Machine.execAndn m g f s
  | .shl m g f => Sys2Proof.Machine.execShl m g f s
  | .shr m g f => Sys2Proof.Machine.execShr m g f s
  | .sar m g f => Sys2Proof.Machine.execSar m g f s
  | .rot m g f => Sys2Proof.Machine.execRot m g f s
  | .bfx m g f => Sys2Proof.Machine.execBfx m g f s
  | .bfi m g f => Sys2Proof.Machine.execBfi m g f s
  | .popc m g f => Sys2Proof.Machine.execPopc m g f s
  | .clz m g f => Sys2Proof.Machine.execClz m g f s
  | .ctz m g f => Sys2Proof.Machine.execCtz m g f s
  | .brev m g f => Sys2Proof.Machine.execBrev m g f s
  | .bswap m g f => Sys2Proof.Machine.execBswap m g f s
  | .fadd m g f => Sys2Proof.Machine.execFadd m g f s
  | .fsub m g f => Sys2Proof.Machine.execFsub m g f s
  | .fmul m g f => Sys2Proof.Machine.execFmul m g f s
  | .ffma m g f => Sys2Proof.Machine.execFfma m g f s
  | .ffms m g f => Sys2Proof.Machine.execFfms m g f s
  | .fnma m g f => Sys2Proof.Machine.execFnma m g f s
  | .fmin m g f => Sys2Proof.Machine.execFmin m g f s
  | .fmax m g f => Sys2Proof.Machine.execFmax m g f s
  | .fabs g f => Sys2Proof.Machine.execFabs g f s
  | .fneg g f => Sys2Proof.Machine.execFneg g f s
  | .fcpys g f => Sys2Proof.Machine.execFcpys g f s
  | .fcmp m g f => Sys2Proof.Machine.execFcmp m g f s
  | .fclass g f => Sys2Proof.Machine.execFclass g f s
  | .frnd g f => Sys2Proof.Machine.execFrnd g f s
  | .ffrac g f => Sys2Proof.Machine.execFfrac g f s
  | .fscale m g f => Sys2Proof.Machine.execFscale m g f s
  | .fdiv g f => Sys2Proof.Machine.execFdiv g f s
  | .fsqrt g f => Sys2Proof.Machine.execFsqrt g f s
  | .frcp g f => Sys2Proof.Machine.execFrcp g f s
  | .frsq g f => Sys2Proof.Machine.execFrsq g f s
  | .fexp2 g f => Sys2Proof.Machine.execFexp2 g f s
  | .flog2 g f => Sys2Proof.Machine.execFlog2 g f s
  | .fsin g f => Sys2Proof.Machine.execFsin g f s
  | .fcos g f => Sys2Proof.Machine.execFcos g f s
  | .ftanh g f => Sys2Proof.Machine.execFtanh g f s
  | .fsigm g f => Sys2Proof.Machine.execFsigm g f s
  | .frelu g f => Sys2Proof.Machine.execFrelu g f s
  | .fclmp m g f => Sys2Proof.Machine.execFclmp m g f s
  | .fmaxa g f => Sys2Proof.Machine.execFmaxa g f s
  | .flerp g f => Sys2Proof.Machine.execFlerp g f s
  | .fdot2 g f => Sys2Proof.Machine.execFdot2 g f s
  | .fgete g f => Sys2Proof.Machine.execFgete g f s
  | .fgetm g f => Sys2Proof.Machine.execFgetm g f s
  | .fcvt g f => Sys2Proof.Machine.execFcvt g f s
  | .icvt g f => Sys2Proof.Machine.execIcvt g f s
  | .qnt g f => Sys2Proof.Machine.execQnt g f s
  | .dqnt g f => Sys2Proof.Machine.execDqnt g f s
  | .vspk g f => Sys2Proof.Machine.execVspk g f s
  | .shfl g f => Sys2Proof.Machine.execShfl g f s
  | .shfli m g f => Sys2Proof.Machine.execShfli m g f s
  | .vred g f => Sys2Proof.Machine.execVred g f s
  | .vscan g f => Sys2Proof.Machine.execVscan g f s
  | .vsegs g f => Sys2Proof.Machine.execVsegs g f s
  | .vbal g f => Sys2Proof.Machine.execVbal g f s
  | .vvote g f => Sys2Proof.Machine.execVvote g f s
  | .vcmpx g f => Sys2Proof.Machine.execVcmpx g f s
  | .vmatch g f => Sys2Proof.Machine.execVmatch g f s
  | .vcomp g f => Sys2Proof.Machine.execVcomp g f s
  | .xacq m g f => Sys2Proof.Machine.execXacq m g f s
  | .xrel m g f => Sys2Proof.Machine.execXrel m g f s
  | .winset m g f => Sys2Proof.Machine.execWinset m g f s
  | .xqry g f => Sys2Proof.Machine.execXqry g f s
  | .lds g f => Sys2Proof.Machine.execLds g f s
  | .sts g f => Sys2Proof.Machine.execSts g f s
  | .ats g f => Sys2Proof.Machine.execAts g f s
  | .ldsb g f => Sys2Proof.Machine.execLdsb g f s
  | .ldss g f => Sys2Proof.Machine.execLdss g f s
  | .stss g f => Sys2Proof.Machine.execStss g f s
  | .ldsl g f => Sys2Proof.Machine.execLdsl g f s
  | .stsl g f => Sys2Proof.Machine.execStsl g f s
  | .lda g f => Sys2Proof.Machine.execLda g f s
  | .sta g f => Sys2Proof.Machine.execSta g f s
  | .ata g f => Sys2Proof.Machine.execAta g f s
  | .ldc g f => Sys2Proof.Machine.execLdc g f s
  | .stc g f => Sys2Proof.Machine.execStc g f s
  | .atc g f => Sys2Proof.Machine.execAtc g f s
  | .mzro g f => Sys2Proof.Machine.execMzro g f s
  | .mldb g f => Sys2Proof.Machine.execMldb g f s
  | .mma g f => Sys2Proof.Machine.execMma g f s
  | .mmat g f => Sys2Proof.Machine.execMmat g f s
  | .mdrn g f => Sys2Proof.Machine.execMdrn g f s
  | .mxpose g f => Sys2Proof.Machine.execMxpose g f s
  | .mqef g f => Sys2Proof.Machine.execMqef g f s
  | .mstsh g f => Sys2Proof.Machine.execMstsh g f s
  | .mldsh g f => Sys2Proof.Machine.execMldsh g f s
  | .mrda g f => Sys2Proof.Machine.execMrda g f s
  | .mwra g f => Sys2Proof.Machine.execMwra g f s
  | .mseq g f => Sys2Proof.Machine.execMseq g f s
  | .maddt g f => Sys2Proof.Machine.execMaddt g f s
  | .mscl g f => Sys2Proof.Machine.execMscl g f s
  | .cpg g f => Sys2Proof.Machine.execCpg g f s
  | .cps g f => Sys2Proof.Machine.execCps g f s
  | .cpt g f => Sys2Proof.Machine.execCpt g f s
  | .cpr g f => Sys2Proof.Machine.execCpr g f s
  | .cpa g f => Sys2Proof.Machine.execCpa g f s
  | .cpq g f => Sys2Proof.Machine.execCpq g f s
  | .cpf g f => Sys2Proof.Machine.execCpf g f s
  | .cpgx g f => Sys2Proof.Machine.execCpgx g f s
  | .cpsx g f => Sys2Proof.Machine.execCpsx g f s
  | .cpm g f => Sys2Proof.Machine.execCpm g f s
  | .tex g f => Sys2Proof.Machine.execTex g f s
  | .texn g f => Sys2Proof.Machine.execTexn g f s
  | .txq g f => Sys2Proof.Machine.execTxq g f s
  | .texg g f => Sys2Proof.Machine.execTexg g f s
  | .rbox g f => Sys2Proof.Machine.execRbox g f s
  | .rtri g f => Sys2Proof.Machine.execRtri g f s
  | .rpush g f => Sys2Proof.Machine.execRpush g f s
  | .rpop g f => Sys2Proof.Machine.execRpop g f s
  | .hcfg g f => Sys2Proof.Machine.execHcfg g f s
  | .hgath g f => Sys2Proof.Machine.execHgath g f s
  | .hscat g f => Sys2Proof.Machine.execHscat g f s
  | .tspawn g f => Sys2Proof.Machine.execTspawn g f s
  | .trange g f => Sys2Proof.Machine.execTrange g f s
  | .tsend g f => Sys2Proof.Machine.execTsend g f s
  | .tdone g f => Sys2Proof.Machine.execTdone g f s
  | .trecv g f => Sys2Proof.Machine.execTrecv g f s
  | .tqry g f => Sys2Proof.Machine.execTqry g f s
  | .tclose g f => Sys2Proof.Machine.execTclose g f s
  | .tgrain g f => Sys2Proof.Machine.execTgrain g f s
  | .nmadd g f => Sys2Proof.Machine.execNmadd g f s
  | .nmred g f => Sys2Proof.Machine.execNmred g f s
  | .nmscl g f => Sys2Proof.Machine.execNmscl g f s
  | .nmopt g f => Sys2Proof.Machine.execNmopt g f s
  | .nmfence g f => Sys2Proof.Machine.execNmfence g f s
  | .nmq g f => Sys2Proof.Machine.execNmq g f s
  | .ared g f => Sys2Proof.Machine.execAred g f s
  | .arwait g f => Sys2Proof.Machine.execArwait g f s
  | .arcfg g f => Sys2Proof.Machine.execArcfg g f s
  | .arqry g f => Sys2Proof.Machine.execArqry g f s
  | .bra g f => Sys2Proof.Machine.execBra g f s
  | .brc g f => Sys2Proof.Machine.execBrc g f s
  | .brany g f => Sys2Proof.Machine.execBrany g f s
  | .brall g f => Sys2Proof.Machine.execBrall g f s
  | .brnone g f => Sys2Proof.Machine.execBrnone g f s
  | .brz g f => Sys2Proof.Machine.execBrz g f s
  | .brnz g f => Sys2Proof.Machine.execBrnz g f s
  | .loop g f => Sys2Proof.Machine.execLoop g f s
  | .jmp g f => Sys2Proof.Machine.execJmp g f s
  | .jmpt g f => Sys2Proof.Machine.execJmpt g f s
  | .call g f => Sys2Proof.Machine.execCall g f s
  | .callr g f => Sys2Proof.Machine.execCallr g f s
  | .ret g f => Sys2Proof.Machine.execRet g f s
  | .enter g f => Sys2Proof.Machine.execEnter g f s
  | .leave g f => Sys2Proof.Machine.execLeave g f s
  | .fspawn g f => Sys2Proof.Machine.execFspawn g f s
  | .fspawnr g f => Sys2Proof.Machine.execFspawnr g f s
  | .fend g f => Sys2Proof.Machine.execFend g f s
  | .yield g f => Sys2Proof.Machine.execYield g f s
  | .waitc g f => Sys2Proof.Machine.execWaitc g f s
  | .pcrd g f => Sys2Proof.Machine.execPcrd g f s
  | .srrd g f => Sys2Proof.Machine.execSrrd g f s
  | .srwr g f => Sys2Proof.Machine.execSrwr g f s
  | .gtcrd g f => Sys2Proof.Machine.execGtcrd g f s
  | .trapi g f => Sys2Proof.Machine.execTrapi g f s
  | .eret g f => Sys2Proof.Machine.execEret g f s
  | .emret g f => Sys2Proof.Machine.execEmret g f s
  | .bkpt g f => Sys2Proof.Machine.execBkpt g f s
  | .ifence g f => Sys2Proof.Machine.execIfence g f s
  | .evlog g f => Sys2Proof.Machine.execEvlog g f s
  | .cflsh g f => Sys2Proof.Machine.execCflsh g f s
  | .cinv g f => Sys2Proof.Machine.execCinv g f s
  | .ctxrd g f => Sys2Proof.Machine.execCtxrd g f s
  | .bar g f => Sys2Proof.Machine.execBar g f s
  | .arrive g f => Sys2Proof.Machine.execArrive g f s
  | .waitb g f => Sys2Proof.Machine.execWaitb g f s
  | .psendRsv g f => Sys2Proof.Machine.execPsendRsv g f s
  | .psendCmt g f => Sys2Proof.Machine.execPsendCmt g f s
  | .precv g f => Sys2Proof.Machine.execPrecv g f s
  | .pfree g f => Sys2Proof.Machine.execPfree g f s
  | .pqry g f => Sys2Proof.Machine.execPqry g f s
  | .mon g f => Sys2Proof.Machine.execMon g f s
  | .mwait g f => Sys2Proof.Machine.execMwait g f s
  | .trdy g f => Sys2Proof.Machine.execTrdy g f s
  | .twait g f => Sys2Proof.Machine.execTwait g f s
  | .tclr g f => Sys2Proof.Machine.execTclr g f s
  | .vpub g f => Sys2Proof.Machine.execVpub g f s
  | .vacq g f => Sys2Proof.Machine.execVacq g f s
  | .vrel g f => Sys2Proof.Machine.execVrel g f s
  | .fence g f => Sys2Proof.Machine.execFence g f s
  | .illegalInstruction w => Sys2Proof.Machine.execIllegalInstruction w s
  | .emulationTrap reason w => Sys2Proof.Machine.execEmulationTrap reason w s
  | .lineRefetch gid => Sys2Proof.Machine.execLineRefetch gid s
  | .entryAgeDue gid => Sys2Proof.Machine.execEntryAgeDue gid s
  | .freeFibreAged gid => Sys2Proof.Machine.execFreeFibreAged gid s
  | .starvationBoost gid => Sys2Proof.Machine.execStarvationBoost gid s
  | .xacqGrant core => Sys2Proof.Machine.execXacqGrant core s
  | .containmentWalk gid => Sys2Proof.Machine.execContainmentWalk gid s
  | .debugResume gid drop => Sys2Proof.Machine.execDebugResume gid drop s
  | .groupRetire gid => Sys2Proof.Machine.execGroupRetire gid s
  | .copyOperationComplete op => Sys2Proof.Machine.execCopyOperationComplete op s
  | .matrixOperationComplete op => Sys2Proof.Machine.execMatrixOperationComplete op s
  | .renderOperationComplete op => Sys2Proof.Machine.execRenderOperationComplete op s
  | .hashGridOperationComplete op => Sys2Proof.Machine.execHashGridOperationComplete op s
  | .taskCommandComplete op => Sys2Proof.Machine.execTaskCommandComplete op s
  | .tsendPerform op slot => Sys2Proof.Machine.execTsendPerform op slot s
  | .nearMemoryDeliveryComplete op => Sys2Proof.Machine.execNearMemoryDeliveryComplete op s
  | .rootUnitUpdate bank agent => Sys2Proof.Machine.execRootUnitUpdate bank agent s
  | .rootUnitOptUpdate bank agent => Sys2Proof.Machine.execRootUnitOptUpdate bank agent s
  | .nmredComplete op => Sys2Proof.Machine.execNmredComplete op s
  | .nmfenceComplete op => Sys2Proof.Machine.execNmfenceComplete op s
  | .allreduceGenerationComplete slot => Sys2Proof.Machine.execAllreduceGenerationComplete slot s
  | .arcfgComplete op => Sys2Proof.Machine.execArcfgComplete op s
  | .syncOperationPerform gid => Sys2Proof.Machine.execSyncOperationPerform gid s
  | .postedWritePerform gid => Sys2Proof.Machine.execPostedWritePerform gid s
  | .twaitDeadline gid => Sys2Proof.Machine.execTwaitDeadline gid s
  | .mwaitDeadline gid => Sys2Proof.Machine.execMwaitDeadline gid s
  | .deviceWritePerform op => Sys2Proof.Machine.execDeviceWritePerform op s
  | .deviceReadServe op => Sys2Proof.Machine.execDeviceReadServe op s
  | .leaseExpiry cache line => Sys2Proof.Machine.execLeaseExpiry cache line s
  | .pageWalk core ctx va => Sys2Proof.Machine.execPageWalk core ctx va s
  | .copyOnWrite ctx va => Sys2Proof.Machine.execCopyOnWrite ctx va s
  | .sectorWaitResume die => Sys2Proof.Machine.execSectorWaitResume die s
  | .freeFramePush die la psz pflat => Sys2Proof.Machine.execFreeFramePush die la psz pflat s
  | .launchQueueDoorbell die queue tail => Sys2Proof.Machine.execLaunchQueueDoorbell die queue tail s
  | .launchRecordTake die queue => Sys2Proof.Machine.execLaunchRecordTake die queue s
  | .teamPlacement launch cluster cores => Sys2Proof.Machine.execTeamPlacement launch cluster cores s
  | .graphStart die slot => Sys2Proof.Machine.execGraphStart die slot s
  | .graphDeadlineExpiry die slot => Sys2Proof.Machine.execGraphDeadlineExpiry die slot s
  | .nodeTeamLaunch die slot node => Sys2Proof.Machine.execNodeTeamLaunch die slot node s
  | .coalesceTimerExpiry die slot node => Sys2Proof.Machine.execCoalesceTimerExpiry die slot node s
  | .nodeLaunchHoldoffExpiry die slot node => Sys2Proof.Machine.execNodeLaunchHoldoffExpiry die slot node s
  | .rangeWorkRequest die slot node => Sys2Proof.Machine.execRangeWorkRequest die slot node s
  | .preemptOrder die => Sys2Proof.Machine.execPreemptOrder die s
  | .teamRestore team cluster cores => Sys2Proof.Machine.execTeamRestore team cluster cores s
  | .clusterConfigWrite cluster fuse => Sys2Proof.Machine.execClusterConfigWrite cluster fuse s
  | .cacheModeSwitch cluster => Sys2Proof.Machine.execCacheModeSwitch cluster s
  | .cloneContext => Sys2Proof.Machine.execCloneContext s
  | .translationInvalidation => Sys2Proof.Machine.execTranslationInvalidation s
  | .frameRelease => Sys2Proof.Machine.execFrameRelease s
  | .linkRetrainOrder => Sys2Proof.Machine.execLinkRetrainOrder s
  | .debugWrite => Sys2Proof.Machine.execDebugWrite s
  | .endGrid => Sys2Proof.Machine.execEndGrid s
  | .endContext => Sys2Proof.Machine.execEndContext s
  | .unknownControlOp => Sys2Proof.Machine.execUnknownControlOp s
  | .registerWrite die offset v => Sys2Proof.Machine.execRegisterWrite die offset v s
  | .flitReceive die port module crcOk => Sys2Proof.Machine.execFlitReceive die port module crcOk s
  | .ackReceive die port module => Sys2Proof.Machine.execAckReceive die port module s
  | .nakReceive die port module => Sys2Proof.Machine.execNakReceive die port module s
  | .replayTimeout die port module => Sys2Proof.Machine.execReplayTimeout die port module s
  | .crcWindowEnd die port module => Sys2Proof.Machine.execCrcWindowEnd die port module s
  | .retrainComplete die port module ok => Sys2Proof.Machine.execRetrainComplete die port module ok s
  | .exactlyOnceRequest die index => Sys2Proof.Machine.execExactlyOnceRequest die index s
  | .responseReceive source index => Sys2Proof.Machine.execResponseReceive source index s
  | .gtcSync die => Sys2Proof.Machine.execGtcSync die s
  | .hostAccess write bar addr v => Sys2Proof.Machine.execHostAccess write bar addr v s
  | .remotePackageRequest write pa v => Sys2Proof.Machine.execRemotePackageRequest write pa v s
  | .limitRegisterWrite clim v => Sys2Proof.Machine.execLimitRegisterWrite clim v s
  | .limitInForce => Sys2Proof.Machine.execLimitInForce s
  | .firmwareKick => Sys2Proof.Machine.execFirmwareKick s
  | .watchdogExpiry => Sys2Proof.Machine.execWatchdogExpiry s
  | .patrolScrub sector => Sys2Proof.Machine.execPatrolScrub sector s
  | .spdmRequest die => Sys2Proof.Machine.execSpdmRequest die s
  | .packageWake reference verified => Sys2Proof.Machine.execPackageWake reference verified s
  | .packageSleep => Sys2Proof.Machine.execPackageSleep s
  | .thermalClockReduction die tj clim => Sys2Proof.Machine.execThermalClockReduction die tj clim s
  | .thermalTrip die => Sys2Proof.Machine.execThermalTrip die s
  | .mwaitOtherWake gid => Sys2Proof.Machine.execMwaitOtherWake gid s
  | .networkSlotDrop core slot => Sys2Proof.Machine.execNetworkSlotDrop core slot s

end Sys2Proof.Machine
end

