-- ==== Sys2Proof/Machine/Run.lean ====
section
/-! DEFINITION. An issue run to its end: one instruction or a pair (03 R62, 11 R280), and a stream batch of which some
fibres stop or stall (02 R34, R52, R56). -/

namespace Sys2Proof.Machine

/-- A pair's WAITC keeps the place of its issue (07 R193). -/
def State.keepWaitc (s hi : State) : State :=
  List.foldl (fun (s : State) (p : Nat × List Nat) =>
    s.modGroup p.1 fun gr => { gr with waitcAt := (hi.group p.1).waitcAt }) s s.iss.groups

/-- A pair after both members ran from the state `pre`: one that raises has the pair stop, the cause of higher rank
recorded, and one that stalls has it stall, as before either (R62, R280). The lower member's comes first among causes of
one rank (log entry 42). -/
def pairEnd (pre lo hi : State) : State :=
  match lo.iss.out, hi.iss.out with
  | .raised, .raised => if lo.lateStop && !hi.lateStop then pre.retake hi.iss.stop else pre.retake lo.iss.stop
  | .raised, _ => pre.retake lo.iss.stop
  | .stalled, _ => pre.stall
  | _, .raised => pre.retake hi.iss.stop
  | _, .stalled => (pre.keepWaitc hi).stall
  | _, _ => hi

/-- Runs what an issue prepared. The higher member of a pair runs on what the lower one wrote, reads what stood before
(`Issue.view`), and on the state before when the lower one raised. -/
def runPrep (p : Prep) : Res :=
  match p with
  | .none s => .next s
  | .one s i => exec i s
  | .two s lo hi =>
    match exec lo s with
    | .next s1 =>
      match exec hi (if s1.iss.out == .raised then s else s1).second with
      | .next s2 => .next (pairEnd s s1 s2)
      | r => r
    | r => r

/-- The issue of some lanes of a batch. -/
def Issue.only (i : Issue) (ls : List Nat) : Issue :=
  { i with slots := i.slots.mapIdx fun j x => if ls.contains j then x else none, entry := ls }

/-- How each fibre's issue by itself would end. -/
def State.fates (s : State) (b : Issue) : List (Nat × Option IssueOut) :=
  b.entry.map fun l =>
    (l, match runPrep ({ s with cur := some (b.only [l]) }.fetchIssue) with
        | .next t => some t.iss.out
        | _ => none)

/-- R34, R52, R56: which lanes of a batch issue, of those that would stop or stall together: the first that stops alone;
else all but those that stall alone; else the first. -/
def splitLanes (fates : List (Nat × Option IssueOut)) : List Nat :=
  match fates.find? fun x => x.2 == some .raised with
  | some x => [x.1]
  | none =>
    let go := fates.filter fun x => x.2 != some .stalled
    ((if go.isEmpty then fates else if go.length == fates.length then go.take 1 else go)).map Prod.fst

/-- A batch that stops or stalls as a whole: the fibres that stall alone are not ready, and some of the others issue. -/
def runBatch (b : Issue) (s : State) : Res :=
  let fates := s.fates b
  let s := (fates.filter fun x => x.2 == some .stalled).foldl (fun (s : State) x =>
    match b.at? x.1 with
    | some (g, _) => s.modGroup g fun gr => { gr with blocked := true }
    | none => s) s
  runPrep ({ s with cur := some (b.only (splitLanes fates)) }.fetchIssue)

/-- Table 11.1: PAIR of the groups that have stopped with 0x52 in this step, by the line of their next instruction. -/
def State.markPairs (s : State) : State :=
  if s.groups.any fun p => p.2.pairOwed then
    (s.groups.filter fun p => p.2.pairOwed).foldl (fun (s : State) p =>
      match p.2.stop with
      | some st =>
        let b := s.pairAt p.2.core (s.teamOf p.2.team).ctx st.pc
        s.modGroup p.1 fun gr =>
          { gr with
            pairOwed := false, stop := some { st with pair := b }
            cause := BitVec.ofNat 36 (setBits gr.cause.toNat 17 1 (boolNat b)) }
      | none => s.modGroup p.1 fun gr => { gr with pairOwed := false }) s
  else s

/-- What the end of a step brings about: PAIR of the groups that have single-stepped, collectives accepted after a freeze (11
R299), completion records whose horizon has passed (15 R359), ARQRYs whose cycles have passed (19 R468), cluster switches
that begin (14 R327), and contexts seen with EN = 0 (21 R478). -/
def State.attend (s : State) : State :=
  if s.asleep then s
  else
    let s := (s.dones.map Prod.fst).foldl (fun (s : State) id =>
      if s.sectorWaits.any fun w => w.1 == .done id then s else s.finishDone id) s
    let s := s.markPairs.acceptThawed.arAnswer.beginSwitches
    { s with teams := s.teams.map fun (t : Nat × Team) =>
        if t.2.awaitsEn && !ctxEn (s.ctxEntry (s.teamDie t.2) t.2.ctx) then (t.1, { t.2 with awaitsEn := false }) else t }

/-- A step's end: the issue's fibres move and time passes. -/
def State.settle (s : State) : State := s.finish.attend.tick

/-- Whether a stream batch must be issued in parts (R52). -/
def State.splits (s : State) : Bool :=
  match s.cur with
  | some i => i.stream && 1 < i.entry.length && (i.out == .raised || i.out == .stalled)
  | none => false

/-- An issue in a slot of core `k`. -/
def runIssue (k slot : Nat) (s : State) : Res :=
  match runPrep (s.prepare k slot) with
  | .next s1 =>
    if !s1.splits then .next s1.settle
    else
      match s.pick k slot with
      | none => .next s1.settle
      | some b =>
        match runBatch b s with
        | .next s2 => .next s2.settle
        | r => r
  | r => r

end Sys2Proof.Machine
end

