-- ==== Sys2Proof/Machine/Step.lean ====
section
/-! DEFINITION. One step of the machine (01 R12, 02 R33, R45, 03 R62, R75): an issue of a core, the step of another
unit, an upset of stored bits, a frame made flat, a request that arrives at its home, or a write of firmware. -/

namespace Sys2Proof.Machine

/-- One step. A turn the machine does not allow lets time pass. -/
def step (s : State) : Host.Outcome State Fault Refusal :=
  let t := s.takeTurn
  if t.2.allows t.1 then
    match t.1 with
    | .issue k slot => runIssue k slot t.2
    | .event i =>
      match exec i t.2 with
      | .next s1 => .next s1.wakeStalled.attend.tick
      | r => r
    | .upset u => .next (t.2.upset u).attend.tick
    | .placeFlat frame => .next (t.2.makeFlat frame).attend.tick
    | .arrive id sector => .next (t.2.arrive id sector).attend.tick
    | .firmwareWrite die addr v => .next (t.2.firmwareWrite die addr v.toNat).attend.tick
  else .next t.2.attend.tick

/-- The role of the kernel that `withFetchWord` loads: one group of eight fibres, 48 base registers, six extended
blocks, every grant. -/
def probeRole : Role := { width := 8, nb := 48, extmax := 6, groups := 1, grant := 0x1FF, entry := 0x10000 }

/-- PAR bit `j` of a line whose other words are zero (Table 3.2): parity over the first slot's bytes, and bit 0 of it
alone when the line word counts. -/
def probeParity (w j : Nat) : Nat := popCount (bitsOf w (120 * j) 120) 120 % 2

/-- The line that holds a word in slot 0, marked as a target. -/
def probeLine (w : Nat) : Nat :=
  let v := w % 2 ^ 96
  v + 2 ^ 240 * (2 ^ 240 * (1 + 2 ^ 9 * probeParity v 0))

/-- `s` with a word where the next step fetches (log entry 5): a launched team of one group on core 0, whose page is
mapped by a leaf in the core's TLB, and the word in slot 0 of the line at its entry's PC. -/
def State.withFetchWord (s : State) (_nbits w : Nat) : State :=
  { s with
    groups := [(0, { team := 0, width := 8, lanes := (List.range 8).map fun j => { wbase := BitVec.ofNat 13 (6 * j) }
                     ext := List.replicate 6 (0, false), extAt := (List.range 6).map fun i => 48 + 32 * i
                     frontier := [{ pc := 0x10000, lanes := List.range 8 }] })]
    teams := [(0, { launch := 0, ctx := 0, cores := [0], roles := [probeRole], sbase := [0], ssize := [4096], srun := [(0, 6144)]
                    slot0 := [0], slots := [8], regBase := [384], reserve := [0] })]
    launches := [(0, { die := 0, gseq := 0, ctx := 0, prio := 0, cls := 0, record := 0, next := 1, live := 1 })]
    cores := [(0, { marrow := { owner := some 0 } })]
    tlbs := [(0, [(16, { pte := 0x1001F, level := 0 })])]
    caches := []
    mem := cellStore [] 0x10000 (probeLine w) 64
    faults := []
    modules := []
    asleep := false
    cur := none
    agenda := [.issue 0 0] }

end Sys2Proof.Machine
end

