-- ==== Sys2Proof/Safety.lean ====
section
/-! DEFINITION. What a safe run is: every step answers a next state, and every memory keeps its one form. -/

namespace Sys2Proof.Machine

/-- A state from which the machine goes on. -/
def goesOn (s : State) : Prop := ∃ t, step s = .next t

/-- A state whose memories have their canonical form and from which the machine goes on. -/
def Safe (s : State) : Prop := Memory.wf s = true ∧ goesOn s

end Sys2Proof.Machine
end

