-- ==== Sys2Proof/Certificates/Slice0/Obligations.lean ====
section
/-! DEFINITION. The statements for the provers, after the words they are written in. -/

namespace Sys2Proof.Slice0
open Sys2Proof Sys2Proof.Machine

/-! ### The issue under way -/

/-- What a step prepares before an instruction runs (R32, R45, R53): the entry's slot lanes are distinct and carry
distinct live fibres of groups that exist, all of the issuing team; in a grouped kernel they are fibres of one group, in a
stream kernel each is a free fibre of its own, kept as a group of one lane. A group's number names one group, and memory
has its canonical form. -/
structure Sound (s : State) (i : Issue) : Prop where
  cur : s.cur = some i
  nodup : i.entry.Nodup
  seated : ∀ l ∈ i.entry, ∃ g j, i.at? l = some (g, j) ∧ (Tab.get? s.groups g).isSome ∧
    (s.group g).team = i.team ∧ ∃ ln, (s.group g).lanes[j]? = some ln ∧ ln.live = true
  apart : ∀ l ∈ i.entry, ∀ k ∈ i.entry, i.at? l = i.at? k → l = k
  team : (Tab.get? s.teams i.team).isSome
  kind : (s.teamOf i.team).stream = i.stream
  fibres : i.stream = true → ∀ l ∈ i.entry, ∀ k ∈ i.entry,
    (i.at? l).map Prod.fst = (i.at? k).map Prod.fst → l = k
  grouped : i.stream = false → ∀ l ∈ i.entry, ∀ k ∈ i.entry,
    (i.at? l).map Prod.fst = (i.at? k).map Prod.fst
  keys : (s.groups.map Prod.fst).Nodup
  single : ∀ p ∈ s.groups, (s.teamOf p.2.team).stream = true → p.2.lanes.length = 1
  memory : Memory.wf s = true

/-! ### What an instruction leaves unchanged -/

/-- What a statement lets an instruction change: lane-registers (group, lane, register), scalars (group, scalar),
predicates (group, lane, predicate) and the sticky flags (group). -/
structure Wrote where
  reg : Nat → Nat → Nat → Bool := fun _ _ _ => false
  scal : Nat → Nat → Bool := fun _ _ => false
  pred : Nat → Nat → Nat → Bool := fun _ _ _ => false
  flags : Nat → Bool := fun _ => false

/-- A lane as `w` lets it change. -/
def LaneFrame (w : Wrote) (g j : Nat) (a b : Group) : Prop :=
  ∀ x y, a.lanes[j]? = some x → b.lanes[j]? = some y →
    y = { x with regs := y.regs, bad := y.bad, preds := y.preds } ∧
    (∀ n, w.reg g j n = false → b.reg j n = a.reg j n ∧ Tab.get? y.bad n = Tab.get? x.bad n) ∧
    (∀ n, w.pred g j n = false → y.preds.getLsbD n = x.preds.getLsbD n)

/-- A group as `w` lets it change. A scalar that is written is no longer its token (R191), and its stored bits are whole
again (R187). -/
def GroupFrame (w : Wrote) (g : Nat) (a b : Group) : Prop :=
  b = { a with
    lanes := b.lanes, scalars := b.scalars, shared := { a.shared with flags := b.shared.flags }
    unjoined := a.unjoined.map fun u => if w.scal g u.token then { u with gone := true } else u
    badScal := a.badScal.filter fun e => !w.scal g (e.1 / 2) } ∧
  (∀ n, w.scal g n = false → b.scal n = a.scal n) ∧
  b.lanes.length = a.lanes.length ∧
  ∀ j, LaneFrame w g j a b

/-- The whole machine as `w` lets it change: every byte of memory and scratchpad, every special register, engine, team
and group is as before, but for what `w` names. -/
def Frame (w : Wrote) (s t : State) : Prop :=
  t = { s with groups := t.groups, teams := t.teams } ∧
  t.groups.map Prod.fst = s.groups.map Prod.fst ∧
  (∀ k, t.teamOf k = { s.teamOf k with
    shared := { (s.teamOf k).shared with flags := (t.teamOf k).shared.flags } }) ∧
  (∀ g, w.flags g = false → (t.sharedOf g).flags = (s.sharedOf g).flags) ∧
  (∀ g, GroupFrame w g (s.group g) (t.group g)) ∧
  (∀ pa, t.paByte pa = s.paByte pa) ∧
  ∀ k a, cellRead (t.scratchOf k) a = cellRead (s.scratchOf k) a

/-! ### Results in registers -/

/-- The vector register D, or the pair D, D + 1 of a 64-bit result (R70, R88). -/
def inD (f : Fields) (w n : Nat) : Bool := n == f.d.toNat || (w == 64 && n == f.d.toNat + 1)

/-- The result of slot lane `l` stands in D: a scalar in the scalar forms, else a vector register, zero above the
result's bits, or a pair (R70, R88, R114). -/
def Result (t : State) (i : Issue) (m : Form) (f : Fields) (w l v : Nat) : Prop :=
  ∀ g j, i.at? l = some (g, j) →
    if m.isScalar then (t.group g).scal f.d.toNat = v % 2 ^ w
    else if w = 64 then
      (t.group g).reg j f.d.toNat = v % 2 ^ 32 ∧ (t.group g).reg j (f.d.toNat + 1) = v / 2 ^ 32 % 2 ^ 32
    else (t.group g).reg j f.d.toNat = v % 2 ^ w

/-- Some of the slot lanes `ls` carries a fibre that satisfies `p`. -/
def carries (i : Issue) (ls : List Nat) (p : Nat → Nat → Bool) : Bool :=
  ls.any fun l => match i.at? l with | some (g, j) => p g j | none => false

/-- The groups whose sticky flags an issue sets: that of a grouped kernel, all of a stream team (R52). -/
def flagged (s : State) (i : Issue) (ls : List Nat) (g : Nat) : Bool :=
  carries i ls (fun h _ => h == g) || (i.stream && (s.group g).team == i.team)

/-- A result of `w` bits in D of every slot lane of `ls`, with sticky flags if `fl`. -/
def wroteD (s : State) (i : Issue) (m : Form) (f : Fields) (w : Nat) (ls : List Nat) (fl : Bool) : Wrote :=
  { reg := fun g j n => !m.isScalar && inD f w n && carries i ls fun h k => h == g && k == j
    scal := fun g n => m.isScalar && n == f.d.toNat && carries i ls fun h _ => h == g
    flags := fun g => fl && flagged s i ls g }

/-- The flags of all lanes together (R110). -/
def orFlags (ls : List Nat) (fl : Nat → Flags) : Flags := List.foldl (fun a l => a ||| fl l) 0 ls

/-- The instruction completes: in each of its executions, named by the slot lanes `units`, the value stands in D, the
sticky flags of all of them are set together and none is cleared (R109, R110), and nothing else changes. -/
def DeliversIn (ins : Instr) (units : State → List Nat) (m : Form) (f : Fields) (w : Nat)
    (val : State → Nat → Nat × Flags) : Prop :=
  ∀ s i, Sound s i → ∃ t, exec ins s = .next t ∧
    (∀ l ∈ units s, Result t i m f w l (val s l).1) ∧
    (∀ l ∈ units s, ∀ h j, i.at? l = some (h, j) →
      (t.sharedOf h).flags = (s.sharedOf h).flags ||| orFlags (units s) fun k => (val s k).2) ∧
    Frame (wroteD s i m f w (units s) (orFlags (units s) (fun k => (val s k).2) != 0)) s t

/-- The same for a register form: its executions are the lanes of active, or the scalar executions (R8, R114, R116). -/
def Delivers (ins : Instr) (m : Form) (g : Guard) (f : Fields) (w : Nat) (val : State → Nat → Nat × Flags) : Prop :=
  DeliversIn ins (fun s => s.execs m g) m f w val

/-- The instruction completes: in each execution `l` every predicate `n` of the lanes `lanes s l` becomes
`bits s l n`, if that names a value, and nothing else changes. -/
def SetsPredicates (ins : Instr) (units : State → List Nat) (lanes : State → Nat → List Nat)
    (bits : State → Nat → Nat → Option Bool) : Prop :=
  ∀ s i, Sound s i → ∃ t, exec ins s = .next t ∧
    (∀ l ∈ units s, ∀ k ∈ lanes s l, ∀ h j, i.at? k = some (h, j) → ∀ n, n < 32 →
      ((t.group h).pred j).getLsbD n = (bits s l n).getD (((s.group h).pred j).getLsbD n)) ∧
    Frame { pred := fun h j n => (units s).any fun l => (bits s l n).isSome && carries i (lanes s l) fun g k => g == h && k == j }
      s t

/-- R115, R116: the lanes whose predicate a form's execution writes. -/
def predLanes (m : Form) (s : State) (l : Nat) : List Nat := if m.isScalar then s.unitLanes l else [l]

/-- A predicate result in q[D[4:0]] (R115). -/
def Decides (ins : Instr) (m : Form) (g : Guard) (f : Fields) (val : State → Nat → Bool) : Prop :=
  SetsPredicates ins (fun s => s.execs m g) (predLanes m) fun s l n =>
    if n = f.d.toNat % 32 then some (val s l) else none

/-- Source `k` of `n` of a register form, as the bits of a value of T (R70, R72, R74, R114). -/
def bitSrc (s : State) (m : Form) (f : Fields) (n k l : Nat) : Nat :=
  s.src m f (formTyD m f) n k (tyWidth (formTyD m f)) false l

/-- The same as an integer: signed for .i types (R89). -/
def intSrc (s : State) (m : Form) (f : Fields) (n k l : Nat) : Int := intVal (formTyD m f) (bitSrc s m f n k l)

/-- The same as a floating value (R91). -/
def numSrc (s : State) (m : Form) (f : Fields) (n k l : Nat) : Machine.Num := floatVal (formTyD m f) (bitSrc s m f n k l)

/-- A count or control: the last source, 32 bits whatever T (R124). -/
def ctlSrc (s : State) (m : Form) (f : Fields) (n l : Nat) : Nat := s.src m f (formTyD m f) n (n - 1) 32 true l

/-! ### What Tables 5.3, 5.5, 6.2 and their rules deliver -/

/-- An instruction of a table: its forms, its number of sources, and what it delivers. -/
structure OpRow (α : Type) where
  ins : Form → Guard → Fields → Instr
  n : Nat
  op : α
  forms : List Form := [.vr, .vi, .sr, .si]

/-- An instruction that has the VR form alone. -/
def vrRow {α : Type} (ins : Guard → Fields → Instr) (n : Nat) (op : α) : OpRow α := ⟨fun _ g f => ins g f, n, op, [.vr]⟩

/-- R121, Table 5.3: exact results kept to T's width, each with its number of sources. -/
def intRows : List (OpRow (Ty → Int → Int → Int → Int)) :=
  [{ ins := .iadd, n := 2, op := fun _ a b _ => a + b }, { ins := .isub, n := 2, op := fun _ a b _ => a - b }, { ins := .imul, n := 2, op := fun _ a b _ => a * b },
   { ins := .imulh, n := 2, op := fun t a b _ => a * b / (2 ^ tyWidth t : Nat) }, { ins := .imad, n := 3, op := fun _ a b c => a * b + c },
   { ins := .imin, n := 2, op := fun _ a b _ => min a b }, { ins := .imax, n := 2, op := fun _ a b _ => max a b },
   { ins := .iabs, n := 1, op := fun _ a _ _ => (a.natAbs : Int) }, { ins := .ineg, n := 1, op := fun _ a _ _ => -a },
   { ins := .isad, n := 3, op := fun _ a b c => ((a - b).natAbs : Int) + c }]

/-- sat(x, T) of Table 0.4: kept within T's range, with SAT when it clamps. -/
def clamped (t : Ty) (x : Int) : Nat × Flags :=
  (wrapN (max (intMin t) (min (intMax t) x)) (tyWidth t), if x < intMin t ∨ intMax t < x then flSAT else 0)

/-- R123, Table 5.5: bitwise results of `w`-bit operands. -/
def bitRows : List (OpRow (Nat → Nat → Nat → Nat)) :=
  [{ ins := .mov, n := 1, op := fun _ a _ => a },
   { ins := .and_, n := 2, op := fun w a b => (BitVec.ofNat w a &&& BitVec.ofNat w b).toNat },
   { ins := .or_, n := 2, op := fun w a b => (BitVec.ofNat w a ||| BitVec.ofNat w b).toNat },
   { ins := .xor_, n := 2, op := fun w a b => (BitVec.ofNat w a ^^^ BitVec.ofNat w b).toNat },
   { ins := .not_, n := 1, op := fun w a _ => (~~~(BitVec.ofNat w a)).toNat },
   { ins := .andn, n := 2, op := fun w a b => (BitVec.ofNat w a &&& ~~~(BitVec.ofNat w b)).toNat },
   { ins := .popc, n := 1, op := fun w a _ => (List.range w).countP fun k => a.testBit k },
   { ins := .clz, n := 1, op := fun w a _ => (List.range w).findIdx fun k => a.testBit (w - 1 - k) },
   { ins := .ctz, n := 1, op := fun w a _ => (List.range w).findIdx fun k => a.testBit k },
   { ins := .brev, n := 1, op := fun w a _ => (List.range w).foldl (fun v k => v + if a.testBit k then 2 ^ (w - 1 - k) else 0) 0 },
   { ins := .bswap, n := 1, op := fun w a _ =>
      (List.range (w / 8)).foldl (fun v k => v + a / 2 ^ (8 * k) % 256 * 2 ^ (8 * (w / 8 - 1 - k))) 0 }]

/-- R124: shifts and bit fields of `w`-bit operands by a count or control. -/
def shiftRows : List (OpRow (Ty → Nat → Nat → Nat → Nat)) :=
  [{ ins := .shl, n := 2, op := fun t a _ c => (BitVec.ofNat (tyWidth t) a <<< (c % 256)).toNat },
   { ins := .shr, n := 2, op := fun t a _ c => (BitVec.ofNat (tyWidth t) a >>> (c % 256)).toNat },
   { ins := .sar, n := 2, op := fun t a _ c => ((BitVec.ofNat (tyWidth t) a).sshiftRight (c % 256)).toNat },
   { ins := .rot, n := 2, op := fun t a _ c => ((BitVec.ofNat (tyWidth t) a).rotateLeft (c % 256 % tyWidth t)).toNat },
   { ins := .bfx, n := 2, op := fun t a _ c =>
      let n := min (c / 256 % 256) (tyWidth t)
      let x := a / 2 ^ (c % 256) % 2 ^ n
      if tySigned t = true ∧ 0 < n then wrapN (sextN x n) (tyWidth t) else x },
   { ins := .bfi, n := 3, op := fun t a b c =>
      let w := tyWidth t
      let m := (2 ^ min (c / 256 % 256) w - 1) * 2 ^ (c % 256)
      ((BitVec.ofNat w b &&& ~~~(BitVec.ofNat w m)) |||
        (BitVec.ofNat w (a * 2 ^ (c % 256)) &&& BitVec.ofNat w m)).toNat }]

/-- R152, Table 6.2: expressions over exact values, rounded once. -/
def floatRows : List (OpRow (Machine.Num → Machine.Num → Machine.Num → Machine.Num × Flags)) :=
  [{ ins := .fadd, n := 2, op := fun a b _ => numAdd a b }, { ins := .fsub, n := 2, op := fun a b _ => numAdd a b.negate },
   { ins := .fmul, n := 2, op := fun a b _ => numMul a b }, { ins := .ffma, n := 3, op := fun a b c => numFma a b c },
   { ins := .ffms, n := 3, op := fun a b c => numFma a b c.negate }, { ins := .fnma, n := 3, op := fun a b c => numFma a.negate b c },
   vrRow .fdiv 2 (fun a b _ => numDiv a b), vrRow .fsqrt 1 (fun a _ _ => numSqrt a),
   vrRow .frcp 1 (fun a _ _ => numDiv (numOfNat 1) a),
   vrRow .flerp 3 (fun a b c => numLerp a b c)]

/-- The sources of a floating instruction, in order. -/
def numSrcs (s : State) (m : Form) (f : Fields) (n l : Nat) : List Machine.Num :=
  (List.range n).map fun k => numSrc s m f n k l

/-- R154, R155, R158, R159: results that are selected or rearranged, with no rounding of a sum and no flag. -/
def selectRows : List (OpRow (Fields → Ty → Nat → Nat → Nat → Nat)) :=
  [{ ins := .fmin, n := 2, op := fun _ t a b _ => fminmax t false a b }, { ins := .fmax, n := 2, op := fun _ t a b _ => fminmax t true a b },
   { ins := .fclmp, n := 3, op := fun _ t a b c => fminmax t false (fminmax t true a b) c },
   vrRow .fmaxa 2 (fun _ t a b _ => fmaxaBits t a b),
   vrRow .frelu 1 (fun _ t a _ _ => freluBits t a),
   vrRow .fabs 1 (fun _ t a _ _ => a % 2 ^ (tyWidth t - 1)),
   vrRow .fneg 1 (fun _ t a _ _ => (a + 2 ^ (tyWidth t - 1)) % 2 ^ tyWidth t),
   vrRow .fcpys 2 (fun _ t a b _ =>
      a % 2 ^ (tyWidth t - 1) + (if signBit t b then 2 ^ (tyWidth t - 1) else 0)),
   vrRow .frnd 1 (fun f t a _ _ => frndBits t (f.xf 12 2) a),
   vrRow .fgetm 1 (fun _ t a _ _ => fgetmBits t a)]

/-- The opcodes of the approximated functions (R160, Table 6.6). -/
def approxRows : List ((Guard → Fields → Instr) × Nat) :=
  [(.frsq, 0x43), (.fexp2, 0x44), (.flog2, 0x45), (.fsin, 0x46), (.fcos, 0x47), (.ftanh, 0x48), (.fsigm, 0x49)]

/-- A result Table 6.6 allows for an operand's bits: the value it lists, with its flags; else, with NX when finite and
UF below the smallest normal, a value within its bound, or the true value rounded. -/
def Allowed (op : Nat) (t : Ty) (a : Nat) (r : Nat × Flags) : Prop :=
  match approxListed op t (floatVal t a), floatVal t a with
  | some (v, fl), _ => r = ((roundFloat t v).1, fl)
  | none, .fin b n d =>
    (approxNear op t n d (approxTrue op b n d) (floatVal t r.1) = true ∨ r.1 = (roundFloat t (approxTrue op b n d)).1) ∧
    r.2 = match floatVal t r.1 with
      | .nan => 0
      | .inf _ => if op = 0x44 then flOF ||| flNX else 0
      | .fin _ _ _ => flNX ||| (if bitsOf r.1 (floatFmt t).f (floatFmt t).eb = 0 then flUF else 0)
  | none, _ => True

end Sys2Proof.Slice0

open Sys2Proof Sys2Proof.Machine Sys2Proof.Slice0

/-! ### Integer, logic and address results (05 R119-R127) -/

/-- R127: the all-zero word is a NOP, and a NOP changes nothing, whatever its guard fields hold. The PC, which R127 leaves to
change, is moved by the step, not by exec. -/
def Obligations.NopChangesNothing : Prop :=
  (∃ g f, decode 0 = .ok (.nop g f)) ∧ ∀ s i g f, s.cur = some i → exec (.nop g f) s = .next s

/-- R121, Table 5.3: the exact result kept to the width of T; IADDS and ISUBS clamp it to T's range, and set SAT when they
do (Table 0.4). R122: division and remainder; a divisor of zero gives 0, or A, and sets DZ. -/
def Obligations.IntegerArithmeticDelivers : Prop :=
  ((∀ r ∈ intRows, ∀ m ∈ r.forms, ∀ g f, (r.ins m g f).wf = true →
      Delivers (r.ins m g f) m g f (tyWidth (formTyD m f)) fun s l =>
        (wrapN (r.op (formTyD m f) (intSrc s m f r.n 0 l) (intSrc s m f r.n 1 l) (intSrc s m f r.n 2 l))
          (tyWidth (formTyD m f)), 0)) ∧
   (∀ m g f,
      ((Instr.iadds m g f).wf = true → Delivers (.iadds m g f) m g f (tyWidth (formTyD m f)) fun s l =>
        clamped (formTyD m f) (intSrc s m f 2 0 l + intSrc s m f 2 1 l)) ∧
      ((Instr.isubs m g f).wf = true → Delivers (.isubs m g f) m g f (tyWidth (formTyD m f)) fun s l =>
        clamped (formTyD m f) (intSrc s m f 2 0 l - intSrc s m f 2 1 l)))) ∧
  (∀ m g f,
     ((Instr.idiv m g f).wf = true → Delivers (.idiv m g f) m g f (tyWidth (formTyD m f)) fun s l =>
       if intSrc s m f 2 1 l = 0 then (0, flDZ)
       else (wrapN ((intSrc s m f 2 0 l).tdiv (intSrc s m f 2 1 l)) (tyWidth (formTyD m f)), 0)) ∧
     ((Instr.irem m g f).wf = true → Delivers (.irem m g f) m g f (tyWidth (formTyD m f)) fun s l =>
       if intSrc s m f 2 1 l = 0 then (bitSrc s m f 2 0 l, flDZ)
       else (wrapN (intSrc s m f 2 0 l - intSrc s m f 2 1 l * (intSrc s m f 2 0 l).tdiv (intSrc s m f 2 1 l))
         (tyWidth (formTyD m f)), 0)))

/-- R119 (MOV), R123, R124: bitwise results and counts; shifts and bit fields by a count or control. -/
def Obligations.BitwiseResultsDeliver : Prop :=
  (∀ r ∈ bitRows, ∀ m ∈ r.forms, ∀ g f, (r.ins m g f).wf = true →
     Delivers (r.ins m g f) m g f (tyWidth (formTyD m f)) fun s l =>
       (r.op (tyWidth (formTyD m f)) (bitSrc s m f r.n 0 l) (bitSrc s m f r.n 1 l), 0)) ∧
  (∀ r ∈ shiftRows, ∀ m ∈ r.forms, ∀ g f, (r.ins m g f).wf = true →
     Delivers (r.ins m g f) m g f (tyWidth (formTyD m f)) fun s l =>
       (r.op (formTyD m f) (bitSrc s m f r.n 0 l) (bitSrc s m f r.n 1 l) (ctlSrc s m f r.n l), 0))

/-- R121 (IMULW, IDOT4), R125, R119 (ISEL, PPACK): results whose width is not that of all their sources. -/
def Obligations.WideAndMixedResultsDeliver : Prop :=
  (∀ m g f, (Instr.imulw m g f).wf = true → Delivers (.imulw m g f) m g f (2 * tyWidth (formTyD m f)) fun s l =>
    (wrapN (intSrc s m f 2 0 l * intSrc s m f 2 1 l) (2 * tyWidth (formTyD m f)), 0)) ∧
  (∀ g f, (Instr.idot4 g f).wf = true → Delivers (.idot4 g f) .vr g f 32 fun s l =>
    let by' := fun (x k : Nat) => intVal (if tySigned (xTy f) then .i8 else .n8) (x / 2 ^ (8 * k) % 256)
    let p := fun k => by' (bitSrc s .vr f 3 0 l) k * by' (bitSrc s .vr f 3 1 l) k
    (wrapN (intSrc s .vr f 3 2 l + p 0 + p 1 + p 2 + p 3) 32, 0)) ∧
  (∀ m g f, (Instr.aadd m g f).wf = true → Delivers (.aadd m g f) m g f 64 fun s l =>
    (wrapN ((s.src m f (formTyD m f) 2 0 64 false l % 2 ^ 57 : Nat) + intSrc s m f 2 1 l) 57, 0)) ∧
  (∀ m g f, (Instr.alea m g f).wf = true → Delivers (.alea m g f) m g f 64 fun s l =>
    (wrapN ((s.src m f (formTyD m f) 2 0 64 false l % 2 ^ 57 : Nat) +
      intSrc s m f 2 1 l * (2 ^ f.xf 12 3 : Nat)) 57, 0)) ∧
  (∀ m g f, (Instr.isel m g f).wf = true → Delivers (.isel m g f) m g f (tyWidth (formTyD m f)) fun s l =>
    (if s.q (if m.isScalar && !s.iss.stream then s.iss.entry.headD 0 else l) (f.xf 12 5)
      then bitSrc s m f 2 0 l else bitSrc s m f 2 1 l, 0)) ∧
  (∀ g f, (Instr.ppack g f).wf = true → Delivers (.ppack g f) .vr g f 32 fun s l =>
    let old := s.vreg l f.d.toNat
    let p := 8 * f.xf 17 2
    (old % 2 ^ p + (s.pw l).toNat / 2 ^ f.xf 12 5 % 256 * 2 ^ p + old / 2 ^ (p + 8) * 2 ^ (p + 8), 0))

/-- R120, R126, R119 (PSET, PUNPK, PMOV), R156, R157, R174 (VVOTE): results in q[D[4:0]] of each lane, or of every fibre of
the entry in a scalar form; eight predicates from a byte; and the whole predicate word from or to a register. -/
def Obligations.PredicateResultsAreDecided : Prop :=
  ((∀ m g f, (Instr.icmp m g f).wf = true → Decides (.icmp m g f) m g f fun s l =>
     let a := intSrc s m f 2 0 l
     let b := intSrc s m f 2 1 l
     let x := bitSrc s m f 2 0 l &&& bitSrc s m f 2 1 l
     match f.d.toNat / 32 with
     | 0 => a == b | 1 => a != b | 2 => decide (a < b) | 3 => decide (a ≤ b)
     | 4 => decide (b < a) | 5 => decide (b ≤ a) | 6 => x != 0 | _ => x == 0) ∧
   (∀ m g f, (Instr.achk m g f).wf = true → Decides (.achk m g f) m g f fun s l =>
     let a := bitSrc s m f 3 0 l % 2 ^ 57
     let lo := bitSrc s m f 3 1 l % 2 ^ 57
     decide (lo ≤ a ∧ a - lo < bitSrc s m f 3 2 l)) ∧
   (∀ g f, (Instr.pset g f).wf = true → Decides (.pset g f) .vr g f fun s l =>
     (f.xf 22 4).testBit ((s.q l (f.xf 12 5)).toNat + 2 * (s.q l (f.xf 17 5)).toNat)) ∧
   (∀ m g f, (Instr.fcmp m g f).wf = true → Decides (.fcmp m g f) m g f fun s l =>
     let a := numSrc s m f 2 0 l
     let b := numSrc s m f 2 1 l
     let un := a.isNan || b.isNan
     match f.d.toNat / 32 with
     | 0 => numEq a b | 1 => !numEq a b | 2 => numLt a b | 3 => !un && !numLt b a
     | 4 => numLt b a | 5 => !un && !numLt a b | 6 => un | _ => !un) ∧
   (∀ g f, (Instr.fclass g f).wf = true → Decides (.fclass g f) .vr g f fun s l =>
     (f.xf 12 9).testBit (fclassOf (xTy f) (bitSrc s .vr f 1 0 l))) ∧
   (∀ g f, (Instr.vvote g f).wf = true → Decides (.vvote g f) .vr g f fun s _ =>
     let p := fun l => s.q l (f.xf 18 5)
     match f.xf 12 2 with
     | 0 => (s.active g).any p
     | 1 => (s.active g).all p
     | 2 => (s.active g).all p || (s.active g).all fun l => !p l
     | _ => (s.active g).all fun l => (s.active g).all fun k =>
         s.opA f (tyWidth (xTy f)) l == s.opA f (tyWidth (xTy f)) k)) ∧
  ((∀ g f, (Instr.punpk g f).wf = true →
     SetsPredicates (.punpk g f) (fun s => s.active g) (fun _ l => [l]) fun s l n =>
       if f.xf 12 5 ≤ n ∧ n < f.xf 12 5 + 8
       then some ((s.opA f 32 l).testBit (8 * f.xf 17 2 + (n - f.xf 12 5))) else none) ∧
   (∀ m g f, (Instr.pmov m g f).wf = true → f.xf 12 1 = 1 →
     SetsPredicates (.pmov m g f) (fun s => s.execs m g) (predLanes m) fun s l n =>
       some ((if m.isScalar then s.sreg l f.a.toNat else s.opA f 32 l).testBit n)) ∧
   (∀ m g f, (Instr.pmov m g f).wf = true → f.xf 12 1 = 0 →
     Delivers (.pmov m g f) m g f 32 fun s l =>
       ((s.pw (if m.isScalar && !s.iss.stream then s.iss.entry.headD 0 else l)).toNat, 0)))

/-! ### Floating point and conversions (06 R149-R167) -/

/-- R150, R153: NaN when a source is NaN, with no flag; else the exact expression rounded once, with the flags of
Table 4.8. R154, R155, R158, R159: results that are selected or rearranged set no flag. -/
def Obligations.FloatResultsDeliver : Prop :=
  ((∀ r ∈ floatRows, ∀ m ∈ r.forms, ∀ g f, (r.ins m g f).wf = true →
     Delivers (r.ins m g f) m g f (tyWidth (formTyD m f)) fun s l =>
       let xs := numSrcs s m f r.n l
       if xs.any Machine.Num.isNan then ((floatFmt (formTyD m f)).nanBits, 0)
       else
         let e := r.op (xs.getD 0 .nan) (xs.getD 1 .nan) (xs.getD 2 .nan)
         ((roundFloat (formTyD m f) e.1).1, (roundFloat (formTyD m f) e.1).2 ||| e.2)) ∧
   (∀ m g f, (Instr.fscale m g f).wf = true →
     Delivers (.fscale m g f) m g f (tyWidth (formTyD m f)) fun s l =>
       fscaleVal (formTyD m f) (floatVal (formTyD m f) (bitSrc s m f 2 0 l)) (sextN (ctlSrc s m f 2 l) 32)) ∧
   (∀ g f, (Instr.fdot2 g f).wf = true →
     Delivers (.fdot2 g f) .vr g f 32 fun s l =>
       fdot2Val (xTy2 f) (bitSrc s .vr f 3 0 l) (bitSrc s .vr f 3 1 l) (bitSrc s .vr f 3 2 l)) ∧
   (∀ g f, (Instr.ffrac g f).wf = true →
     Delivers (.ffrac g f) .vr g f (tyWidth (xTy f)) fun s l => ffracVal (xTy f) (bitSrc s .vr f 1 0 l))) ∧
  ((∀ r ∈ selectRows, ∀ m ∈ r.forms, ∀ g f, (r.ins m g f).wf = true →
     Delivers (r.ins m g f) m g f (tyWidth (formTyD m f)) fun s l =>
       (r.op f (formTyD m f) (bitSrc s m f r.n 0 l) (bitSrc s m f r.n 1 l) (bitSrc s m f r.n 2 l), 0)) ∧
   (∀ g f, (Instr.fgete g f).wf = true →
     Delivers (.fgete g f) .vr g f 32 fun s l =>
       match numSrc s .vr f 1 0 l with
       | .nan | .inf _ => (0x7FFFFFFF, 0)
       | .fin _ n d => (if n = 0 then 0x80000000 else wrapN (log2Frac n d) 32, 0)))

/-- R160, R161: an approximated function delivers what Table 6.6 allows, the same for every operand with the same
bits. -/
def Obligations.ApproximationsStayInBounds : Prop :=
  ∀ r ∈ approxRows, ∀ g f, (r.1 g f).wf = true →
    ∃ val : Nat → Nat × Flags, (∀ a, Allowed r.2 (xTy f) a (val a)) ∧
      Delivers (r.1 g f) .vr g f (tyWidth (xTy f)) fun s l => val (bitSrc s .vr f 1 0 l)

/-- R162, R163: conversions between integers and floating values, and between integers. -/
def Obligations.ConversionsDeliver : Prop :=
  (∀ g f, (Instr.fcvt g f).wf = true →
    Delivers (.fcvt g f) .vr g f (tyWidth (xTy f)) fun s l =>
      let x := tyVal (xTy2 f) (s.opA f (tyWidth (xTy2 f)) l)
      if tyInt (xTy f) = true then
        match x with
        | .nan => (0, flNV)
        | .inf b => (wrapN (if b then intMin (xTy f) else intMax (xTy f)) (tyWidth (xTy f)), flSAT ||| flNV)
        | .fin b n d =>
          let k := integral (f.xf 12 2) (decide (tyWidth (xTy f) < 16)) b n d
          let c := clamped (xTy f) k
          (c.1, c.2 ||| if c.2 = 0 ∧ x.snum = k * (x.den : Int) then 0 else flNX)
      else roundFloat (xTy f) x) ∧
  (∀ g f, (Instr.icvt g f).wf = true →
    Delivers (.icvt g f) .vr g f (tyWidth (xTy f)) fun s l =>
      clamped (xTy f) (intVal (xTy2 f) (s.opA f (tyWidth (xTy2 f)) l)))

/-! ### Block quantisation and ranking (06 R164-R167) -/

/-- R98, R164: a block quantised from active: payload, descriptor word and flags. Element e comes from lane e mod W, and
is zero when that lane is not active. -/
def quantised (s : State) (g : Guard) (f : Fields) : Nat × Nat × Flags :=
  bxBlock (xTy f) false ((List.range (bxElems (xTy f))).map fun e =>
    if (s.active g).contains (e % s.iss.width)
    then floatVal (xTy2 f) (s.vreg (e % s.iss.width) (f.a.toNat + e / s.iss.width) % 2 ^ tyWidth (xTy2 f))
    else numZero false)

/-- R165: QNT writes payload word j to lane j mod W and the descriptor word to s[S]; DQNT gives element e to lane
e mod W, read under the scale of that lane's s[S], in the E / W registers from v[D] of each lane. -/
def Obligations.BlocksQuantiseAndReturn : Prop :=
  (∀ g f, (Instr.qnt g f).wf = true → ∀ s i, Sound s i → i.width ≠ 0 → ∃ t, exec (.qnt g f) s = .next t ∧
    (∀ j, j < 16 → (s.active g).contains (j % i.width) = true → ∀ h k, i.at? (j % i.width) = some (h, k) →
      (t.group h).reg k (f.d.toNat + j / i.width) = (quantised s g f).1 / 2 ^ (32 * j) % 2 ^ 32) ∧
    (∀ l ∈ s.onceUnits g, ∀ h k, i.at? l = some (h, k) →
      (t.group h).scal (f.xf 12 6) = (quantised s g f).2.1 % 2 ^ 64) ∧
    (∀ l ∈ s.active g, ∀ h k, i.at? l = some (h, k) →
      (t.sharedOf h).flags = (s.sharedOf h).flags ||| (quantised s g f).2.2) ∧
    Frame
      { reg := fun h k n => decide (f.d.toNat ≤ n ∧ n ≤ f.d.toNat + 15 / i.width) &&
          carries i (s.active g) fun a b => a == h && b == k
        scal := fun h n => n == f.xf 12 6 && carries i (s.onceUnits g) fun a _ => a == h
        flags := fun h => (quantised s g f).2.2 != 0 && flagged s i (s.active g) h } s t) ∧
  (∀ g f, (Instr.dqnt g f).wf = true → ∀ s i, Sound s i → i.width ≠ 0 → ∃ t, exec (.dqnt g f) s = .next t ∧
    let pay := (List.range 16).foldl (fun p j => p + s.vreg (j % i.width) (f.a.toNat + j / i.width) * 2 ^ (32 * j)) 0
    let val := fun e => roundFloat (xTy f)
      (bxElem (xTy2 f) pay (s.sreg (e % i.width) (f.xf 12 6) / 256 % 256) e)
    let es := (List.range (bxElems (xTy2 f))).filter fun e => (s.active g).contains (e % i.width)
    (∀ e ∈ es, ∀ h k, i.at? (e % i.width) = some (h, k) →
      (t.group h).reg k (f.d.toNat + e / i.width) = (val e).1 % 2 ^ tyWidth (xTy f)) ∧
    (∀ l ∈ s.active g, ∀ h k, i.at? l = some (h, k) →
      (t.sharedOf h).flags = (s.sharedOf h).flags ||| orFlags es fun e => (val e).2) ∧
    Frame
      { reg := fun h k n => decide (f.d.toNat ≤ n ∧ n < f.d.toNat + (bxElems (xTy2 f) + i.width - 1) / i.width) &&
          carries i (s.active g) fun a b => a == h && b == k
        flags := fun h => orFlags es (fun e => (val e).2) != 0 && flagged s i (s.active g) h } s t)

namespace Sys2Proof.Slice0

/-- The instruction completes: each lane of active takes a value in D and a value of predicate `p`; nothing else
changes. -/
def DeliversBoth (ins : Instr) (g : Guard) (f : Fields) (w p : Nat) (val : State → Nat → Nat) (bit : State → Nat → Bool) :
    Prop :=
  ∀ s i, Sound s i → ∃ t, exec ins s = .next t ∧
    (∀ l ∈ s.active g, Result t i .vr f w l (val s l) ∧
      ∀ h j, i.at? l = some (h, j) → ((t.group h).pred j).getLsbD p = bit s l) ∧
    Frame { reg := (wroteD s i .vr f w (s.active g) false).reg
            pred := fun h j n => n == p && carries i (s.active g) fun a b => a == h && b == j } s t

/-- R167: a lane's run, and whether its value is kept: fewer than n lanes of the run rank before it. -/
def inRun (f : Fields) (l k : Nat) : Bool := k / (4 * 2 ^ f.xf 12 2) == l / (4 * 2 ^ f.xf 12 2)
def kept (s : State) (g : Guard) (f : Fields) (l : Nat) : Bool :=
  let val := fun l => s.opA f (tyWidth (xTy f)) l
  decide (((s.active g).filter fun k => inRun f l k && vspkBefore (xTy f) (k, val k) (l, val l)).length < f.xf 14 5)

end Sys2Proof.Slice0

/-- R166, R167, R175, R176: VSPK, VCMPX and VMATCH deliver a value and a predicate to each lane of active, and VCOMP
packs selected values into the lowest lanes of active. -/
def Obligations.RankingAndMatchingDeliver : Prop :=
  (∀ g f, (Instr.vspk g f).wf = true →
    DeliversBoth (.vspk g f) g f (tyWidth (xTy f)) (f.xf 20 5)
      (fun s l =>
        let val := fun l => s.opA f (tyWidth (xTy f)) l
        let run := (s.active g).filter (inRun f l)
        if f.xf 19 1 = 0 then (if kept s g f l then val l else 0)
        else (((run.filter (kept s g f))[(run.filter (· < l)).length]?).map val).getD 0)
      (fun s l => kept s g f l)) ∧
  (∀ g f, (Instr.vcmpx g f).wf = true →
    DeliversBoth (.vcmpx g f) g f (tyWidth (xTy f)) (f.xf 18 5)
      (fun s l =>
        let a := s.opA f (tyWidth (xTy f)) l
        let b := s.opB f (tyWidth (xTy f)) l
        let ascending := (l / 2 ^ f.xf 12 3 % 2 == 0) != (f.xf 15 1 == 1)
        let low := l / 2 ^ (f.bp.toNat - 2) % 2 == 0
        if (if low == ascending then vcmpxLt (xTy f) b a else vcmpxLt (xTy f) a b) then b else a)
      (fun s l =>
        let a := s.opA f (tyWidth (xTy f)) l
        let b := s.opB f (tyWidth (xTy f)) l
        let ascending := (l / 2 ^ f.xf 12 3 % 2 == 0) != (f.xf 15 1 == 1)
        let low := l / 2 ^ (f.bp.toNat - 2) % 2 == 0
        if low == ascending then vcmpxLt (xTy f) b a else vcmpxLt (xTy f) a b)) ∧
  (∀ g f, (Instr.vmatch g f).wf = true →
    let first := fun (s : State) l =>
      ((s.active g).find? fun k => s.opA f (tyWidth (xTy f)) k == s.opA f (tyWidth (xTy f)) l).getD l
    DeliversBoth (.vmatch g f) g f 32 (f.xf 18 5) first fun s l => first s l == l) ∧
  (∀ g f, (Instr.vcomp g f).wf = true →
    Delivers (.vcomp g f) .vr g f (tyWidth (xTy f)) fun s l =>
      let chosen := (s.active g).filter fun k => s.q k (f.xf 18 5)
      (((chosen[(s.active g).idxOf l]?).map fun k => s.opA f (tyWidth (xTy f)) k).getD 0, 0))

/-! ### Shuffles, reductions and ballots (06 R168-R174) -/

/-- R169: each lane of active takes A of another lane, as its control and the mode say. R174: the ballot mask of a predicate
over active, its count, or each lane's count of the lanes below it. -/
def Obligations.ShufflesAndBallotsDeliver : Prop :=
  ((∀ g f, (Instr.shfl g f).wf = true →
     Delivers (.shfl g f) .vr g f (tyWidth (xTy f)) fun s l =>
       let b := s.opB f 32 l % 64
       let w := s.iss.width
       (s.opA f (tyWidth (xTy f)) (match f.xf 12 2 with
         | 0 => b % w
         | 1 => if b ≤ l then l - b else l
         | 2 => if l + b < w then l + b else l
         | _ => if l ^^^ b < w then l ^^^ b else l), 0)) ∧
   (∀ m g f, (Instr.shfli m g f).wf = true →
     Delivers (.shfli m g f) m g f (tyWidth (formTyD m f)) fun s l =>
       let b := f.xf 14 6
       let w := s.iss.width
       (s.opA f (tyWidth (formTyD m f)) (match f.xf 12 2 with
         | 0 => b % w
         | 1 => if b ≤ l then l - b else l
         | 2 => if l + b < w then l + b else l
         | _ => if l ^^^ b < w then l ^^^ b else l), 0))) ∧
  (∀ g f, (Instr.vbal g f).wf = true →
     let votes := fun (s : State) => (s.active g).filter fun l => s.q l (f.xf 18 5)
     if f.xf 12 2 = 2 then
       ∀ s i, Sound s i → (∀ l ∈ i.entry, l < 64) → ∃ t, exec (.vbal g f) s = .next t ∧
         (∀ l ∈ s.active g, Result t i .vr f 32 l ((votes s).filter (· < l)).length) ∧
         Frame (wroteD s i .vr f 32 (s.active g) false) s t
     else
       ∀ s i, Sound s i → (∀ l ∈ i.entry, l < 64) → ∃ t, exec (.vbal g f) s = .next t ∧
         (∀ l ∈ s.onceUnits g, Result t i .sr f 64 l
           (if f.xf 12 2 = 0 then (votes s).foldl (fun m k => m + 2 ^ k) 0 else (votes s).length)) ∧
         Frame (wroteD s i .sr f 64 (s.onceUnits g) false) s t)

/-- R111, R170-R173: the tree of VRED, and the steps of VSCAN and VSEGS, over the values of active with the operation's
identity elsewhere. -/
def Obligations.CombiningFollowsTheTree : Prop :=
  (∀ g f, (Instr.vred g f).wf = true →
    let tree := fun (s : State) => (doublings s.iss.width).foldl (fun t d => redStep (xTy f) (f.xf 12 4) d t) (s.combIn g f)
    if f.xf 16 1 = 1 then
      DeliversIn (.vred g f) (fun s => s.onceUnits g) .sr f (tyWidth (xTy f)) fun s _ =>
        (laneAt (tree s) 0, ((tree s).headD (0, 0)).2)
    else
      Delivers (.vred g f) .vr g f (tyWidth (xTy f)) fun s _ => (laneAt (tree s) 0, ((tree s).headD (0, 0)).2)) ∧
  (∀ g f, (Instr.vscan g f).wf = true →
    Delivers (.vscan g f) .vr g f (tyWidth (xTy f)) fun s l =>
      let scan := (doublings s.iss.width).foldl (fun t d => scanStep (xTy f) (f.xf 12 4) d t) (s.combIn g f)
      (if f.xf 17 1 = 0 then laneAt scan l
        else if l = 0 then combId (xTy f) (f.xf 12 4) else laneAt scan (l - 1), orAll scan)) ∧
  (∀ g f, (Instr.vsegs g f).wf = true →
    Delivers (.vsegs g f) .vr g f (tyWidth (xTy f)) fun s l =>
      let heads := (List.range s.iss.width).map fun k => k == 0 || ((s.active g).contains k && s.q k (f.xf 18 5))
      let scan := ((doublings s.iss.width).foldl (fun th d => segStep (xTy f) (f.xf 12 4) d th.1 th.2)
        (s.combIn g f, heads)).1
      (laneAt scan l, orAll scan))

/-! ### Local memory (07 R181-R187, 08 R196-R203) -/

namespace Sys2Proof.Slice0

/-- The byte of a place that lies `k` above it. -/
def placePlus (p : Place) (k : Nat) : Place :=
  match p with
  | .scr c a => .scr c (a + k)
  | .reg g j n o => .reg g j n (o + k)

/-- How far above a piece's first byte a place lies, if the piece covers it. -/
def covers (p : Piece) (q : Place) : Option Nat := (List.range p.z).find? fun k => placePlus p.place k == q

/-- A byte of a scratchpad, or of a lane-register or stream scalar under its aperture name (R182), as it stands. -/
def byteAt (s : State) (q : Place) : Nat := State.placeLoad { s with cur := none } q 1

/-- A place that exists and that no armed watch may rewrite: any scratchpad byte, or a byte of a register of a lane. -/
def Quiet (s : State) (q : Place) : Prop :=
  match q with
  | .scr _ _ => True
  | .reg g j n o => (Tab.get? s.groups g).isSome ∧ j < (s.group g).lanes.length ∧ o < 4 ∧ (s.group g).watch = none ∧
      ((s.teamOf (s.group g).team).stream = true → j = 0 ∧ n < 96)

/-- The value that the last of the pieces covering a byte gives it. -/
def lastByte (ps : List (Piece × Nat)) (q : Place) : Option Nat :=
  ps.reverse.findSome? fun p => (covers p.1 q).map fun k => p.2 / 2 ^ (8 * k) % 256

/-- Whether one of the pieces stores all of a scratchpad word, or of a lane-register under its aperture name: its check
bits are then new (R187). -/
def wordStored (ps : List (Piece × Nat)) (k w : Nat) : Bool :=
  ps.any fun p => (covers p.1 (.scr k (4 * w))).isSome && (covers p.1 (.scr k (4 * w + 3))).isSome
def regStored (ps : List (Piece × Nat)) (g j n : Nat) : Bool :=
  ps.any fun p => (covers p.1 (.reg g j n 0)).isSome && (covers p.1 (.reg g j n 3)).isSome

/-- Stores of pieces, in order: each byte they cover holds the last value given it, and every other byte of a
scratchpad or lane-register is as before, `but` aside; so are the errors of the words not stored whole. A group without a
watch keeps all but the registers stored to, and its sticky flags where `fl` names it; a group with one may wake (R144).
Nothing else changes, device memory and every special register included. -/
def Stored (s t : State) (ps : List (Piece × Nat)) (but : Place → Bool) (fl : Nat → Bool) : Prop :=
  (∀ q, Quiet s q → but q = false → byteAt t q = (lastByte ps q).getD (byteAt s q)) ∧
  (∀ g, (s.group g).watch = none →
    t.group g = { s.group g with
      lanes := (t.group g).lanes, scalars := (t.group g).scalars, badScal := (t.group g).badScal
      shared := { (s.group g).shared with flags := (t.group g).shared.flags } } ∧
    (∀ j n, Quiet s (.reg g j n 0) → but (.reg g j n 0) = false →
      t.apError g j n = if regStored ps g j n then none else s.apError g j n) ∧
    (∀ n, n < 48 ∨ (s.teamOf (s.group g).team).stream = false → (t.group g).scal n = (s.group g).scal n) ∧
    (t.group g).lanes.map (fun l => { l with regs := [], bad := [] }) =
      (s.group g).lanes.map fun l => { l with regs := [], bad := [] }) ∧
  (∀ g, (s.group g).watch = none → fl g = false → (t.sharedOf g).flags = (s.sharedOf g).flags) ∧
  (∀ k, t.teamOf k = { s.teamOf k with
    shared := { (s.teamOf k).shared with flags := (t.teamOf k).shared.flags } }) ∧
  (∀ k, t.core k = { s.core k with badWords := (t.core k).badWords } ∧
    ∀ w, Tab.get? (t.core k).badWords w = if wordStored ps k w then none else Tab.get? (s.core k).badWords w) ∧
  t = { s with groups := t.groups, scratch := t.scratch, cores := t.cores, teams := t.teams } ∧
  ∀ pa, t.paByte pa = s.paByte pa

/-- The pieces of an MS instruction, computed as its meaning computes them, when every check of Table 8.2 passes and no
word it reads is lost, with the state after the reads' own effects: corrected errors repaired and logged (R187), and
accesses to other cores noted as under way (R200). -/
def Placed (s : State) (kind : MsKind) (f : Fields) (z n : Nat) (ls : List Nat) (reads : Bool) (ps : List Piece)
    (s' : State) : Prop :=
  ls ≠ [] ∧ s.msPlaces kind f z n ls = .ok ps ∧
    (if reads then
      let r := s.readPieces (ps ++ s.blockPieces kind f z n ls)
      r.2 = true ∧ s' = r.1.noteRemote ps
    else s' = s.noteRemote ps)

/-- A load, a store and an atomic of Table 8.1: its address kind, bytes of a piece, and count of registers (LDSB). -/
structure MsRow where
  ins : Guard → Fields → Instr
  kind : MsKind
  z : Fields → Nat := msBytes
  n : Fields → Nat := fun _ => 0
  once : Bool := false

def loadRows : List MsRow :=
  [⟨.lds, .window, msBytes, fun _ => 0, false⟩, ⟨.ldsb, .window, fun _ => 4, fun f => f.xf 26 4 + 1, false⟩,
   ⟨.ldsl, .slot, msBytes, fun _ => 0, false⟩, ⟨.lda, .onchip, msBytes, fun _ => 0, false⟩,
   ⟨.ldc, .slice, msBytes, fun _ => 0, false⟩, ⟨.ldss, .window, msBytes, fun _ => 0, true⟩]
def storeRows : List MsRow :=
  [⟨.sts, .window, msBytes, fun _ => 0, false⟩, ⟨.stsl, .slot, msBytes, fun _ => 0, false⟩,
   ⟨.sta, .onchip, msBytes, fun _ => 0, false⟩, ⟨.stc, .slice, msBytes, fun _ => 0, false⟩,
   ⟨.stss, .window, msBytes, fun _ => 0, true⟩]
def atomicRows : List MsRow :=
  [⟨.ats, .window, msBytes, fun _ => 0, false⟩, ⟨.ata, .onchip, msBytes, fun _ => 0, false⟩,
   ⟨.atc, .slice, msBytes, fun _ => 0, false⟩]

/-- The lanes whose accesses an MS instruction makes: active, or one execution (R199). -/
def MsRow.lanes (r : MsRow) (s : State) (g : Guard) : List Nat := if r.once then s.onceUnits g else s.active g

end Sys2Proof.Slice0

/-- R199: a load whose checks pass puts each piece's bytes, as they stood before the instruction, in its register,
zero-extended (a pair for eight bytes, a scalar for LDSS), and changes nothing else. -/
def Obligations.LoadsDeliverTheBytes : Prop :=
  ∀ r ∈ loadRows, ∀ g f, (r.ins g f).wf = true → ∀ s i, Sound s i →
    ∀ ps s', Placed s r.kind f (r.z f) (r.n f) (r.lanes s g) true ps s' → ∃ t, exec (r.ins g f) s = .next t ∧
      (∀ p ∈ ps, ∀ h j, i.at? p.lane = some (h, j) →
        let v := s'.placeLoad p.place p.z
        if r.once = true then (t.group h).scal f.d.toNat = v % 2 ^ 64
        else if p.z = 8 then (t.group h).reg j f.d.toNat = v % 2 ^ 32 ∧ (t.group h).reg j (f.d.toNat + 1) = v / 2 ^ 32 % 2 ^ 32
        else (t.group h).reg j (f.d.toNat + p.j) = v % 2 ^ 32) ∧
      Frame
        { reg := fun h j n => !r.once &&
            decide (f.d.toNat ≤ n ∧ n < f.d.toNat + (if r.n f ≠ 0 then r.n f else if msBytes f = 8 then 2 else 1)) &&
            carries i (r.lanes s g) fun a b => a == h && b == j
          scal := fun h n => r.once && n == f.d.toNat && carries i (r.lanes s g) fun a _ => a == h } s' t

/-- R199: a store whose checks pass writes its pieces in ascending order of lanes, at the places the checks computed. -/
def Obligations.StoresWriteOnlyTheirPlaces : Prop :=
  ∀ r ∈ storeRows, ∀ g f, (r.ins g f).wf = true → ∀ s i, Sound s i →
    ∀ ps s', Placed s r.kind f (r.z f) 0 (r.lanes s g) false ps s' → ∃ t, exec (r.ins g f) s = .next t ∧
      Stored s' t
        (ps.map fun p => (p, if r.once then s.sreg p.lane f.c.toNat else s.opC f (tyWidth (msTy f)) p.lane / 2 ^ (32 * p.j)))
        (fun _ => false) (fun _ => false)

/-- R202, R203: an atomic is a chain over ascending lanes: each takes the old value at its place, as the lanes before it
left it, stores the new one, and returns the old one in D; flags are set together. -/
def Obligations.AtomicsChainOverLanes : Prop :=
  ∀ r ∈ atomicRows, ∀ g f, (r.ins g f).wf = true → ∀ s i, Sound s i →
    ∀ ps s', Placed s r.kind f (r.z f) 0 (s.active g) true ps s' → ∃ t, exec (r.ins g f) s = .next t ∧
      ∃ ch : List (Piece × Nat × Nat × Flags), ch.map Prod.fst = ps ∧
      (∀ k (hk : k < ch.length),
        let x := ch[k]
        (x.2.2.1, x.2.2.2) = atomicNew (f.xf 26 4) (msTy f) x.2.1 (s'.opC f (tyWidth (msTy f)) x.1.lane)
          (s'.opB f (tyWidth (msTy f)) x.1.lane) ∧
        x.2.1 = (((ch.take k).reverse.find? fun y => y.1.place == x.1.place).map fun y => y.2.2.1).getD
          (s'.placeLoad x.1.place x.1.z)) ∧
      (∀ x ∈ ch, ∀ h j, i.at? x.1.lane = some (h, j) → (s'.group h).watch = none →
        Result t i .vr f (tyWidth (msTy f)) x.1.lane x.2.1 ∧
        (t.sharedOf h).flags = (s'.sharedOf h).flags ||| List.foldl (fun a y => a ||| y.2.2.2) 0 ch) ∧
      Stored s' t (ch.map fun x => (x.1, x.2.2.1))
        (fun q => match q with
          | .reg h j n _ => inD f (tyWidth (msTy f)) n && carries i (s.active g) fun a b => a == h && b == j
          | .scr _ _ => false)
        (flagged s i (s.active g))

/-- R198, Table 8.2: the checks are made over every lane before any access, in the table's order. A misaligned lane raises
0x24, a lane outside its window or slice 0x26, an on-chip address that names no place of the context on the core 0x26 or
0x27, with the address of the lowest failing lane. With no lane, nothing happens. R187: a load or atomic whose checks pass,
and one of whose words cannot be corrected, raises 0x74 for a scratchpad word and 0x73 for a lane-register, with no effect. -/
def Obligations.LocalChecksRaiseInOrder : Prop :=
  (∀ r ∈ loadRows ++ storeRows ++ atomicRows, ∀ g f, (r.ins g f).wf = true → ∀ s i, Sound s i → 
     let z := r.z f
     let acc := fun l => s.msAcc r.kind f z (r.n f) l
     let bad := fun (p : MsAcc → Bool) => ((r.lanes s g).find? fun l => p (acc l)).map fun l => wrapN (acc l).base 57
     let mis := bad fun a => a.base % ((if r.n f ≠ 0 ∨ r.kind = .slot then 4 else z : Nat) : Int) != 0
     let out := bad (s.msOutside r.kind)
     let no := fun (c : Nat) => bad fun a => a.pieces.any fun p =>
       match s.msPlace r.kind a p with | .error e => e == c | .ok _ => false
     (r.lanes s g = [] → exec (r.ins g f) s = .next s) ∧
     (∀ ea, mis = some ea → exec (r.ins g f) s = .next (s.raise 0x24 1 ea)) ∧
     (∀ ea, mis = none → out = some ea → exec (r.ins g f) s = .next (s.raise 0x26 1 ea)) ∧
     (∀ ea, mis = none → out = none → no 0x26 = some ea → exec (r.ins g f) s = .next (s.raise 0x26 1 ea)) ∧
     (∀ ea, mis = none → out = none → no 0x26 = none → no 0x27 = some ea →
       exec (r.ins g f) s = .next (s.raise 0x27 1 ea))) ∧
  (∀ r ∈ loadRows ++ atomicRows, ∀ g f, (r.ins g f).wf = true → ∀ s i, Sound s i → r.lanes s g ≠ [] →
     ∀ ps p, s.msPlaces r.kind f (r.z f) (r.n f) (r.lanes s g) = .ok ps →
       (ps ++ s.blockPieces r.kind f (r.z f) (r.n f) (r.lanes s g)).find? (fun p => s.placeLost p.place p.z) = some p →
       exec (r.ins g f) s = .next (s.raise (match p.place with | .scr _ _ => 0x74 | .reg _ _ _ _ => 0x73)))

/-! ### Extended register blocks (08 R204-R209) -/

namespace Sys2Proof.Slice0

/-- Everything of the machine but the tables of groups, teams, cores and the issue is as before, and every group but
`gs`, every team but `ts` and every core but `ks`. -/
def OthersKept (s t : State) (gs ts ks : List Nat) : Prop :=
  t = { s with groups := t.groups, teams := t.teams, cores := t.cores, cur := t.cur, free := t.free } ∧
  (∀ g, g ∉ gs → t.group g = s.group g) ∧ (∀ k, k ∉ ts → t.teamOf k = s.teamOf k) ∧
  (∀ k, k ∉ ks → t.core k = s.core k) ∧ ∀ pa, t.paByte pa = s.paByte pa

/-- A group but for where its registers stand in the core's register file (R178). -/
def Unplaced (a : Group) : Group := { a with extAt := [], lanes := a.lanes.map fun l => { l with wbase := 0 } }

/-- The same where blocks are granted: a core that closes the gaps of its register file moves other groups' registers, and
changes nothing else of them (R178, log entry 13). -/
def OthersMoved (s t : State) (gs ts ks : List Nat) : Prop :=
  t = { s with groups := t.groups, teams := t.teams, cores := t.cores, cur := t.cur, free := t.free } ∧
  (∀ g, g ∉ gs → Unplaced (t.group g) = Unplaced (s.group g)) ∧ (∀ k, k ∉ ts → t.teamOf k = s.teamOf k) ∧
  (∀ k, k ∉ ks → t.core k = s.core k) ∧ ∀ pa, t.paByte pa = s.paByte pa

/-- A group after its extended blocks became those of `ext`: registers of the blocks kept, scalars, predicates and
everything else as before. -/
def BlocksOnly (a b : Group) (keep : Nat) : Prop :=
  b = { a with ext := a.ext.take keep, extAt := a.extAt.take keep, holder := b.holder, lanes := b.lanes } ∧
  b.lanes.map (fun l => { l with regs := [], bad := [] }) = a.lanes.map (fun l => { l with regs := [], bad := [] }) ∧
  ∀ j n, n < 64 + 32 * keep → b.reg j n = a.reg j n ∧
    ∀ x y, a.lanes[j]? = some x → b.lanes[j]? = some y → Tab.get? y.bad n = Tab.get? x.bad n

/-- R55, R331: in a stream kernel an instruction of groups only raises 0x30 before its own checks. -/
def StopsInStream (ins : Instr) (g : Guard) : Prop :=
  ins.wf = true → ∀ s : State, s.iss.stream = true → s.executes ins g = true → s.gate [ins] = (s.raise 0x30, false)

/-- R206: the lane-registers that blocks hold and whether they came from the reserve. -/
def fromPool (gr : Group) (n : Nat) : Nat := ((gr.ext.drop n).filter fun b => !b.2).length * (gr.width * 32)
def fromReserve (gr : Group) (n : Nat) : Nat := ((gr.ext.drop n).filter fun b => b.2).length * (gr.width * 32)

end Sys2Proof.Slice0

/-- R207: XREL lowers h to n, and its blocks go back where they came from; with n not below h it has no effect. R208:
with n not above h, WINSET does the same and writes 1; in a stream kernel, where h and extmax are 0, each execution writes 1
for a count of 0, and one with another count raises 0x45. R55: there XACQ and XREL raise 0x30. -/
def Obligations.ReleasedBlocksGoBack : Prop :=
  (∀ s i, Sound s i → i.stream = false → ∀ m g f u, s.scalarUnits g = [u] →
    let gr := s.group i.gid
    let n := s.blockCount m f u
    let drops := fun (t : State) =>
      (t.group i.gid).h = n ∧
      (t.core gr.core).pool = (s.core gr.core).pool + (if gr.core < 512 then fromPool gr n else 0) ∧
      (t.teamOf i.team).reserve = (s.teamOf i.team).reserve.modify ((s.teamOf i.team).coreIx gr)
        (fun r => r + fromReserve gr n) ∧
      OthersKept s t [i.gid] [i.team] [gr.core]
    ((Instr.xrel m g f).wf = true →
      (gr.h ≤ n → exec (.xrel m g f) s = .next s) ∧
      (n < gr.h → s.blockPending i.gid n = false → ∃ t, exec (.xrel m g f) s = .next t ∧ drops t ∧
        BlocksOnly gr (t.group i.gid) n)) ∧
    ((Instr.winset m g f).wf = true → i.out = .done → n ≤ (s.roleOf i.gid).extmax → n ≤ gr.h →
      (n < gr.h → s.blockPending i.gid n = false) →
      ∃ t, exec (.winset m g f) s = .next t ∧ drops t ∧
        ∀ k ∈ i.entry, ∀ j, i.at? k = some (i.gid, j) →
          ((t.group i.gid).pred j).getLsbD (f.d.toNat % 32) = true ∧
          ∀ r, r < 64 + 32 * n → (t.group i.gid).reg j r = gr.reg j r)) ∧
  (∀ m g f, StopsInStream (.xacq m g f) g ∧ StopsInStream (.xrel m g f) g) ∧
  (∀ s i, Sound s i → i.stream = true → ∀ m g f,
    ((Instr.winset m g f).wf = true → i.out = .done → (∀ h, (s.roleOf h).extmax = 0 ∧ (s.group h).ext = []) →
      ((∀ u ∈ s.active g, s.blockCount m f u = 0) → ∃ t, exec (.winset m g f) s = .next t ∧
        ∀ u ∈ s.active g, ∀ h j, i.at? u = some (h, j) → ((t.group h).pred j).getLsbD (f.d.toNat % 32) = true) ∧
      (∀ u, s.active g = [u] → s.blockCount m f u ≠ 0 → exec (.winset m g f) s = .next (s.raise 0x45))))

/-- R205, R206, R208: XACQ to n at or below h has no effect; above it, the group waits, and XACQ_GRANT gives it all of
its blocks at once, from the general pool if they fit, else from its team's reserve; WINSET takes them at once if
XACQ_GRANT would, writing 1, and else changes nothing, writing 0. -/
def Obligations.GrantedBlocksArrive : Prop :=
  (∀ s i, Sound s i → i.stream = false → ∀ m g f u, s.scalarUnits g = [u] →
    let gr := s.group i.gid
    let n := s.blockCount m f u
    ((Instr.xacq m g f).wf = true → n ≤ (s.roleOf i.gid).extmax →
      (n ≤ gr.h → exec (.xacq m g f) s = .next s) ∧
      (gr.h < n → ∃ t, exec (.xacq m g f) s = .next t ∧
        (t.group i.gid).parked = some { wait := .xacq n s.cycle, pc := i.stopPc, level := i.level, moves := i.movesIn i.gid } ∧
        t.group i.gid = { gr with parked := (t.group i.gid).parked } ∧
        t.iss.out = .parked ∧ OthersKept s t [i.gid] [] [])) ∧
    ((Instr.winset m g f).wf = true → i.out = .done → n ≤ (s.roleOf i.gid).extmax → gr.h < n →
      let given := if (s.waiters gr.core).isEmpty then s.grantFrom i.gid n false true else none
      ∃ t, exec (.winset m g f) s = .next t ∧
        (t.group i.gid).h = (if given.isSome then n else gr.h) ∧
        (∀ k ∈ i.entry, ∀ j, i.at? k = some (i.gid, j) →
          ((t.group i.gid).pred j).getLsbD (f.d.toNat % 32) = given.isSome ∧
          ∀ r, r < 64 + 32 * gr.h → (t.group i.gid).reg j r = gr.reg j r) ∧
        (t.core gr.core).pool = (s.core gr.core).pool - (if given = some false then gr.blocks (n - gr.h) else 0) ∧
        (given ≠ some true → t.teamOf i.team = s.teamOf i.team) ∧
        OthersMoved s t [i.gid] [i.team] [gr.core])) ∧
  (∀ s k w, (s.groups.map Prod.fst).Nodup → s.waiters k = [w] → (s.group w.gid).h ≤ w.n → (s.group w.gid).core = k →
    let gr := s.group w.gid
    let need := gr.blocks (w.n - gr.h)
    let pool := decide (need ≤ (s.core k).pool)
    let reserve := decide (need ≤ s.reserveOf w.gid) && (gr.holder || !s.reserveHeld w.gid)
    ∃ t, exec (.xacqGrant k) s = .next t ∧
      if pool || reserve then
        (t.group w.gid).h = w.n ∧ (t.group w.gid).parked = none ∧
        (t.core k).pool = (s.core k).pool - (if pool then need else 0) ∧
        ((t.group w.gid).holder = (gr.holder || !pool)) ∧
        OthersMoved s t [w.gid] (if pool then [] else [gr.team]) [k]
      else t = s) ∧
  (∀ s k w v, s.waiters k = [w, v] → s.grantFrom w.gid w.n false true = none → (s.group v.gid).holder = false →
    s.reserveHeld v.gid = true → exec (.xacqGrant k) s = .next s)

/-! ### Transfers of control (03 R57, R61, R67, 05 R128-R142) -/

namespace Sys2Proof.Slice0

/-- R67: the target form of a word at the issue's PC, for the fibre of a slot lane. -/
def targetOf (s : State) (f : Fields) (l : Nat) : BitVec 57 :=
  BitVec.ofInt 57 ((if f.xf 30 2 = 1 then (s.sreg l f.a.toNat - s.sreg l f.a.toNat % 64 : Int) else (lineOf s.iss.pc).toNat) +
    64 * sextN (f.xf 0 27) 27 + 12 * f.xf 27 3)

/-- Every fibre of the entry goes where its transfer says, at the level given, if it takes one; else to the sequential
next PC at its own level (R128). -/
def Moves (i : Issue) (t : State) (ls : List Nat) (tg : Nat → BitVec 57) (level : BitVec 12) : Prop :=
  t.iss.movesOf = i.entry.map fun l =>
    if l ∈ ls then { lane := l, pc := tg l, level := level } else { lane := l, pc := i.next, level := i.level }

/-- A branch: who takes it, and where to. -/
structure BranchRow where
  ins : Guard → Fields → Instr
  taken : State → Guard → Fields → Nat → Bool
  target : State → Fields → Nat → BitVec 57 := targetOf

/-- Table 5.7. -/
def cond57 (c x y : Nat) : Bool :=
  let a := (BitVec.ofNat 64 x).toInt
  let b := (BitVec.ofNat 64 y).toInt
  match c with
  | 0 => x == y | 1 => x != y | 2 => decide (a < b) | 3 => decide (a ≤ b) | 4 => decide (b < a) | 5 => decide (b ≤ a)
  | 6 => decide (x < y) | 7 => decide (x ≤ y) | 8 => decide (y < x) | _ => decide (y ≤ x)

/-- R132, R133. -/
def branchRows : List BranchRow :=
  [{ ins := .bra, taken := fun _ _ _ _ => true },
   { ins := .brc, taken := fun s _ f l => cond57 f.d.toNat (s.sreg l f.b.toNat) (s.sreg l f.c.toNat) },
   { ins := .brany, taken := fun s g f _ => (s.active g).any fun l => s.q l f.b.toNat },
   { ins := .brall, taken := fun s g f _ => (s.active g).all fun l => s.q l f.b.toNat },
   { ins := .brnone, taken := fun s g f _ => (s.active g).all fun l => !s.q l f.b.toNat },
   { ins := .brz, taken := fun s _ f l => s.opB f 32 l == 0 },
   { ins := .brnz, taken := fun s _ f l => s.opB f 32 l != 0 },
   { ins := .loop, taken := fun s _ f l => (s.sreg l f.b.toNat + 2 ^ 64 - 1) % 2 ^ 64 != 0 },
   { ins := .jmp, taken := fun _ _ _ _ => true, target := fun s f l => BitVec.ofNat 57 (s.opA f 64 l) },
   { ins := .jmpt, taken := fun _ _ _ _ => true
     target := fun s f l => targetOf s f l + BitVec.ofNat 57 (64 * min (s.opB f 32 l) f.c.toNat) }]

end Sys2Proof.Slice0

/-- R61, R457: a transfer's checks must wait: its targets are valid PCs, and the fetch of one's line must stay behind
an exactly-once request of the core. -/
def Sys2Proof.Slice0.FetchWaits (s : State) (pcs : List (BitVec 57)) : Prop :=
  (∀ pc ∈ pcs, validPc pc = true) ∧ ∃ pc ∈ pcs, s.fetchHeld s.iss.core s.curCtx (lineOf pc) = true

/-- The issue stalls, with no other effect (07 R189, R192). -/
def Sys2Proof.Slice0.Stalls (ins : Instr) (s : State) (i : Issue) : Prop :=
  exec ins s = .next { s with cur := some { i with out := .stalled } }

/-- R61: a target that is not a valid PC, or whose TGT bit is clear, fails with 0x12, and one whose line cannot be read with
its cause (the address it gives is log entry 16's choice). R67, R128, R132, R133: a branch whose targets pass R61 moves the
fibres that take it, and no others; LOOP lowers s[B] first (R129), and its base is read before (log entry 16). A target that
R61 rejects raises its cause for all. A fetch that R457 keeps back stalls the branch. -/
def Obligations.BranchesTakeTheirTargets : Prop :=
  (∀ (s : State) (k ctx : Nat) (pc : BitVec 57),
     (validPc pc = false → s.checkTargets k ctx [pc] = (s, some (0x12, 0, 0))) ∧
     (validPc pc = true → ∀ (s1 : State) (v : Nat), s.fetchLine k ctx (lineOf pc) = (s1, Except.ok v) →
       s.checkTargets k ctx [pc] = (s1, if v.testBit (480 + pc.toNat % 64 / 12) then none else some (0x12, 0, 0))) ∧
     (validPc pc = true → ∀ (s1 : State) (c : Nat), s.fetchLine k ctx (lineOf pc) = (s1, Except.error c) →
       s.checkTargets k ctx [pc] = (s1, if 0x20 ≤ c ∧ c < 0x30 then some (c, 5, (lineOf pc).toNat) else some (c, 0, 0)))) ∧
  (∀ r ∈ branchRows, ∀ g f, (r.ins g f).wf = true → ∀ s i, Sound s i → i.moves = [] →
     let ls := (s.active g).filter (r.taken s g f)
     let isLoop := r.ins g f == .loop g f
     let held := FetchWaits s (ls.map (r.target s f))
     (held → Stalls (r.ins g f) s i) ∧
     (¬ held → ∀ s1, s.checkTargets i.core s.curCtx (distinct (ls.map (r.target s f))) = (s1, none) →
       ∃ t, exec (r.ins g f) s = .next t ∧ Moves i t ls (r.target s f) i.level ∧
         (isLoop = true → ∀ l ∈ s.onceUnits g, ∀ h j, i.at? l = some (h, j) →
           (t.group h).scal f.b.toNat = (s.sreg l f.b.toNat + 2 ^ 64 - 1) % 2 ^ 64) ∧
         t.cur = some { i with moves := t.iss.moves } ∧
         Frame { scal := fun h n => isLoop && n == f.b.toNat && carries i (s.onceUnits g) fun a _ => a == h }
           s1 { t with cur := s1.cur }) ∧
     (¬ held → ∀ s1 c sub ea, s.checkTargets i.core s.curCtx (distinct (ls.map (r.target s f))) = (s1, some (c, sub, ea)) →
       exec (r.ins g f) s = .next (s1.raise c sub ea)))

/-- R134, R135, R137: a call writes the return point and goes one call level up; a return goes one down, to s[A]. In a stream
kernel no level is kept. A call at level 4,095 raises 0x43, and a return at level 0 raises 0x44. ENTER lowers sp by n frame
slots and LEAVE raises it, n slots being 4nW bytes (4n in a stream kernel). A misaligned sp raises 0x40, and an ENTER below
the limit 0x41. -/
def Obligations.CallsAndFramesNest : Prop :=
  (∀ s i, Sound s i → i.moves = [] → ∀ g f, s.active g ≠ [] →
     let up := if i.stream then i.level else i.level + 1
     let down := if i.stream then i.level else i.level - 1
     let nxt := if i.pc.toNat % 64 / 12 < 4 then i.pc + 12 else lineOf i.pc + 64
     let calls := fun (ins : Instr) (tg : Nat → BitVec 57) =>
       (i.stream = false → i.level = 4095 → exec ins s = .next (s.raise 0x43)) ∧
       (i.stream = true ∨ i.level ≠ 4095 → ¬ FetchWaits s ((s.active g).map tg) →
         ∀ s1, s.checkTargets i.core s.curCtx (distinct ((s.active g).map tg)) = (s1, none) →
           ∃ t, exec ins s = .next t ∧ Moves i t (s.active g) tg up ∧
             (∀ l ∈ s.onceUnits g, ∀ h j, i.at? l = some (h, j) → (t.group h).scal f.d.toNat = nxt.toNat) ∧
             t.cur = some { i with moves := t.iss.moves } ∧
             Frame { scal := fun h n => n == f.d.toNat && carries i (s.onceUnits g) fun a _ => a == h }
               s1 { t with cur := s1.cur })
     ((Instr.call g f).wf = true → calls (.call g f) (targetOf s f)) ∧
     ((Instr.callr g f).wf = true → calls (.callr g f) fun l => BitVec.ofNat 57 (s.opA f 64 l)) ∧
     ((Instr.ret g f).wf = true →
       (i.stream = false → i.level = 0 → exec (.ret g f) s = .next (s.raise 0x44)) ∧
       (i.stream = true ∨ i.level ≠ 0 →
         let tg := fun l => BitVec.ofNat 57 (s.sreg l f.a.toNat)
         ¬ FetchWaits s ((s.active g).map tg) → ∀ s1, s.checkTargets i.core s.curCtx (distinct ((s.active g).map tg)) = (s1, none) →
           ∃ t, exec (.ret g f) s = .next t ∧ Moves i t (s.active g) tg down ∧
             t.cur = some { i with moves := t.iss.moves } ∧ Frame {} s1 { t with cur := s1.cur }))) ∧
  ∀ s i, Sound s i → ∀ g f,
    let w := 4 * (if i.stream then 1 else i.width)
    let us := s.onceUnits g
    let sp := fun u => s.sreg u 62
    let low := fun u => (sp u : Int) - (f.xf 0 16 * w : Nat)
    let moved := fun (ins : Instr) (new : Nat → Nat) => ∃ t, exec ins s = .next t ∧
      (∀ u ∈ us, ∀ h j, i.at? u = some (h, j) → (t.group h).scal 62 = new u) ∧
      Frame { scal := fun h n => n == 62 && carries i us fun a _ => a == h } s t
    ((Instr.enter g f).wf = true →
      ((∃ u ∈ us, sp u % w ≠ 0) → exec (.enter g f) s = .next (s.raise 0x40)) ∧
      ((∀ u ∈ us, sp u % w = 0) → (∃ u ∈ us, low u < s.spLimit u) → exec (.enter g f) s = .next (s.raise 0x41)) ∧
      ((∀ u ∈ us, sp u % w = 0) → (∀ u ∈ us, s.spLimit u ≤ low u) → moved (.enter g f) fun u => wrapN (low u) 64)) ∧
    ((Instr.leave g f).wf = true →
      ((∃ u ∈ us, sp u % w ≠ 0) → exec (.leave g f) s = .next (s.raise 0x40)) ∧
      ((∀ u ∈ us, sp u % w = 0) → moved (.leave g f) fun u => (sp u + f.xf 0 16 * w) % 2 ^ 64))


/-! ### Fibres (02 R42, R43, R56, 05 R139-R142) -/

/-- R42, R43, R56, R139-R141: FSPAWN and FSPAWNR. Outside a handler, with targets that pass R61, the k-th fibre of active takes
the k-th vacant lane of the group, or slot of the stream team; its predicate says whether there was one. A child has v0-v7
of its parent, a predicate word of zero, and starts at its target, in a later cycle. What a slot's last fibre left unjoined
stays, as does its horizon (R191, R394). FEND ends the fibres of active, keeping their registers;
YIELD marks the issue and has no other effect; with no fibre active it
sets no mark, which is log entry 42's choice. -/
def Obligations.FibresBeginAndEnd : Prop :=
  (∀ s i, Sound s i → i.children = [] → (∀ p ∈ i.groups, (s.group p.1).hact = false) → ∀ g f,
     ∀ row ∈ [(Instr.fspawn g f, targetOf s f), (Instr.fspawnr g f, fun l => BitVec.ofNat 57 (s.opA f 64 l))],
     row.1.wf = true → ¬ FetchWaits s ((s.active g).map row.2) →
     ∀ s1, s.checkTargets i.core s.curCtx (distinct ((s.active g).map row.2)) = (s1, none) →
     ∃ t, exec row.1 s = .next t ∧
       ∀ k (hk : k < (s.active g).length), ∀ h j, i.at? (s.active g)[k] = some (h, j) →
         let free := if i.stream then s1.vacantSlots i.team else s1.vacant h
         let parent := ((s1.rgroup h).lanes[j]?).getD {}
         ((t.group h).pred j).getLsbD (f.d.toNat % 32) = decide (k < free.length) ∧
         ∀ v, free[k]? = some v →
           if i.stream then
             (t.group v).frontier = [{ pc := row.2 (s.active g)[k], lanes := [0] }] ∧
             (t.group v).lanes = (s1.group v).lanes.map (childLane parent) ∧ (t.group v).scal 62 = (t.group v).sp0.toNat ∧
             s1.cycle < (t.group v).readySince ∧ (s1.group v).horizon ≤ (t.teamOf i.team).horizon ∧
             (t.group v).unjoined = (s1.group v).unjoined.map fun u => { u with gone := true }
           else
             (t.group h).lanes[v]? = ((s1.group h).lanes[v]?).map (childLane parent) ∧
             t.iss.children[k]? = some { lane := v, pc := row.2 (s.active g)[k], level := i.level }) ∧
  (∀ s i, Sound s i → ∀ g f,
     (∃ t : State, exec (.fend g f) s = .next t ∧ t = { s with groups := t.groups } ∧
       ∀ h : Nat, t.group h = { s.group h with lanes := (t.group h).lanes } ∧
         (t.group h).lanes.length = (s.group h).lanes.length ∧
         ∀ (j : Nat) (ln : Lane), (s.group h).lanes[j]? = some ln → (t.group h).lanes[j]? =
           some { ln with live := ln.live && !(carries i (s.active g) fun a b => a == h && b == j) }) ∧
     exec (.yield g f) s = .next { s with cur := some { i with yielded := i.yielded || !(s.active g).isEmpty } })

/-- R142, R193, R397: WAITC completes when the counters of its group, or stream team, are at or below its thresholds and
no completed operation it covers failed, and raises the cause of
a failure it covers; FENCE completes when every earlier core access is performed and, at scope die,
pkg or sys, gtc() is past the horizon. Until then each stalls, with no effect but that WAITC's groups keep the place of its
issue in the order of acceptance (R193). -/
def Obligations.WaitsEndWhenTheirConditionHolds : Prop :=
  ∀ s i, Sound s i → ∀ g f, s.active g ≠ [] →
    let sh := s.rsharedOf i.gid
    let within := sh.ld ≤ f.xf 0 8 ∧ sh.st ≤ f.xf 8 8 ∧ sh.cp ≤ f.xf 16 8 ∧ sh.tl ≤ f.xf 24 8
    let unjoined := fun h => if i.stream then (s.group h).team = (s.group i.gid).team else h = i.gid
    (within → (∀ p ∈ s.groups, unjoined p.1 → p.2.unjoined = []) → exec (.waitc g f) s = .next s) ∧
    (within → ∀ h u, s.covered i.gid = some (h, u) → exec (.waitc g f) s = .next (s.raise u.cause u.token 0 true (some h))) ∧
    (¬ within → ∃ t, exec (.waitc g f) s = .next t ∧
      t = { s with groups := t.groups, cur := some { i with out := .stalled } } ∧
      ∀ h, t.group h = { s.group h with
        waitcAt := if (i.groups.any fun p => p.1 == h) then some ((s.group h).waitcAt.getD s.seq) else (s.group h).waitcAt }) ∧
    let late := fun h => s.cycle < (s.group h).accessBy ∨
      (4 ≤ f.xf 0 3 ∧ s.gtc (coreDie (s.group h).core) ≤ (s.group h).horizon)
    let who := fun h => ∃ u ∈ s.onceUnits g, ∃ j, i.at? u = some (h, j)
    ((∀ h, who h → ¬ late h) → exec (.fence g f) s = .next s) ∧
    ((∃ h, who h ∧ late h) → Stalls (.fence g f) s i)

/-! ### Special registers and causes (11 R278-R302, 03 R73-R77) -/

namespace Sys2Proof.Slice0

/-- Tables 7.7 and 11.4: the value of each special register that a group, or its stream team (R52), reads; those that
differ from fibre to fibre apart. -/
def srTable (s : State) (h : Nat) : List (Nat × Nat) :=
  let a := s.group h
  let t := s.teamOf a.team
  let sh := if t.stream then t.shared else a.shared
  let k := t.cores.idxOf a.core
  let r := match Tab.get? s.launches t.launch with | some l => l.record | none => 0
  let waits := match a.parked with | some { wait := .xacq _ _, .. } => 64 | _ => 0
  [(0x000, a.cause.toNat), (0x001, sh.flags.toNat), (0x002, sh.stklim.toNat), (0x003, a.uemu.toNat), (0x004, a.emret.toNat),
   (0x005, a.emop.toNat), (0x006, a.emd.toNat), (0x007, a.ema.toNat), (0x008, a.emb.toNat), (0x009, a.emc.toNat),
   (0x00A, a.emx.toNat), (0x00B, sh.dbg.toNat + if a.halt then 64 else 0), (0x00C, a.epc.toNat), (0x00D, a.eaddr.toNat),
   (0x00E, sh.ufh.toNat), (0x00F, sh.cpol.toNat), (0x012, a.num), (0x013, k), (0x014, t.x.toNat), (0x015, t.y.toNat),
   (0x016, t.z.toNat), (0x017, r / 2 ^ 32 % 2 ^ 31 + 1), (0x018, r / 2 ^ 64 % 2 ^ 31 + 1), (0x019, r / 2 ^ 96 % 2 ^ 31 + 1),
   (0x01A, a.core + 512 * s.pkg.toNat), (0x01B, sh.ld % 256 + sh.st % 256 * 2 ^ 8 + sh.cp % 256 * 2 ^ 16 + sh.tl % 256 * 2 ^ 24),
   (0x01C, a.ext.length % 8 + (s.roleOf h).extmax % 8 * 8 + waits),
   (0x01D, t.ssize.getD k 0 % 2 ^ 20 + t.sbase.getD k 0 % 2 ^ 19 * 2 ^ 20), (0x01E, t.ctx),
   (0x020, min (s.time + Tab.getD s.gtcOff (a.core / 128 % 4) 0) (2 ^ 64 - 1)), (0x021, s.ctxEntry (a.core / 128 % 4) t.ctx / 2 ^ 128 % 2 ^ 57),
   (0x022, sh.bpa0.toNat), (0x023, sh.bpa1.toNat)]

def srOf (s : State) (h n : Nat) : Nat := (((srTable s h).find? fun p => p.1 == n).map Prod.snd).getD 0

/-- The writable special registers: number, the bits a write takes, whether a stream team has it in common, and what of
the old value stays. -/
def srWritten : List (Nat × Nat × Bool × (Nat → Nat)) :=
  [(0x001, 7, true, fun _ => 0), (0x002, 19, true, fun _ => 0), (0x003, 57, false, fun _ => 0), (0x004, 57, false, fun _ => 0),
   (0x00B, 6, true, fun v => v / 64 * 64), (0x00C, 57, false, fun _ => 0), (0x00E, 57, true, fun _ => 0),
   (0x00F, 14, true, fun v => v / 2 ^ 14 * 2 ^ 14), (0x022, 57, true, fun _ => 0), (0x023, 57, true, fun _ => 0)]

/-- The lanes of a group that an issue's entry names, in order. -/
def lanesIn (i : Issue) (h : Nat) : List Nat :=
  i.entry.filterMap fun l => match i.at? l with | some (g, j) => if g = h then some j else none | none => none

/-- R278, R281, R292, R297, Table 11.1: every group of the issue has stopped at a synchronous cause. sr.epc is the issue's
PC, sr.eaddr the faulting address; sr.cause holds the code, SUB and PAIR, keeps RCNT and the bit of a compatibility
handler, and shows no handler; inside a handler the code is 0x1F with no operand and no address, the code of the cause that
entered the handler stands in its high bits (log entry 17's reading of PREV), and the handler's shadow is gone. Nothing else changes. -/
def Raised (s t : State) (i : Issue) (code sub : Nat) (ea : BitVec 57) : Prop :=
  t = { s with groups := t.groups, cur := t.cur } ∧ t.iss.out = .raised ∧
  (∀ h, lanesIn i h = [] → t.group h = s.group h) ∧
  ∀ h, lanesIn i h ≠ [] →
    let a := s.group h
    let b := t.group h
    let code' := if a.cause.getLsbD 26 then 0x1F else code
    let dbg := (s.sharedOf h).dbg
    let sub := if a.cause.getLsbD 26 then 0 else sub
    let ea := if a.cause.getLsbD 26 then 0 else ea
    b = { a with cause := b.cause, epc := i.stopPc, eaddr := ea, shadow := if a.cause.getLsbD 26 then none else a.shadow
                 halt := dbg.getLsbD 0 && ((0x50 ≤ code' && code' ≤ 0x52) || dbg.getLsbD 3)
                 stepping := false, entering := false, resumed := false, stop := b.stop } ∧
    b.stop = some { code := code', sub := sub, pair := i.pair, pc := i.stopPc, level := i.level, lanes := lanesIn i h
                    eaddr := ea, halted := b.halt
                    stamp := min (s.time + Tab.getD s.gtcOff (a.core / 128 % 4) 0) (2 ^ 64 - 1) } ∧
    b.cause.extractLsb' 0 8 = BitVec.ofNat 8 code' ∧ b.cause.extractLsb' 8 8 = BitVec.ofNat 8 sub ∧
    b.cause.getLsbD 16 = false ∧ b.cause.getLsbD 17 = i.pair ∧ b.cause.extractLsb' 18 4 = 0#4 ∧
    b.cause.extractLsb' 22 4 = a.cause.extractLsb' 22 4 ∧ b.cause.getLsbD 26 = false ∧
    b.cause.getLsbD 27 = a.cause.getLsbD 27 ∧
    b.cause.extractLsb' 28 8 =
      if a.cause.getLsbD 26 then BitVec.ofNat 8 ((a.shadow.map fun x => x.stop.code).getD 0) else 0#8

/-- Everything but the groups `gs`, the teams `ts`, the cores `ks` and the issue is as before. -/
def Kept (s t : State) (gs ts ks : List Nat) : Prop :=
  t = { s with groups := t.groups, teams := t.teams, cores := t.cores, cur := t.cur } ∧
  (∀ g, g ∉ gs → t.group g = s.group g) ∧ (∀ k, k ∉ ts → t.teamOf k = s.teamOf k) ∧
  ∀ k, k ∉ ks → t.core k = s.core k

end Sys2Proof.Slice0

/-- R136, R209, R301, R302, R304, R194: PCRD, XQRY, GTCRD and CTXRD write one scalar; SRRD reads the register that its
number names: sr.lane and sr.slot in each fibre, any other once. The model's choices: gtc() holds at 2^64 - 1 (log entry 43);
HALT of sr.dbg and sr.grp of a free fibre are its own (log entry 42). -/
def Obligations.ReadsDeliver : Prop :=
  ((∀ g f,
      ((Instr.pcrd g f).wf = true →
        DeliversIn (.pcrd g f) (fun s => s.onceUnits g) .sr f 64 fun s _ =>
          (wrapN ((lineOf s.iss.pc).toNat + 64 * sextN (f.xf 0 27) 27 + 12 * (f.xf 27 3 : Int)) 57, 0)) ∧
      ((Instr.gtcrd g f).wf = true →
        DeliversIn (.gtcrd g f) (fun s => s.onceUnits g) .sr f 64 fun s _ =>
          (min (s.time + Tab.getD s.gtcOff (s.iss.core / 128 % 4) 0) (2 ^ 64 - 1), 0)) ∧
      ((Instr.ctxrd g f).wf = true →
        DeliversIn (.ctxrd g f) (fun s => s.onceUnits g) .sr f 64 fun s _ =>
          let ctx := (s.teamOf s.iss.team).ctx
          (match f.xf 0 8 with
            | 0 => ctx + (if ctxCompat (s.ctxEntry (coreDie s.iss.core) ctx) then 4096 else 0)
            | 1 => Tab.getD s.walks ctx 0 % 2 ^ 32
            | _ => s.ctxEntry (coreDie s.iss.core) ctx / 2 ^ 192 % 2 ^ 64, 0))) ∧
   (∀ g f, (Instr.xqry g f).wf = true →
      DeliversIn (.xqry g f) (fun s => s.scalarUnits g) .sr f 64 fun s u =>
        let h := ((s.iss.at? u).map Prod.fst).getD 0
        (packFields [((s.group h).h, 3), ((s.roleOf h).extmax, 3), (if (s.group h).holder then 1 else 0, 1), (0, 9),
          ((s.core (s.group h).core).pool, 17)], 0))) ∧
  (∀ g f, (Instr.srrd g f).wf = true →
     (f.xf 0 12 = 0x010 → Delivers (.srrd g f) .vr g f 32 fun s l =>
       (match s.iss.at? l with | some (_, j) => if s.iss.stream then l else j | none => 0, 0)) ∧
     (f.xf 0 12 = 0x011 → Delivers (.srrd g f) .vr g f 32 fun s l =>
       (match s.iss.at? l with | some (h, j) => (s.group h).slot0 + j | none => 0, 0)) ∧
     (f.xf 0 12 ≠ 0x010 → f.xf 0 12 ≠ 0x011 → DeliversIn (.srrd g f) (fun s => s.onceUnits g) .sr f 64 fun s u =>
       (match s.iss.at? u with | some (h, _) => srOf s h (f.xf 0 12) | none => 0, 0)))

/-- R301, R3: SRWR completes. It writes the bits that the register's access codes allow, once for each fibre of a stream
kernel in ascending order; no other special register changes. Writing RESUME of sr.dbg (Table 11.8) also sends on every
halted group or fibre that the register governs (R297); in a stream kernel those are all of the team's, which is log entry
42's choice. -/
def Obligations.SpecialRegistersAreWritten : Prop :=
  ∀ s i, Sound s i → ∀ g f, (Instr.srwr g f).wf = true → s.onceUnits g ≠ [] → ∃ t, exec (.srwr g f) s = .next t ∧
    let resumes := f.xf 0 12 = 0x00B ∧ ∃ u ∈ s.onceUnits g, (s.sreg u f.a.toNat).testBit 7 = true
    let governed := fun (h : Nat) => if i.stream then (s.group h).team = i.team else h = i.gid
    let halted := fun (h : Nat) => ∃ st, (s.group h).stop = some st ∧ st.halted = true
    (∀ r ∈ srWritten, r.1 = f.xf 0 12 → ∀ u ∈ s.onceUnits g, ∀ h j, i.at? u = some (h, j) → ¬ (resumes ∧ halted h) →
      let v := s.sreg (if r.2.2.1 then (s.onceUnits g).getLastD 0 else u) f.a.toNat
      srOf t h r.1 = v % 2 ^ r.2.1 + r.2.2.2 (srOf s h r.1)) ∧
    (∀ h n, n ≠ f.xf 0 12 → srOf t h n = srOf s h n) ∧
    (∀ h, ¬ (resumes ∧ governed h ∧ halted h) → t.group h = { s.group h with
      uemu := (t.group h).uemu, emret := (t.group h).emret, epc := (t.group h).epc, shared := (t.group h).shared }) ∧
    (∀ h, (Tab.get? s.groups h).isSome → resumes → governed h → halted h →
      (t.group h).halt = false ∧ (t.group h).resumed = true ∧ ∀ st, (t.group h).stop = some st → st.halted = false) ∧
    (∀ k, t.teamOf k = { s.teamOf k with shared := (t.teamOf k).shared }) ∧
    t = { s with groups := t.groups, teams := t.teams }

/-- R278, R281, R302, R73: a raised cause stops every group of the issue; TRAPI raises 0x16 and BKPT 0x50 with their SUB
when a fibre is active, and an illegal instruction always raises 0x10. -/
def Obligations.CausesStopTheirGroups : Prop :=
  ∀ s i, Sound s i →
    (∀ code sub ea, code < 256 → Raised s (s.raise code sub ea) i code sub (BitVec.ofNat 57 ea)) ∧
    (∀ w, ∃ t, exec (.illegalInstruction w) s = .next t ∧ Raised s t i 0x10 0 0) ∧
    ∀ g f,
      (s.active g = [] → exec (.trapi g f) s = .next s ∧ exec (.bkpt g f) s = .next s) ∧
      (s.active g ≠ [] →
        (∃ t, exec (.trapi g f) s = .next t ∧ Raised s t i 0x16 (f.xf 0 8) 0) ∧
        ∃ t, exec (.bkpt g f) s = .next t ∧ Raised s t i 0x50 (f.xf 0 8) 0)

/-- R76, R77: the emulation trap, EMRET and ERET complete. The trap keeps the word in the emulation registers and sends every
fibre of the entry to sr.uemu, one call level up; EMRET sends it back to sr.emret. Without a handler, or within one, the trap raises 0x11; at level 4,095
it raises 0x43. EMRET outside a handler raises 0x11; while another PC of its level is occupied, 0x30; to a PC that is not
valid, 0x12; at call level 0 the level it goes down to wraps, which is log entry 42's choice. R294: ERET outside a fault handler
raises 0x13, and while a live fibre of the group is elsewhere 0x30; in one it, for each fibre of active in a stream kernel,
restores the frontier and predicates the handler's entry kept, without the fibres that ended since. The fibres of the entry
that stopped go on at it, past it, or at sr.epc. -/
def Obligations.HandlersAreEnteredAndLeft : Prop :=
  (∀ s i, Sound s i → i.moves = [] → i.entry ≠ [] →
     let a := s.group i.gid
     (∀ reason w,
       (i.stream = true ∨ a.uemu = 0 ∨ a.emop.getLsbD 31 = true → exec (.emulationTrap reason w) s = .next (s.raise 0x11)) ∧
       (i.stream = false → a.uemu ≠ 0 → a.emop.getLsbD 31 = false →
         (i.level = 4095 → exec (.emulationTrap reason w) s = .next (s.raise 0x43)) ∧
         (i.level ≠ 4095 → ¬ FetchWaits s [a.uemu] → ∀ s1, s.checkTargets i.core s.curCtx [a.uemu] = (s1, none) →
           ∃ t, exec (.emulationTrap reason w) s = .next t ∧ Moves i t i.entry (fun _ => a.uemu) (i.level + 1) ∧
             t.group i.gid = { s1.group i.gid with
               emop := (t.group i.gid).emop, emd := w.extractLsb' 19 8, ema := w.extractLsb' 27 12
               emb := w.extractLsb' 39 12, emc := w.extractLsb' 51 12, emx := w.extractLsb' 64 32
               emret := if i.pc.toNat % 64 / 12 < 4 then i.pc + 12 else lineOf i.pc + 64 } ∧
             (t.group i.gid).emop.extractLsb' 0 19 = w.extractLsb' 0 19 ∧
             (t.group i.gid).emop.extractLsb' 19 2 = reason ∧ (t.group i.gid).emop.extractLsb' 21 10 = 0 ∧
             (t.group i.gid).emop.getLsbD 31 = true ∧ Kept s1 t [i.gid] [] []))) ∧
     ∀ g f,
       (a.emop.getLsbD 31 = false → exec (.emret g f) s = .next (s.raise 0x11)) ∧
       (a.emop.getLsbD 31 = true →
         ((∃ e ∈ a.frontier, e.level = i.level ∧ e.pc ≠ i.stopPc) → exec (.emret g f) s = .next (s.raise 0x30)) ∧
         ((∀ e ∈ a.frontier, e.level = i.level → e.pc = i.stopPc) →
           (validPc a.emret = false → exec (.emret g f) s = .next (s.raise 0x12)) ∧
           (validPc a.emret = true → ∃ t, exec (.emret g f) s = .next t ∧
             Moves i t i.entry (fun _ => a.emret) (i.level - 1) ∧
             t.group i.gid = { a with emop := a.emop &&& 0x7FFFFFFF } ∧ Kept s t [i.gid] [] [])))) ∧
  ∀ s i, Sound s i → ∀ g f, s.active g ≠ [] →
    let live := fun (h j : Nat) => match (s.group h).lanes[j]? with | some ln => ln.live | none => false
    let gathered := ∀ h, lanesIn i h ≠ [] → ∀ j, live h j = true → j ∈ lanesIn i h
    let who := fun h => ∃ u ∈ s.onceUnits g, ∃ j, i.at? u = some (h, j)
    ((∃ h, who h ∧ (s.group h).cause.getLsbD 26 = false) → exec (.eret g f) s = .next (s.raise 0x13)) ∧
    ((∀ h, who h → (s.group h).cause.getLsbD 26 = true) →
      (¬ gathered → exec (.eret g f) s = .next (s.raise 0x30)) ∧
      (gathered → (∀ h, who h → ∃ x, (s.group h).shadow = some x ∧ (x.preds.map Prod.fst).Nodup) →
        ∃ t, exec (.eret g f) s = .next t ∧ t = { s with groups := t.groups, cur := t.cur } ∧
          t.cur = some { i with out := .settled, placed := t.iss.placed } ∧ (∀ h, h ∈ t.iss.placed ↔ who h) ∧
          (∀ h, ¬ who h → t.group h = s.group h) ∧
          ∀ h x, who h → (s.group h).shadow = some x →
            let a := s.group h
            let b := t.group h
            let pc := match f.xf 0 2 with
              | 0 => x.stop.pc
              | 1 => if x.stop.pair then seqPc (seqPc x.stop.pc) else seqPc x.stop.pc
              | _ => a.epc
            b = { a with lanes := b.lanes, frontier := b.frontier, shadow := none, cause := b.cause } ∧
            (∀ n, n < 36 → b.cause.getLsbD n = (a.cause.getLsbD n && n != 26)) ∧
            (∀ j ∈ x.stop.lanes, live h j = true →
              ∃ e ∈ b.frontier, e.pc = pc ∧ e.level = x.stop.level ∧ j ∈ e.lanes) ∧
            (∀ e ∈ x.frontier, ¬ (e.pc = x.stop.pc ∧ e.level = x.stop.level) → ∀ j ∈ e.lanes, live h j = true →
              ∃ e' ∈ b.frontier, e'.pc = e.pc ∧ e'.level = e.level ∧ j ∈ e'.lanes) ∧
            (∀ p ∈ x.preds, live h p.1 = true → b.pred p.1 = p.2) ∧
            (∀ j, live h j = true → (∀ p ∈ x.preds, p.1 ≠ j) → b.pred j = a.pred j) ∧
            ∀ j n, b.reg j n = a.reg j n))


/-- R303, R304, R461: IFENCE drops a core's fetched lines; CFLSH drops what its line cache, or its cluster's when fused (R328),
and its sampler hold, CINV what they hold of a range of the context's addresses; EVLOG stores a record in its die's ring. -/
def Obligations.SystemCommandsAct : Prop :=
  ∀ s i, Sound s i → ∀ g f, s.active g ≠ [] →
    let keys := s.cacheKeys i.core
    let c := s.core i.core
    (∃ t, exec (.ifence g f) s = .next t ∧ t.core i.core = { c with fetched := [] } ∧ Kept s t [] [] [i.core]) ∧
    (∃ t, exec (.cflsh g f) s = .next t ∧ t.core i.core = { c with networks := [] } ∧ (∀ k ∈ keys, Tab.get? t.caches k = none) ∧
      (∀ k, k ∉ keys → Tab.get? t.caches k = Tab.get? s.caches k) ∧
      Kept { s with caches := t.caches } t [] [] [i.core]) ∧
    ∀ u h j, s.onceUnits g = [u] → i.at? u = some (h, j) →
      ((Instr.cinv g f).wf = true → s.faults = [] → ∃ t, exec (.cinv g f) s = .next t ∧
        let a := s.sreg u f.a.toNat % 2 ^ 57
        let n := min (s.sreg u f.b.toNat) (2 ^ 32)
        let hit := fun (line : Nat) => n != 0 && (List.range ((a + n - 1) / 4096 - a / 4096 + 1)).any fun p =>
          let lo := max a (4096 * (a / 4096 + p))
          let hi := min (a + n - 1) (4096 * (a / 4096 + p) + 4095)
          match s.lookup i.core s.curCtx (lo % 2 ^ 57) with
          | .ok x => paRegion x.pa == 0 && decide (paLa x.pa / 512 ≤ line) && decide (line ≤ (paLa x.pa + (hi - lo)) / 512)
          | .error _ => false
        (∀ k ∈ keys, ∀ line, Tab.get? (Tab.getD t.caches k []) line =
          if hit line then none else Tab.get? (Tab.getD s.caches k []) line) ∧
        (∀ k, k ∉ keys → Tab.get? t.caches k = Tab.get? s.caches k) ∧
        t.core i.core = { c with networks := c.networks.filter fun x =>
          !(n != 0 && x.1 == s.curCtx && decide (x.2.1 < a + n) && decide (a < x.2.1 + 1664)) } ∧
        Kept { s with caches := t.caches } t [] [] [i.core]) ∧
      ((Instr.evlog g f).wf = true →
        let d := i.core / 128 % 4
        let di := s.die d
        let at_ := di.logBase.toNat + 32 * (di.logHead % 2 ^ di.logN)
        (di.logEn = false → exec (.evlog g f) s = .next s) ∧
        (di.logEn = true → s.msixMask = [] → di.logBase.toNat + 32 * 2 ^ di.logN ≤ 2 ^ 40 →
          (∀ p ∈ s.groups, p.2.watch = none ∧ p.2.parked = none) → s.sectorWaits = [] → (∀ e, (s.die e).logWait = []) →
          s.faults = [] → s.control.finishing = none → s.reaches d at_ = true →
          di.soft = 0 → di.pressed = false → 8 ≤ (s.die (at_ / 2 ^ 38 % 4)).freeSectors → s.sectorStatus at_ = 0 →
          (di.logHead + 2 ^ 32 - di.logTail) % 2 ^ 32 < 2 ^ di.logN → ∃ t, exec (.evlog g f) s = .next t ∧
            (∀ pa, pa < 2 ^ 40 → t.paByte pa =
              if at_ ≤ pa ∧ pa < at_ + 32 then
                BitVec.ofNat 8 (packFields [(s.gtc d, 64), (i.core, 12), (if di.gapOwed then 1 else 0, 1), (0, 3), (0x04, 8),
                  (0, 40), (f.xf 0 16, 16), (s.sreg u f.a.toNat, 64), (s.curCtx, 12)] / 2 ^ (8 * (pa - at_)))
              else s.paByte pa) ∧
            (t.die d).logHead = (di.logHead + 1) % 2 ^ 32 ∧ (t.die d).gapOwed = false ∧
            Kept { s with mem := t.mem, lines := t.lines, dies := t.dies, free := t.free } t [] [] []))

/-! ### Barriers and pods (14 R331-R342, R352) -/

namespace Sys2Proof.Slice0

/-- A waiting group goes on: where the issue that waits sends its fibres, and the children it made, they arrive (R46). -/
def GoesOn (s t : State) (h : Nat) : Prop :=
  ∀ p, (s.group h).parked = some p → (s.group h).stepping = false →
    t.group h = { clearRcnt ((s.group h).commit p.pc p.level p.moves p.kids false) with
      parked := none, readySince := s.cycle }

/-- A wait of a group ends with a result in a scalar. -/
def Woken (s t : State) (h dst v : Nat) : Prop :=
  ∀ p, (s.group h).parked = some p → (s.group h).stepping = false →
    (t.group h).scal dst = v % 2 ^ 64 ∧ (t.group h).parked = none ∧
    (t.group h).frontier = ((s.group h).commit p.pc p.level p.moves p.kids false).frontier ∧
    (∀ n, n ≠ dst → (t.group h).scal n = (s.group h).scal n) ∧ (t.group h).lanes = (s.group h).lanes

/-- The issue waits: its group holds where it goes on. -/
def Waits (s t : State) (i : Issue) (w : Wait) : Prop :=
  t.group i.gid = { s.group i.gid with
    parked := some { wait := w, pc := i.stopPc, level := i.level, moves := i.movesIn i.gid } } ∧
  t.cur = some { i with out := .parked }

/-- R333: one arrival with target `n` at barrier `b` of team `k`: none where a latched target differs; else the phase it
arrived in, and what the barrier then holds. The last arrival completes the phase. -/
def arrival (s : State) (k b n : Nat) : Option (Bool × Barrier) :=
  let br := Tab.getD (s.teamOf k).barriers b {}
  if br.cnt ≠ 0 ∧ n ≠ br.tgt then none
  else
    let tgt := if br.cnt = 0 then n else br.tgt
    let goal := if tgt = 0 then (s.groups.filter fun p => p.2.team == k && !p.2.retired).length else tgt
    some (br.ph, if goal ≤ br.cnt + 1 then { ph := !br.ph, cnt := 0, tgt := tgt } else { ph := br.ph, cnt := br.cnt + 1, tgt := tgt })

/-- A group waits for a phase of a barrier. -/
def waitsOn (s : State) (k b h : Nat) (ph : Bool) : Prop :=
  (s.group h).team = k ∧ ∃ p, (s.group h).parked = some p ∧ p.wait = .barrier b ph

/-- An arrival has been performed: the barrier stands as `arrival` says, and where it completed the phase every group that
waited for it goes on. Nothing else changes but in `gs`. -/
def Arrived (s t : State) (k b : Nat) (a : Bool × Barrier) (gs : List Nat) : Prop :=
  Tab.getD (t.teamOf k).barriers b {} = a.2 ∧
  (∀ c, c ≠ b → Tab.get? (t.teamOf k).barriers c = Tab.get? (s.teamOf k).barriers c) ∧
  t.teamOf k = { s.teamOf k with barriers := (t.teamOf k).barriers } ∧
  (∀ j, j ≠ k → t.teamOf j = s.teamOf j) ∧
  (∀ h, h ∉ gs →
    (a.2.ph ≠ a.1 → waitsOn s k b h a.1 → GoesOn s t h) ∧
    (¬ (a.2.ph ≠ a.1 ∧ waitsOn s k b h a.1) → t.group h = s.group h)) ∧
  t = { s with groups := t.groups, teams := t.teams, cur := t.cur }

end Sys2Proof.Slice0

/-- R331-R334: BAR arrives and waits for the phase to complete; ARRIVE arrives and notes the phase in a predicate of every
fibre of the entry; WAITB waits while the phase is the one its predicate names. A target that differs from the latched one
raises 0x30, as each of the three does in a stream kernel (R55). An arrival whose group has core accesses under way waits for
them, as any operation does that comes before one already performed in this cycle, in the order of team cores and slots (that
it waits for another cycle is log entry 18's choice: R331 orders the operations of a cycle). What has waited is then performed
in the same way; a saved team's waits in its mailbox (R378). R352: a barrier in error raises 0x74. -/
def Obligations.BarriersSynchroniseGroups : Prop :=
  (∀ g f, ∀ ins ∈ [Instr.bar g f, .arrive g f, .waitb g f], StopsInStream ins g) ∧
  (∀ s i, Sound s i → i.stream = false → (s.group i.gid).parked = none → ∀ g f, s.active g ≠ [] →
     let b := f.xf 0 4
     let n := f.xf 4 10
     let ph := (Tab.getD (s.teamOf i.team).barriers b {}).ph
     let q := s.q (i.entry.headD 0) (f.xf 14 5)
     let s1 := s.noteSync i.gid
     let bad := Tab.get? (s.teamOf i.team).syncBad b
     (s.cycle < (s.group i.gid).accessBy ∨ s.syncPast i.gid = true → ∀ ins ∈ [Instr.bar g f, Instr.arrive g f],
       ∃ t, exec ins s = .next t ∧ Waits s t i (.syncOp ins 0) ∧ Kept s t [i.gid] [] []) ∧
     (s.syncPast i.gid = true → ∃ t, exec (.waitb g f) s = .next t ∧
       Waits s t i (.syncOp (.waitb g f) (if q then 1 else 0)) ∧ Kept s t [i.gid] [] []) ∧
     (s.syncPast i.gid = false → bad = some .uncorrectable → (∀ x ∈ s.groups, x.2.parked = none) →
       exec (.waitb g f) s = .next (s1.raise 0x74) ∧ ((s.group i.gid).accessBy ≤ s.cycle →
         exec (.bar g f) s = .next (s1.raise 0x74) ∧ exec (.arrive g f) s = .next (s1.raise 0x74))) ∧
     (s.syncPast i.gid = false → bad = none → (s.group i.gid).accessBy ≤ s.cycle →
       (arrival s i.team b n = none →
         exec (.bar g f) s = .next (s1.raise 0x30) ∧ exec (.arrive g f) s = .next (s1.raise 0x30)) ∧
       ∀ a, arrival s i.team b n = some a →
         (∃ t, exec (.bar g f) s = .next t ∧ Arrived s1 t i.team b a [i.gid] ∧
           (a.2.ph ≠ a.1 → t.group i.gid = s.group i.gid ∧ t.cur = some i) ∧
           (a.2.ph = a.1 → Waits s t i (.barrier b a.1))) ∧
         ∃ t, exec (.arrive g f) s = .next t ∧ Arrived s1 t i.team b a [i.gid] ∧ t.cur = some i ∧
           GroupFrame { pred := fun h j n => n == f.d.toNat % 32 && h == i.gid && (lanesIn i h).contains j } i.gid
             (s.group i.gid) (t.group i.gid) ∧
           ∀ j ∈ lanesIn i i.gid, ((t.group i.gid).pred j).getLsbD (f.d.toNat % 32) = a.1) ∧
     (s.syncPast i.gid = false → bad = none →
       (ph ≠ q → exec (.waitb g f) s = .next s1) ∧
       (ph = q → ∃ t, exec (.waitb g f) s = .next t ∧ Waits s t i (.barrier b q) ∧ Kept s1 t [i.gid] [] []))) ∧
  (∀ s h p ins v, (s.groups.map Prod.fst).Nodup → (Tab.get? s.groups h).isSome → (s.group h).parked = some p →
     p.wait = .syncOp ins v →
     let k := (s.group h).team
     let waitsFor := fun (t : State) (b : Nat) (ph : Bool) =>
       t.group h = { s.group h with parked := some { p with wait := .barrier b ph } }
     (s.cycle < (s.group h).accessBy ∨ s.syncPast h = true → exec (.syncOperationPerform h) s = .next s) ∧
     ((s.group h).accessBy ≤ s.cycle → s.syncPast h = false → (Tab.get? s.teams k).isSome →
       ((s.teamOf k).out = true → ∃ t, exec (.syncOperationPerform h) s = .next t ∧
         h ∈ (t.teamOf k).mailbox ∧ t.teamOf k = { s.teamOf k with mailbox := (t.teamOf k).mailbox } ∧ Kept s t [] [k] []) ∧
       ∀ g f, (s.teamOf k).out = false → Tab.get? (s.teamOf k).syncBad (f.xf 0 4) = none →
         let b := f.xf 0 4
         let ph := (Tab.getD (s.teamOf k).barriers b {}).ph
         (ins = .bar g f → ∀ a, arrival s k b (f.xf 4 10) = some a →
           ∃ t, exec (.syncOperationPerform h) s = .next t ∧ Arrived (s.noteSync h) t k b a [h] ∧
             (a.2.ph ≠ a.1 → GoesOn s t h) ∧ (a.2.ph = a.1 → waitsFor t b a.1)) ∧
         (ins = .arrive g f → ∀ a, arrival s k b (f.xf 4 10) = some a →
           ∃ t, exec (.syncOperationPerform h) s = .next t ∧ Arrived (s.noteSync h) t k b a [h] ∧
             ((s.group h).stepping = false → (t.group h).parked = none ∧
               (t.group h).frontier = ((s.group h).commit p.pc p.level p.moves p.kids false).frontier) ∧
             ∀ m ∈ p.moves, m.lane < (s.group h).lanes.length → ((t.group h).pred m.lane).getLsbD (f.d.toNat % 32) = a.1) ∧
         (ins = .waitb g f → ∃ t, exec (.syncOperationPerform h) s = .next t ∧
           (if ph = decide (v = 1) then waitsFor t b ph else GoesOn s t h) ∧ Kept (s.noteSync h) t [h] [] [])))

/-- R336-R341, R352: PSEND.RSV takes the slot at WHEAD when it is free, and PRECV the one at RHEAD when it is full; each
gives its slot word, or waits on the pod. PSEND.CMT makes a reserved slot full and PFREE a held one free, and raise 0x26 for
any other; PQRY reads the pod. A pod that the team does not have raises 0x26, one in error 0x74. R331: an operation that comes
before one already performed in this cycle waits for another cycle (log entry 18's choice), as a release does for its group's
core accesses; what has waited is performed in the same way. In a stream kernel PQRY raises 0x26 and the others 0x30. SUB 0 of
the stops with 0x26 is log entry 42's reading of Table 11.1. -/
def Obligations.PodsPassSlots : Prop :=
  ((∀ g f, ∀ ins ∈ [Instr.psendRsv g f, .psendCmt g f, .precv g f, .pfree g f], StopsInStream ins g) ∧
   ∀ s i, Sound s i → i.stream = true → ∀ g f, s.active g ≠ [] → exec (.pqry g f) s = .next (s.raise 0x26)) ∧
  (∀ s h q ins v, (s.groups.map Prod.fst).Nodup → (Tab.get? s.groups h).isSome → (s.group h).parked = some q →
     q.wait = .syncOp ins v → (s.group h).accessBy ≤ s.cycle → s.syncPast h = false → (s.group h).stepping = false →
     (s.teamOf (s.group h).team).out = false → (Tab.get? s.teams (s.group h).team).isSome →
     ∀ g f, ins ∈ [Instr.psendRsv g f, .psendCmt g f, .precv g f, .pfree g f] →
     let k := (s.group h).team
     let p := f.xf 0 4
     let pd := s.podOf k p
     p < (s.teamOf k).pods.length → Tab.get? (s.teamOf k).syncBad (16 + p) = none →
     ∃ t, exec (.syncOperationPerform h) s = .next t ∧
       (let takes := fun (j : Nat) (want : SlotState) (recv : Bool) =>
          if pd.slots.getD j .free = want then (t.group h).parked = none ∧
            (t.group h).frontier = ((s.group h).commit q.pc q.level q.moves q.kids false).frontier ∧
            (t.group h).scal (f.d.toNat % 64) % 2 ^ 20 = (pd.base + j * pd.bytes) % 2 ^ 20 ∧
            (t.podOf k p).slots = pd.slots.set j (if recv then .held else .reserved)
          else t.group h = { s.group h with parked := some { q with wait := .pod p recv (f.d.toNat % 64) } } ∧
            (t.podOf k p).waiting = pd.waiting ++ [h]
        let passes := fun (want new : SlotState) =>
          let j := v.toNat / 2 ^ 22 % 64
          if j < pd.count ∧ pd.slots.getD j .free = want then
            pd.waiting = [] → (t.podOf k p).slots = pd.slots.set j new ∧ GoesOn s t h
          else (t.group h).cause.extractLsb' 0 8 = if (s.group h).cause.getLsbD 26 then 0x1F#8 else 0x26#8
        (ins = .psendRsv g f → takes pd.whead .free false) ∧ (ins = .precv g f → takes pd.rhead .full true) ∧
        (ins = .psendCmt g f → passes .reserved .full) ∧ (ins = .pfree g f → passes .held .free))) ∧
  ∀ s i, Sound s i → i.stream = false → (s.group i.gid).parked = none → ∀ g f u, s.onceUnits g = [u] →
    let p := f.xf 0 4
    let tm := s.teamOf i.team
    let d := f.d.toNat
    let five := [Instr.psendRsv g f, Instr.psendCmt g f, Instr.precv g f, Instr.pfree g f, Instr.pqry g f]
    let still := (s.group i.gid).accessBy ≤ s.cycle
    let s1 := s.noteSync i.gid
    let bad := Tab.get? tm.syncBad (16 + p)
    let waitsFor := fun (ins : Instr) (v : Nat) => ∃ t, exec ins s = .next t ∧ Waits s t i (.syncOp ins (BitVec.ofNat 64 v)) ∧
      Kept s t [i.gid] [] []
    (s.syncPast i.gid = true → waitsFor (.psendRsv g f) 0 ∧ waitsFor (.precv g f) 0 ∧
      (p < tm.pods.length → Stalls (.pqry g f) s i)) ∧
    ((Instr.psendCmt g f).wf = true → s.syncPast i.gid = true ∨ ¬ still →
      waitsFor (.psendCmt g f) (s.sreg u f.a.toNat) ∧ waitsFor (.pfree g f) (s.sreg u f.a.toNat)) ∧
    (tm.pods.length ≤ p → exec (.pqry g f) s = .next (s.raise 0x26)) ∧
    (s.syncPast i.gid = false →
    (still → tm.pods.length ≤ p → ∀ ins ∈ five, exec ins s = .next (s.raise 0x26)) ∧
    (still → p < tm.pods.length → bad = some .uncorrectable →
      (∀ x ∈ s.groups, x.2.parked = none) →
      ∀ ins ∈ five, exec ins s = .next (s1.raise 0x74)) ∧
    (p < tm.pods.length → bad = none →
      let pd := s.podOf i.team p
      let only := fun (t : State) => t.teamOf i.team = { s1.teamOf i.team with pods := (t.teamOf i.team).pods }
      let word := fun (j : Nat) (ph : Bool) =>
        packFields [(pd.base + j * pd.bytes, 20), (pd.home, 2), (j, 6), (if ph then 1 else 0, 1), (0, 3),
          (tm.sbase.getD pd.home 0 + (pd.base + j * pd.bytes), 19), (tm.cores.getD pd.home 0 % 8, 3)]
      let takes := fun (ins : Instr) (j : Nat) (want : SlotState) (new : Pod) (ph recv : Bool) =>
        (pd.slots.getD j .free = want → ∃ t, exec ins s = .next t ∧
          (t.group i.gid).scal d = word j ph ∧ t.podOf i.team p = new ∧
          GroupFrame { scal := fun _ n => n == d } i.gid (s.group i.gid) (t.group i.gid) ∧
          (∀ k, k ≠ p → t.podOf i.team k = s.podOf i.team k) ∧ only t ∧ Kept s t [i.gid] [i.team] [] ∧ t.cur = s.cur) ∧
        (pd.slots.getD j .free ≠ want → ∃ t, exec ins s = .next t ∧ Waits s t i (.pod p recv d) ∧
          t.podOf i.team p = { pd with waiting := pd.waiting ++ [i.gid] } ∧ only t ∧ Kept s t [i.gid] [i.team] [])
      let passes := fun (ins : Instr) (want new : SlotState) =>
        let j := s.sreg u f.a.toNat / 2 ^ 22 % 64
        (pd.count ≤ j ∨ pd.slots.getD j .free ≠ want → exec ins s = .next (s1.raise 0x26)) ∧
        (j < pd.count → pd.slots.getD j .free = want → pd.waiting = [] → ∃ t, exec ins s = .next t ∧
          t.podOf i.team p = { pd with slots := pd.slots.set j new } ∧
          (∀ k, k ≠ p → t.podOf i.team k = s.podOf i.team k) ∧ only t ∧ Kept s t [] [i.team] [] ∧ t.cur = s.cur)
      let last := fun (j : Nat) => decide (j + 1 = pd.count)
      ((Instr.psendRsv g f).wf = true → pd.whead < pd.fph.length → takes (.psendRsv g f) pd.whead .free
        { pd with
          slots := pd.slots.set pd.whead .reserved, fph := pd.fph.set pd.whead pd.wph
          whead := if last pd.whead then 0 else pd.whead + 1, wph := pd.wph != last pd.whead } pd.wph false) ∧
      ((Instr.precv g f).wf = true → takes (.precv g f) pd.rhead .full
        { pd with
          slots := pd.slots.set pd.rhead .held
          rhead := if last pd.rhead then 0 else pd.rhead + 1, rph := pd.rph != last pd.rhead }
        (pd.fph.getD pd.rhead false) true) ∧
      (still → (Instr.psendCmt g f).wf = true → passes (.psendCmt g f) .reserved .full) ∧
      (still → (Instr.pfree g f).wf = true → passes (.pfree g f) .held .free) ∧
      ((Instr.pqry g f).wf = true → ∃ t, exec (.pqry g f) s = .next t ∧
        let count := fun (x : SlotState) => (pd.slots.filter fun y => y == x).length
        (t.group i.gid).scal d = packFields [(count .free, 7), (0, 1), (count .full, 7), (0, 1), (pd.whead, 6),
          (if pd.wph then 1 else 0, 1), (0, 1), (pd.rhead, 6), (if pd.rph then 1 else 0, 1), (0, 1), (pd.count - 1, 6)] ∧
        Frame { scal := fun h n => h == i.gid && n == d } s1 t)))

/-! ### Watches and synchronisation memory (05 R143-R146, 16 R394-R404) -/

/-- R143-R146. MON arms a watch on a 64-byte span of its core's own window, or of device memory that may be read and
reached; a new one takes the old one's place, and an on-chip address elsewhere raises 0x26. MWAIT without a watch gives 2;
on a watch that has triggered 0, or 1 if it did so after the deadline (log entry 42's choice); past the deadline 1; else its
group waits. The deadline ends the wait with 1, another wake with 3; each end disarms the watch. In a batch of a stream kernel
each fibre of active does what it does alone. -/
def Obligations.WatchesEndWaits : Prop :=
  (∀ s i, Sound s i → i.out = .done → ∀ g f u h j, s.onceUnits g = [u] → i.at? u = some (h, j) → (Instr.mon g f).wf = true →
     let a := wrapN ((s.sreg u f.a.toNat : Int) + sextN f.x.toNat 32) 57
     let mine := a / 2 ^ 30 % 4 = 0 ∧ a / 2 ^ 19 % 2 ^ 11 = 0 ∧ a / 2 ^ 32 % 2 ^ 9 = i.core ∧
       s.inWindow s.curCtx i.core (a % 2 ^ 19) 1 = true
     (a / 2 ^ 41 % 2 ^ 16 = 0xFFFF →
       (mine → ∃ t, exec (.mon g f) s = .next t ∧ Kept s t [h] [] [] ∧
         t.group h = { s.group h with watch := some { core := some i.core, span := a % 2 ^ 19 / 64 } }) ∧
       (¬ mine → exec (.mon g f) s = .next (s.raise 0x26 1 a))) ∧
     (a / 2 ^ 41 % 2 ^ 16 ≠ 0xFFFF → ∀ s1 x, s.access i.core s.curCtx a .read = (s1, Except.ok x) →
       (s1.reaches (i.core / 128 % 4) x.pa = true → ∃ t, exec (.mon g f) s = .next t ∧ Kept s1 t [h] [] [] ∧
         t.group h = { s1.group h with watch := some { core := none, span := s1.placeOf x.pa / 64 } }) ∧
       (s1.reaches (i.core / 128 % 4) x.pa = false → exec (.mon g f) s = .next (s1.raise 0x69)))) ∧
  (∀ s i, Sound s i → i.stream = true → i.out = .done → s.faults = [] → ∀ g f, ∀ ins ∈ [Instr.mon g f, .mwait g f],
     ins.wf = true →
     let alone := fun u => exec ins { s with cur := some (i.only [u]) }
     (∀ u ∈ s.active g, ∃ t, alone u = .next t ∧ t.iss.out ≠ .raised) →
     ∃ t, exec ins s = .next t ∧ ∀ u ∈ s.active g, ∀ h j, i.at? u = some (h, j) →
       ∃ t1, alone u = .next t1 ∧ t.group h = t1.group h) ∧
  ((∀ s i, Sound s i → ∀ g f u h j, s.onceUnits g = [u] → i.at? u = some (h, j) → (Instr.mwait g f).wf = true →
     let dl := s.sreg u f.a.toNat
     let gives := fun (v : Nat) => ∃ t, exec (.mwait g f) s = .next t ∧ (t.group h).scal f.d.toNat = v ∧
       (t.group h).watch = none ∧ Kept s t [h] [] [] ∧ t.cur = s.cur ∧
       ∀ n, n ≠ f.d.toNat → (t.group h).scal n = (s.group h).scal n
     ((s.group h).watch = none → gives 2) ∧
     ∀ w, (s.group h).watch = some w →
       (∀ tm, w.triggered = some tm → gives (if tm ≤ dl then 0 else 1)) ∧
       (w.triggered = none →
         (dl < s.gtc (i.core / 128 % 4) → gives 1) ∧
         (s.gtc (i.core / 128 % 4) ≤ dl → ∃ t, exec (.mwait g f) s = .next t ∧ Kept s t [h] [] [] ∧
           t.cur = some { i with out := .parked } ∧ t.group h = { s.group h with
             parked := some { wait := .mwait dl f.d.toNat, pc := i.stopPc, level := i.level, moves := i.movesIn h } }))) ∧
   ∀ s h p dl d, (Tab.get? s.groups h).isSome → (s.group h).parked = some p → p.wait = .mwait dl d →
     let away := (s.teamOf (s.group h).team).out
     let late := dl < s.gtc (coreDie (s.group h).core)
     let ends := fun (ins : Instr) (v : Nat) => (s.group h).stepping = false → ∃ t, exec ins s = .next t ∧
       Woken s t h d v ∧ (t.group h).watch = none ∧ Kept s t [h] [] []
     (away = false → late → ends (.mwaitDeadline h) 1) ∧
     (away = true ∨ ¬ late → exec (.mwaitDeadline h) s = .next s) ∧
     (away = false → ends (.mwaitOtherWake h) 3) ∧ (away = true → exec (.mwaitOtherWake h) s = .next s))

namespace Sys2Proof.Slice0

/-- R396: an execution's flag or cell, at its address: what the translation gives once alignment, region, rights and
path pass. -/
def MemAt (s : State) (i : Issue) (va : Nat) (al : Nat) (acc : Acc) (s1 : State) (x : Xlate) : Prop :=
  va % al = 0 ∧ va / 2 ^ 41 % 2 ^ 16 ≠ 0xFFFF ∧ s.access i.core s.curCtx va acc = (s1, Except.ok x) ∧
  s1.reaches (i.core / 128 % 4) x.pa = true

/-- R394: an 8-byte posted write of group `h` at an address has been performed at its home, and the group's horizon
reaches its global write completion time. It no longer waits for sectors (18 R419). -/
def Posted (s t : State) (h ctx : Nat) (x : Xlate) (off v : Nat) (dest : Group → Group) (also : State → State := id) : Prop :=
  ∃ s2 tm, s.writeAt (coreDie (s.group h).core) (s.group h).core ctx { x with pa := x.pa + off } v 8 0 = (s2, .done tm) ∧
    t = (also (s2.endWait (.posted h))).modGroup h fun gr => dest { gr with horizon := max gr.horizon tm }

/-- A flag's or cell's operation waits: its group holds where it goes on, the checks it has passed (18 R427), and its
requests' deadlines (R396). -/
def MemWaits (s t : State) (i : Issue) (h : Nat) (w : Wait) (queued : Option (Nat × Nat × Nat) := none) : Prop :=
  Kept s t [h] [] [] ∧ t.group h = { s.group h with
    parked := some { wait := w, pc := i.stopPc, level := i.level, moves := i.movesIn h
                     passed := s.iss.checked.filter fun c => some c.1 == w.page
                     deadlines := s.issueDeadlines, queued := queued } }

/-- R455: the group waits, and its request is on its way to the home of its cell, on another die: the cell has not been read.
The request leaves now unless 256 to that die are unanswered, its number lies outside the filter's window, or it might overtake
an earlier one (R456, R457). -/
def SentOff (s t : State) (i : Issue) (h : Nat) (w : Wait) (x : Xlate) : Prop :=
  let src := i.core % 512
  let dst := s.homeOf x.pa
  let lane := laneOf (paLa x.pa)
  t.group h = { s.group h with
    parked := some { wait := w, pc := i.stopPc, level := i.level, moves := i.movesIn h
                     passed := s.iss.checked.filter fun c => some c.1 == w.page, deadlines := s.issueDeadlines } } ∧
  (∀ k, k ≠ h → t.group k = s.group k) ∧ t.mem = s.mem ∧
  ((s.unanswered src dst).length < 256 → tsnIn (s.oldestTsn src dst) (Tab.getD s.tsns (4 * src + dst) 0) = true →
    s.laneElsewhere src (i.core / 128 % 4) dst lane = false → s.hasJob (.posted h) = false →
    ∃ n r, Tab.get? t.reqs n = some r ∧ r.job = .posted h ∧ r.msg.src = src ∧ r.msg.dst = dst ∧ r.msg.lane = lane)

end Sys2Proof.Slice0

/-- R394, R396, R399, R402-R404: at a home that the write reaches, TRDY writes s[B][31:0] to a flag and TCLR zero; VPUB writes
a cell's word 0 with the other version; VACQ gives the current version and counts a reader, or waits for the
last reader of the other version; VREL takes a reader away and gives the count left, or 2^64 - 1 where there is none. At a
home on another die, VPUB, VACQ and VREL send an exactly-once request, and wait (19 R455). A release waits until its agent's
earlier accesses are performed; a write of a flag also while an exactly-once request of its core is on the way before it (19
R457), and each behind what goes first at its home (18 R414). -/
def Obligations.FlagsAndCellsAreWritten : Prop :=
  ∀ s i, Sound s i → i.out = .done → ∀ g f u h j, s.onceUnits g = [u] → i.at? u = some (h, j) →
    let va := s.sreg u f.a.toNat % 2 ^ 57
    let v := s.sreg u f.b.toNat
    let may := (s.group h).accessBy ≤ s.cycle ∧ (f.xf 0 3 < 4 ∨ (s.group h).horizon < s.gtc (coreDie (s.group h).core))
    (s.group h).core = i.core →
    (∀ ins ∈ [Instr.trdy g f, .tclr g f, .vpub g f, .vacq g f, .vrel g f], ins.wf = true →
      let al := if ins = .trdy g f ∨ ins = .tclr g f then 8 else 16
      (va % al ≠ 0 → exec ins s = .next (s.raise 0x24 1 va)) ∧
      (va % al = 0 → va / 2 ^ 41 % 2 ^ 16 = 0xFFFF → exec ins s = .next (s.raise 0x26 1 va))) ∧
    (∀ s1 x, MemAt s i va 8 .atomic s1 x → s1.group h = s.group h → s1.cycle = s.cycle → s1.time = s.time → s1.gtcOff = s.gtcOff →
      ((Instr.trdy g f).wf = true →
        (may → s1.heldBack h x = false → s1.postedBehind h x = false → ∀ t, Posted s1 t h s.curCtx x 0 (v % 2 ^ 32) id →
          exec (.trdy g f) s = .next t) ∧
        (may → s1.heldBack h x = false → s1.postedBehind h x = true → ∃ t, exec (.trdy g f) s = .next t ∧
          MemWaits s1 t i h (.posted (.trdy g f) va v f.d.toNat)
            (some (s1.gtc (homeDie x.pa), queueOf x.pa, pteCls x.pte))) ∧
        (¬ may ∨ s1.heldBack h x = true → ∃ t, exec (.trdy g f) s = .next t ∧
          MemWaits s1 t i h (.posted (.trdy g f) va v f.d.toNat))) ∧
      ((Instr.tclr g f).wf = true →
        (s1.heldBack h x = false → s1.postedBehind h x = false → ∀ t, Posted s1 t h s.curCtx x 0 0 id →
          exec (.tclr g f) s = .next t) ∧
        (s1.heldBack h x = true → ∃ t, exec (.tclr g f) s = .next t ∧
          MemWaits s1 t i h (.posted (.tclr g f) va v f.d.toNat)))) ∧
    (∀ s1 x, MemAt s i va 16 .atomic s1 x → s1.group h = s.group h → s1.cycle = s.cycle → s1.time = s.time →
      s1.gtcOff = s.gtcOff → s1.homeOf x.pa ≠ i.core / 128 % 4 →
      ∀ ins ∈ [Instr.vpub g f, .vacq g f, .vrel g f], ins.wf = true → (ins = .vacq g f ∨ may) →
        ∃ t, exec ins s = .next t ∧ SentOff s1 t i h (.posted ins va v f.d.toNat) x) ∧
    ∀ s1 x, MemAt s i va 16 .atomic s1 x → s1.group h = s.group h → s1.cycle = s.cycle → s1.time = s.time →
      s1.gtcOff = s.gtcOff → paRegion x.pa = 0 → homeDie x.pa = i.core / 128 % 4 → s1.postedBehind h x = false →
      ∀ s2 r, s1.readHome (i.core / 128 % 4) x.pa = (s2, r) → r.status = 0 → s2.group h = s.group h → s2.cur = s1.cur →
        s2.teams = s.teams →
        let cell := r.val / 2 ^ (8 * (x.pa % 64))
        let cur := cell / 2 ^ 32 % 2
        let rd := fun (k : Nat) => cell / 2 ^ (64 + 32 * k) % 2 ^ 24
        let counts := fun (k n : Nat) => rd (1 - k) * 2 ^ (32 * (1 - k)) + n * 2 ^ (32 * k)
        let gives := fun (w : Nat) (gr : Group) => gr.putScal f.d.toNat w
        ((Instr.vpub g f).wf = true → may → ∀ t, Posted s2 t h s.curCtx x 0 (v % 2 ^ 32 + 2 ^ 32 * (1 - cur)) id →
          exec (.vpub g f) s = .next t) ∧
        ((Instr.vacq g f).wf = true →
          let waits := ∃ t, exec (.vacq g f) s = .next t ∧ MemWaits s2 t i h (.posted (.vacq g f) va v f.d.toNat)
          (f.xf 3 1 = 1 → (rd (1 - cur) ≠ 0 → waits) ∧
            (rd (1 - cur) = 0 → exec (.vacq g f) s = .next (s2.modGroup h (gives (cell % 2 ^ 33))))) ∧
          (f.xf 3 1 = 0 → (rd cur = 2 ^ 24 - 1 → waits) ∧
            (rd cur < 2 ^ 24 - 1 → ∀ t, Posted s2 t h s.curCtx x 8 (counts cur (rd cur + 1)) (gives (cell % 2 ^ 33)) →
              exec (.vacq g f) s = .next t))) ∧
        ((Instr.vrel g f).wf = true → may →
          let k := v % 2
          (rd k = 0 → exec (.vrel g f) s = .next (s2.modGroup h (gives (2 ^ 64 - 1)))) ∧
          (rd k ≠ 0 → ∀ t, Posted s2 t h s.curCtx x 8 (counts k (rd k - 1)) (gives (rd k - 1)) →
            exec (.vrel g f) s = .next t))

/-- R397-R400: TWAIT gives 0 when its flag meets the target, 1 past its deadline, and else waits; it stalls while its read must
stay behind an exactly-once request of its core (19 R457). The deadline ends the wait. A posted write that waited is performed once its agent may release. -/
def Obligations.FlagsEndWaits : Prop :=
  (∀ s i, Sound s i → i.out = .done → ∀ g f u h j, s.onceUnits g = [u] → i.at? u = some (h, j) → (Instr.twait g f).wf = true →
    (s.group h).core = i.core →
    let va := s.sreg u f.a.toNat % 2 ^ 57
    let dl := s.sreg u f.c.toNat
    let target := s.sreg u f.b.toNat % 2 ^ 32
    ∀ s1 x, MemAt s i va 8 .read s1 x → s1.group h = s.group h → s1.teams = s.teams → paRegion x.pa ≠ 1 →
      (s1.heldBack h x = true → exec (.twait g f) s = .next s1.stall) ∧
      (s1.heldBack h x = false →
      ∀ s2 r, s1.readHome (i.core / 128 % 4) x.pa = (s2, r) → r.status = 0 → s2.cur = s1.cur → s2.group h = s.group h →
        let fl := r.val / 2 ^ (8 * (x.pa % 64)) % 2 ^ 32
        let met := fl ≠ 0 ∧ (target = 0 ∨ (fl + 2 ^ 32 - target) % 2 ^ 32 < 2 ^ 31)
        let gives := fun (v : Nat) => exec (.twait g f) s = .next (s2.modGroup h fun gr => gr.putScal f.d.toNat v)
        (met → gives 0) ∧ (¬ met → dl < s2.gtc (i.core / 128 % 4) → gives 1) ∧
        (¬ met → s2.gtc (i.core / 128 % 4) ≤ dl → ∃ t, exec (.twait g f) s = .next t ∧
          MemWaits s2 t i h (.twait va x.pa target dl f.d.toNat)))) ∧
  (∀ s h p va pa target dl d, (Tab.get? s.groups h).isSome → (s.group h).parked = some p →
    p.wait = .twait va pa target dl d → (s.teamOf (s.group h).team).out = false → (s.group h).stepping = false →
    (s.gtc (coreDie (s.group h).core) ≤ dl → exec (.twaitDeadline h) s = .next s) ∧
    (dl < s.gtc (coreDie (s.group h).core) → ∀ s1 x, s.waitAddr h va .read = (s1, Except.ok x) → s1.group h = s.group h →
      s1.time = s.time → s1.gtcOff = s.gtcOff → paRegion x.pa ≠ 1 → s1.heldBack h x = false →
      ∀ s2 r, (s1.serveWait (s1.homeOf x.pa) h).readHome (coreDie (s.group h).core) x.pa = (s2, r) → r.status = 0 → s2.group h = s.group h →
        s2.time = s.time → s2.gtcOff = s.gtcOff → (Tab.get? s2.groups h).isSome →
        ∃ t, exec (.twaitDeadline h) s = .next t ∧ Kept s2 t [h] [] [] ∧
          Woken s2 t h d (if flagMeets (r.val / 2 ^ (8 * (x.pa % 64)) % 2 ^ 32) target then 0 else 1))) ∧
  ∀ s h p g f ins w va v d, (Tab.get? s.groups h).isSome → (s.group h).parked = some p → p.wait = .posted ins va v d →
    (ins = .tclr g f ∧ w = 0 ∨ ins = .trdy g f ∧ w = v % 2 ^ 32 ∧ (s.group h).accessBy ≤ s.cycle ∧
      (f.xf 0 3 < 4 ∨ (s.group h).horizon < s.gtc (coreDie (s.group h).core))) →
    (s.teamOf (s.group h).team).out = false → s.hasJob (.posted h) = false →
    ∀ s1 x, s.waitAddr h va .atomic = (s1, Except.ok x) → s1.group h = s.group h → s1.teams = s.teams →
      s1.heldBack h x = false → s1.postedBehind h x = false →
      ∀ t, Posted s1 t h (s.teamOf (s.group h).team).ctx x 0 w id (fun u => u.serveWait (u.homeOf x.pa) h) →
        exec (.postedWritePerform h) s = .next (t.resume h)

/-! ### Engine commands (08 R210-R219, 10 R257, 12 R306, R322, 14 R346, R347, 15 R372, 18 R438, R445, R446, 19 R466-R468) -/

namespace Sys2Proof.Slice0

/-- R189, R192, R306: an engine operation has been accepted. Its counter rises by one, and the token of each of `ms` (group
and scalar) is pending; it keeps its requests' deadlines (R220) and the checks it has passed (18 R427); nothing else
changes. -/
def Accepted (s t : State) (i : Issue) (ms : List (Nat × Nat)) (o : Op) : Prop :=
  t.op s.seq = some o ∧ o.core = i.core ∧ o.team = i.team ∧ o.ctx = s.curCtx ∧
  o.deadlines = s.issueDeadlines ∧ o.passed = s.iss.checked ∧ o.withdrawn = [] ∧ o.queued = none ∧ o.status = 0 ∧ (∀ id, id ≠ s.seq → t.op id = s.op id) ∧ t.seq = s.seq + 1 ∧
  (t.sharedOf o.gid).count o.cls = (s.sharedOf o.gid).count o.cls + 1 ∧
  (∀ h c, c < 4 → (c ≠ o.cls ∨ ((s.group h).team ≠ i.team ∨ i.stream = false) ∧ h ≠ o.gid) →
    (t.sharedOf h).count c = (s.sharedOf h).count c) ∧
  (∀ h, t.group h = { s.group h with
    shared := (t.group h).shared
    pending := (s.group h).pending ++ (ms.filter fun m => m.1 == h).map Prod.snd }) ∧
  (∀ k, t.teamOf k = { s.teamOf k with shared := (t.teamOf k).shared }) ∧
  t = { s with seq := t.seq, ops := t.ops, groups := t.groups, teams := t.teams }

/-- An instruction by its guard and fields, with what a table says of it. -/
structure CmdRow (α : Type) where
  ins : Guard → Fields → Instr
  is : α

/-- Table 8.7: the copy commands, each with its kind and class counter (Table 7.6). -/
def copyRows : List (CmdRow (CopyCmd × Nat)) :=
  [⟨.cpg, .g, 0⟩, ⟨.cps, .s, 1⟩, ⟨.cpt, .t, 2⟩, ⟨.cpr, .r, 2⟩, ⟨.cpq, .q, 2⟩, ⟨.cpf, .f, 2⟩, ⟨.cpgx, .gx, 0⟩, ⟨.cpsx, .sx, 1⟩,
   ⟨.cpm, .m, 2⟩]

/-- Whether 64 copies of a core are in flight (R210). -/
def copiesFull (s : State) (k : Nat) : Bool := decide (64 ≤ (s.ops.filter fun o => isCopy o.2.instr && o.2.core == k).length)

end Sys2Proof.Slice0

/-- R210-R219: a copy command whose checks pass is accepted with the units of its destination, and its descriptor and index
words as they stood; with a full counter or 64 copies of its core in flight it stalls; a misaligned descriptor raises 0x24,
one that leaves the window 0x26, and one that is not valid 0x60. In a batch of a stream kernel the commands of the fibres are
accepted one after the other, in lane order. -/
def Obligations.CopiesAreAccepted : Prop :=
  (∀ s i, Sound s i → i.stream = true → i.out = .done → ∀ g f,
    ∀ ins ∈ Instr.cpa g f :: copyRows.map fun r => r.ins g f, ins.wf = true → ∀ u us, s.active g = u :: us →
    ∀ t1, exec ins { s with cur := some (i.only [u]) } = .next t1 → t1.iss.out = .done →
    ∀ t2, exec ins { t1 with cur := some { i.only us with checked := t1.iss.checked } } = .next t2 → t2.iss.out = .done →
    ∃ t, exec ins s = .next t ∧ t.iss.out = .done ∧ t = { t2 with cur := t.cur }) ∧
  ∀ s i, Sound s i → i.out = .done → ∀ g f u h j, s.onceUnits g = [u] → i.at? u = some (h, j) →
    let a := s.sreg u f.a.toNat % 2 ^ 32
    (∀ r ∈ copyRows, (r.ins g f).wf = true →
      let busy := (s.sharedOf h).count r.is.2 = 255 ∨ copiesFull s i.core = true
      (busy → Stalls (r.ins g f) s i) ∧
      (¬ busy → (a % 64 ≠ 0 → exec (r.ins g f) s = .next (s.raise 0x24 4 a)) ∧
        (a % 64 = 0 → s.outOfWindow a 64 = true → exec (r.ins g f) s = .next (s.raise 0x26 4 a)) ∧
        (a % 64 = 0 → s.outOfWindow a 64 = false → ∀ s1 d, s.windowBytes a 64 = (s1, Except.ok d) →
          let c : Copy := { cmd := r.is.1, x := f.x.toNat, d := d }
          (c.valid = false → exec (r.ins g f) s = .next (s1.raise 0x60)) ∧
          (c.valid = true →
            (∀ w ∈ c.windowRows, s1.outOfWindow w.1 w.2 = false) →
            ∀ s2 idx, s1.indexWords c = (s2, Except.ok idx) →
            let c := { c with idx := idx }
            ∀ s3, s2.checkRanges c.deviceRows = (s3, none) → s3.tagsOk c = true →
            ∃ t o, exec (r.ins g f) s = .next t ∧ Accepted s3 t i [(h, f.d.toNat)] o ∧ o.instr = r.ins g f ∧ o.gid = h ∧
              o.tok = f.d.toNat ∧ o.cls = r.is.2 ∧ o.args = [f.x.toNat, d] ++ idx ∧ o.rest = c.units ∧
              o.svc = f.x.toNat % 4 ∧ o.lost = [] ∧ o.moved = false)))) ∧
    ((Instr.cpa g f).wf = true →
      let busy := (s.sharedOf h).count 2 = 255 ∨ copiesFull s i.core = true
      let w := tyWidth ((tyOfCode (f.xf 6 6)).getD .none)
      (busy → Stalls (.cpa g f) s i) ∧
      (¬ busy → (a % 32 ≠ 0 → exec (.cpa g f) s = .next (s.raise 0x24 4 a)) ∧
        (a % 32 = 0 → s.outOfWindow a 32 = true → exec (.cpa g f) s = .next (s.raise 0x26 4 a)) ∧
        (a % 32 = 0 → s.outOfWindow a 32 = false → ∀ s1 d, s.windowBytes a 32 = (s1, Except.ok d) →
          let dest := d % 2 ^ 64
          let chip := dest / 2 ^ 41 % 2 ^ 16 = 0xFFFF
          (2 ^ 57 ≤ dest ∨ dest % (w / 8) ≠ 0 ∨ chip ∧ w = 64 → exec (.cpa g f) s = .next (s1.raise 0x60)) ∧
          (dest < 2 ^ 57 → dest % (w / 8) = 0 → ¬ (chip ∧ w = 64) → ∀ s2,
            (chip ∧ s2 = s1 ∨ ¬ chip ∧ s1.checkRanges [(dest, w / 8, .atomic)] = (s2, none)) →
            ∃ t o, exec (.cpa g f) s = .next t ∧ Accepted s2 t i [(h, f.d.toNat)] o ∧ o.instr = .cpa g f ∧ o.gid = h ∧
              o.tok = f.d.toNat ∧ o.cls = 2 ∧ o.args = [f.x.toNat, d, a] ∧ o.rest = [0] ∧ o.svc = f.x.toNat % 4))))

/-- R438, R445, R446, R466-R468: near-memory and all-reduce commands whose checks pass are accepted; NMQ writes its token at
once, and ARQRY from the 16th cycle after its acceptance on, with its slot's ARR, MASK and GEN. That ARQRY's token is written by
the end of the step in which its 16th cycle is reached, that ARWAIT for a generation already reached completes as it is issued,
and that ARCFG reaches all units in one step are the model's choices (log entry 34). -/
def Obligations.NearMemoryCommandsAreAccepted : Prop :=
  (∀ (s : State) (id : Nat) (o : Op) (g : Guard) (f : Fields) (c : Nat), s.ops = [(id, o)] → o.instr = .arqry g f → o.args = [c] →
    (s.cycle < c → s.arAnswer = s) ∧
    (c ≤ s.cycle → o.tok < 64 → o.status = 0 → o.flags = 0 → o.exact = false → (Tab.get? s.groups o.gid).isSome →
      s.arAnswer.ops = [] ∧ (s.arAnswer.group o.gid).scal o.tok =
        let sl := s.arSlot (f.x.toNat % 16)
        let own := sl.owner = some o.ctx
        packFields [(0, 16), (if own ∨ sl.owner = none then sl.arr % 16 + 16 * (sl.mask % 16) + (if own then 256 else 0) else 0, 16),
          (sl.gen.toNat % 2 ^ 31, 31), (1, 1)])) ∧
  ∀ s i, Sound s i → i.out = .done → ∀ g f u h j, s.onceUnits g = [u] → i.at? u = some (h, j) →
    let d := f.d.toNat
    let a := s.sreg u f.a.toNat % 2 ^ 32
    let n := f.x.toNat % 16
    let free := fun (c : Nat) => (s.sharedOf h).count c ≠ 255
    (∀ ins ∈ [Instr.nmadd g f, .nmscl g f, .nmopt g f, .nmred g f], ins.wf = true →
      let cls := if ins = .nmred g f then 0 else 1
      let bytes := if ins = .nmopt g f then 128 else 64
      (¬ free cls → Stalls ins s i) ∧
      (free cls → (a % 64 ≠ 0 → exec ins s = .next (s.raise 0x24 4 a)) ∧
        (a % 64 = 0 → s.outOfWindow a bytes = true → exec ins s = .next (s.raise 0x26 4 a)) ∧
        (a % 64 = 0 → s.outOfWindow a bytes = false → ∀ s1 (x : Nat), s.windowBytes a bytes = (s1, Except.ok x) →
          ∀ s2 words, (match nearArray ins x with
              | some b => s1.outOfWindow b (4 * Near.rows x) = false ∧ s1.windowWords b (Near.rows x) = (s2, Except.ok words)
              | none => s2 = s1 ∧ words = []) →
          let c : NearCmd := { d := x, words := words }
          (∀ w ∈ c.windows ins, s2.outOfWindow w.1 w.2 = false) →
          ∀ s3 ws, (if nearRed ins = true ∧ f.xf 2 2 = 2 then s2.windowWords (Near.idx x) (Near.rows x) = (s3, Except.ok ws)
              else s3 = s2 ∧ ws = []) →
          (c.ok ins = false → exec ins s = .next (s3.raise 0x64)) ∧
          (c.ok ins = true → ∀ s4 xs, s3.placeRows s3.iss.core s3.curCtx (if nearRed ins then Acc.nearRead else Acc.near)
              ((c.indices ins).map fun p => Near.row x p.2) = (s4, Except.ok xs) →
            ∃ t o, exec ins s = .next t ∧ Accepted s4 t i [(h, d)] o ∧ o.instr = ins ∧ o.gid = h ∧ o.tok = d ∧ o.cls = cls ∧
              o.args = x :: words ∧ Tab.get? o.vals 0 = some ws ∧
              (∀ (k : Nat) (p : Nat × Nat) (y : Xlate), (c.indices ins)[k]? = some p → xs[k]? = some y →
                o.rowPa p.1 = y.pa ∧ o.rowPte p.1 = y.pte) ∧
              o.rest = (c.indices ins).map Prod.fst ∧ o.svc = f.x.toNat % 4)))) ∧
    ((Instr.nmfence g f).wf = true → (¬ free 2 → Stalls (.nmfence g f) s i) ∧
      (free 2 → ∃ t o, exec (.nmfence g f) s = .next t ∧ Accepted s t i [(h, d)] o ∧ o.instr = .nmfence g f ∧ o.gid = h ∧
        o.tok = d ∧ o.cls = 2 ∧ o.moved = false ∧ o.rest = fenceDies (f.xf 2 1 == 1) (o.args.drop 1) ∧
        o.args = if f.xf 2 1 = 1 then [1] else
          0 :: s.fenceBanks i.core s.curCtx (s.sreg u f.a.toNat % 2 ^ 57) (min (s.sreg u f.b.toNat) (2 ^ 40)))) ∧
    ((Instr.nmq g f).wf = true → ∃ t, exec (.nmq g f) s = .next t ∧ Frame { scal := fun k m => k == h && m == d } s
        { t with groups := t.groups.map fun p => (p.1, { p.2 with pending := (s.group p.1).pending }) } ∧
      (t.group h).scal d =
        let mine := fun (p : Instr → Bool) => (s.ops.filter fun o => o.2.gid == h && p o.2.instr).length
        packFields [(0, 16), (min ((s.nmRows.filter fun r => r.2.gid == h).length) 0xFFFF, 16),
          (mine nearRed % 2 ^ 15 + 2 ^ 15 * (mine nearFence % 2 ^ 15), 31), (1, 1)]) ∧
    (∀ ins ∈ [Instr.ared g f, .arwait g f, .arcfg g f, .arqry g f], ins.wf = true → ¬ free 2 → Stalls ins s i) ∧
    (free 2 →
      ((Instr.arqry g f).wf = true → ∃ t o, exec (.arqry g f) s = .next t ∧ Accepted s t i [(h, d)] o ∧ o.instr = .arqry g f ∧
        o.gid = h ∧ o.tok = d ∧ o.cls = 2 ∧ o.args = [s.cycle + 16]) ∧
      ((Instr.arwait g f).wf = true →
        ((s.arSlot n).owner ≠ some s.curCtx → exec (.arwait g f) s = .next (s.raise 0x65)) ∧
        ((s.arSlot n).owner = some s.curCtx → genReached (s.arSlot n).gen (s.sreg u f.b.toNat % 2 ^ 32) = false →
          (∀ p ∈ s.ops, isArwait p.2.instr = true → arSlotOf p.2.instr = n → s.opOut p.2 = true ∨
            genReached (s.arSlot n).gen (p.2.args.getD 0 0) = false) →
          ∃ t o, exec (.arwait g f) s = .next t ∧ Accepted s t i [(h, d)] o ∧ o.instr = .arwait g f ∧ o.gid = h ∧ o.tok = d ∧
            o.cls = 2 ∧ o.args = [s.sreg u f.b.toNat % 2 ^ 32]) ∧
        ((s.arSlot n).owner = some s.curCtx → genReached (s.arSlot n).gen (s.sreg u f.b.toNat % 2 ^ 32) = true →
          (∀ p ∈ s.ops, p.1 < s.seq ∧ arSlotOf p.2.instr ≠ n) → (s.teamOf i.team).out = false →
          ∃ t, exec (.arwait g f) s = .next t ∧ t.ops = s.ops ∧ (t.sharedOf h).count 2 = (s.sharedOf h).count 2 ∧
            (t.group h).scal d = packFields [(0, 32), ((s.arSlot n).gen.toNat % 2 ^ 31, 31), (1, 1)])) ∧
      ∀ ins ∈ [Instr.ared g f, .arcfg g f], ins.wf = true →
        (a % 16 ≠ 0 → exec ins s = .next (s.raise 0x24 4 a)) ∧
        (a % 16 = 0 → s.outOfWindow a 16 = true → exec ins s = .next (s.raise 0x26 4 a)) ∧
        (a % 16 = 0 → s.outOfWindow a 16 = false → ∀ s1 (x : Nat), s.windowBytes a 16 = (s1, Except.ok x) →
          (ins = .ared g f → s1.aredInvalid n x = true → exec ins s = .next (s1.raise 0x65)) ∧
          (ins = .ared g f → s1.aredInvalid n x = false → s1.arSlots = s.arSlots →
            let sl := s.arSlot n
            let die := i.core / 128 % 4
            (sl.arr.testBit die = true → exec ins s = .next s1.stall) ∧
            (sl.arr.testBit die = false → ∀ s2, s1.checkRanges
                [(x % 2 ^ 57, 64 * sl.nsec, .read), (x / 2 ^ 64 % 2 ^ 57, 64 * sl.nsec, .write)] = (s2, none) →
              s2.arSlots = s.arSlots →
              ∃ t o, exec ins s = .next t ∧ Accepted { s2 with arSlots := t.arSlots } t i [(h, d)] o ∧ o.instr = ins ∧ o.gid = h ∧
                o.tok = d ∧ o.cls = 2 ∧ o.args = [x] ∧ o.rest = List.range sl.nsec ∧
                Tab.getD t.arSlots n {} = { sl with arr := sl.arr + 2 ^ die } ∧
                ∀ m, m ≠ n → Tab.getD t.arSlots m {} = Tab.getD s.arSlots m {})) ∧
          (ins = .arcfg g f → s1.arcfgInvalid n x = true → exec ins s = .next (s1.raise 0x65)) ∧
          (ins = .arcfg g f → s1.arcfgInvalid n x = false →
            (∀ p ∈ s1.ops, isArwait p.2.instr = true → arSlotOf p.2.instr ≠ n) →
            ∃ t o, exec ins s = .next t ∧ Accepted { s1 with arSlots := t.arSlots } t i [(h, d)] o ∧ o.instr = ins ∧ o.gid = h ∧
              o.tok = d ∧ o.cls = 2 ∧ o.args = [x] ∧
              Tab.getD t.arSlots n {} = { owner := if x % 16 = 0 then none else some s.curCtx, mask := x % 16, ty := x / 2 ^ 8 % 64
                                          nsec := x / 2 ^ 16 % 2 ^ 20 + 1 } ∧
              ∀ m, m ≠ n → Tab.getD t.arSlots m {} = Tab.getD s1.arSlots m {})))

/-- R306-R322, R344-R347: render and hash-grid commands whose checks pass are accepted as one operation for every fibre of
active, each of whose groups names the token; the operands are those of the issue. An HGATH or HSCAT that names a slot which an
HCFG is still to fill stalls (R346). R352: a slot ownership in error raises 0x74. The model's choices: each fibre has a texture
descriptor of its own, whose alignment is checked so (log entry 27); the lowest lane's fibre of a stream batch names HCFG's
descriptor, and the words that hold a slot's owner are read as log entry 30 says. -/
def Obligations.RenderCommandsAreAccepted : Prop :=
  ∀ s i, Sound s i → ∀ g f, s.active g ≠ [] →
    let ls := s.active g
    let d := f.d.toNat
    let gs := distinct (ls.filterMap fun l => (i.at? l).map Prod.fst)
    let free := fun (c : Nat) => (s.sharedOf i.gid).count c ≠ 255
    let regs := fun (l b n : Nat) => (List.range n).map fun k => s.vreg l (b + k)
    let enters := fun (ins : Instr) (s1 : State) (cls : Nat) (res : List Nat) (vals : Nat → List Nat) =>
      ∃ t o, exec ins s = .next t ∧ Accepted s1 t i (gs.map fun h => (h, d)) o ∧ o.instr = ins ∧ o.gid = gs.headD 0 ∧ o.tok = d ∧
        o.cls = cls ∧ o.results = res ∧ o.vals = ls.map (fun l => (l, vals l)) ∧ o.members = gs.map (fun h => (h, d)) ∧
        o.lanes = ls.filterMap fun l => (i.at? l).map fun p => (l, p.1, p.2)
    (∀ ins ∈ [Instr.tex g f, .texn g f, .txq g f, .texg g f, .rbox g f, .rtri g f, .hgath g f], ins.wf = true → ¬ free 0 →
      Stalls ins s i) ∧
    (∀ ins ∈ [Instr.rpush g f, .rpop g f, .hcfg g f], ins.wf = true → ¬ free 2 → Stalls ins s i) ∧
    (free 0 →
      (∀ ins ∈ [Instr.tex g f, .texn g f, .txq g f, .texg g f], ins.wf = true →
        let query := decide (ins = .txq g f)
        let neural := decide (ins = .texn g f)
        let at_ := fun l => s.sreg l f.b.toNat % 2 ^ 32
        ∀ s1 ds, s.readTextures (distinct (ls.map at_)) = (s1, Except.ok ds) →
          let desc := fun l => Tab.getD ds (at_ l) 0
          let texels := ls.flatMap fun l => (tapsOf ins f (desc l) (regs l f.a.toNat 4)).filterMap fun t =>
            t.at_.map fun p => (p, Texture.texel (desc l))
          let nets := if neural then distinct (ls.map fun l => Texture.net (desc l)) else []
          let tagless := texels.any fun p =>
            match s1.lookup i.core s1.curCtx p.1 with
            | .ok x => !x.tagged
            | .error _ => false
          ((ds.any fun x => !Texture.valid x.2 neural query) = true ∨ neural = true ∧ tagless = true →
            exec ins s = .next (s1.raise 0x61)) ∧
          ((ds.any fun x => !Texture.valid x.2 neural query) = false → (neural = false ∨ tagless = false) →
            (∀ n ∈ nets, ∃ x ∈ (s1.core i.core).networks, x.1 = s1.curCtx ∧ x.2.1 = n) →
            ∀ s2, s1.checkRanges (texels.map fun r => (r.1, r.2, Acc.read)) = (s2, none) →
              (s2.core i.core).networks = (s1.core i.core).networks →
              ∃ s3, Kept s2 s3 [] [] [i.core] ∧
                s3.core i.core = { s2.core i.core with networks := (s3.core i.core).networks } ∧
                (∀ x, x ∈ (s3.core i.core).networks ↔ x ∈ (s2.core i.core).networks) ∧
                enters ins s3 0 ((List.range (if neural then 8 else 4)).map (f.c.toNat + ·))
                  fun l => desc l :: regs l f.a.toNat (if query then 1 else 4))) ∧
      (∀ ins ∈ [Instr.rbox g f, .rtri g f], ins.wf = true →
        let box := decide (ins = .rbox g f)
        let ref := fun l => s.vval l f.b.toNat 64
        let kind := fun l => ref l / 2 ^ 62 % 4
        ((∃ l ∈ ls, kind l = 3 ∨ kind l = if box then 2 else 1) → exec ins s = .next (s.raise 0x61)) ∧
        ((∀ l ∈ ls, kind l ≠ 3 ∧ kind l ≠ if box then 2 else 1) →
          ∀ s1, s.checkRanges ((ls.flatMap fun l => rayRanges box (ref l)).map fun r => (r.1, r.2, Acc.read)) = (s1, none) →
            enters ins s1 0 ((List.range (if box then 14 else 5)).map (f.c.toNat + ·)) fun l => ref l :: regs l f.a.toNat 8))) ∧
    (free 2 →
      (∀ ins ∈ [Instr.rpush g f, .rpop g f], ins.wf = true →
        let n := 2 ^ (f.xf 19 3 + 2)
        let push := decide (ins = .rpush g f)
        let ring := fun l => s.ringOf f l
        (f.xf 0 19 % 16 ≠ 0 → exec ins s = .next (s.raise 0x24 4 (f.xf 0 19))) ∧
        (f.xf 0 19 % 16 = 0 →
          (∀ l, (ls.find? fun l => s.outOfWindow ((ring l).1 + (n - 1) * (ring l).2 : Nat) 16) = some l →
            exec ins s = .next (s.raise 0x26 4 ((ring l).1 + (n - 1) * (ring l).2))) ∧
          ((∀ l ∈ ls, s.outOfWindow ((ring l).1 + (n - 1) * (ring l).2 : Nat) 16 = false) →
            ((∃ l ∈ ls, stackOk n (s.vreg l f.b.toNat) = false) → exec ins s = .next (s.raise 0x61)) ∧
            ((∀ l ∈ ls, stackOk n (s.vreg l f.b.toNat) = true) →
              enters ins s 2 ((List.range 13).map (f.b.toNat + ·) ++ if push then [] else (List.range 3).map (f.c.toNat + ·))
                fun l => [(ring l).1, (ring l).2] ++ regs l f.b.toNat 13 ++
                  if push then [s.vreg l f.a.toNat, s.vreg l (f.a.toNat + 1), s.vreg l f.c.toNat] else [])))) ∧
      ((Instr.hcfg g f).wf = true → s.hashFull = false →
        let a : Nat := s.sreg (ls.headD 0) f.a.toNat % 2 ^ 32
        let tm := s.teamOf i.team
        a % 64 = 0 → s.outOfWindow a 64 = false → ∀ s1 (x : Nat), s.windowBytes a 64 = (s1, Except.ok x) →
          s1.outOfWindow a (Grid.size x) = false → ∀ s2 (y : Nat), s1.windowBytes a (Grid.size x) = (s2, Except.ok y) →
          (∀ p, s2.slotOwner (coreCluster i.core) (f.xf 0 4) = some p → p.1 = i.team) → gridOk y tm.ssize = true →
          ∀ s4, s2.readOwner (coreCluster i.core) (f.xf 0 4) i.team true = (s4, false) →
          ∀ s3, s4.checkRanges ((List.range (Grid.levels y)).flatMap fun k =>
              let v := Grid.level y k
              let n := 2 * Grid.features y * 2 ^ v.lt
              if v.device then [(v.tbase % 2 ^ 57, n, Acc.read), (v.gbase % 2 ^ 57, 2 * n, Acc.write)] else []) = (s3, none) →
            let pending := fun (tm : Team) => ((Tab.get? tm.hslots (f.xf 0 4)).map HashSlot.pending).getD 0
            enters (.hcfg g f) (s3.modTeam i.team fun tm =>
              { tm with hslots := Tab.set tm.hslots (f.xf 0 4) { desc := y, pending := pending tm + 1 } }) 2 [] fun _ => [])) ∧
    (∀ ins ∈ [Instr.hgath g f, .hscat g f], ins.wf = true →
      let gather := decide (ins = .hgath g f)
      let cls := if gather then 0 else 1
      let base := if gather then f.c.toNat else f.b.toNat
      free cls → ∀ s1 lost, s.readOwner (coreCluster i.core) (f.xf 0 4) i.team false = (s1, lost) →
      (lost = true → exec ins s = .next (s1.raise 0x74)) ∧
      (lost = false → s1.slotOwner (coreCluster i.core) (f.xf 0 4) = none → exec ins s = .next (s1.raise 0x62)) ∧
      ∀ k x, lost = false → s1.slotOwner (coreCluster i.core) (f.xf 0 4) = some (k, x) →
        let res := (List.range ((f.xf 8 4 + 1) * Grid.features x.desc)).map (base + ·)
        let fits := (s1.teamOf k).ctx = s1.curCtx ∧ f.xf 4 4 + (f.xf 8 4 + 1) ≤ Grid.levels x.desc ∧
          res.all (s1.roleOf i.gid).hasReg = true
        (x.pending ≠ 0 → exec ins s = .next s1.stall) ∧
        (x.pending = 0 → ¬ fits → exec ins s = .next (s1.raise 0x62)) ∧
        (x.pending = 0 → fits → (∃ r ∈ res, 64 ≤ r ∧ (s1.group i.gid).h ≤ (r - 64) / 32) → exec ins s = .next (s1.raise 0x42)) ∧
        (x.pending = 0 → fits → (∀ r ∈ res, 64 ≤ r → (r - 64) / 32 < (s1.group i.gid).h) →
          (s1.hashFull = true → exec ins s = .next s1.stall) ∧
          (s1.hashFull = false →
            (∀ q ∈ s1.takers g, ∀ r ∈ res, r ∉ s1.pendingVecs q) →
            (∀ l ∈ ls, ∀ r ∈ res, gather = true ∨ s1.regError l r = none) →
            enters ins s1 cls (if gather then res else [])
              fun l => (List.range 3).map (fun n => s1.vreg l (f.a.toNat + n)) ++
                if gather then [] else res.map (s1.vreg l))))

namespace Sys2Proof.Slice0

/-- A task command, with the alignment of its window operand and the operand number of its causes; 0 where it has none. -/
def taskRows : List (CmdRow (Nat × Nat)) :=
  [⟨.tspawn, 64, 1⟩, ⟨.trange, 32, 4⟩, ⟨.tsend, 16, 1⟩, ⟨.trecv, 16, 1⟩, ⟨.tdone, 0, 0⟩, ⟨.tqry, 0, 0⟩, ⟨.tclose, 0, 0⟩,
   ⟨.tgrain, 0, 0⟩]

/-- R372: what a task command names is not there for its team: a queue that is not enabled for its context; a node that is
not a range node, or an edge, of a running graph of its context; an edge whose records it does not consume; an interval. -/
def taskMissing (s : State) (i : Issue) (f : Fields) (ins : Instr) : Bool :=
  let tm := s.teamOf i.team
  let di := s.die (i.core / 128 % 4)
  let gr := di.graph (f.xf 8 6)
  let here := gr.run && gr.ctx == tm.ctx
  let edge := if here then gr.edgeTab[f.xf 0 8]? else none
  match ins with
  | .tspawn _ _ => !((di.queue (f.xf 0 10)).en && (di.queue (f.xf 0 10)).ctx == tm.ctx)
  | .trange _ _ => !(here && (gr.nodeTab[f.xf 0 8]?).any fun n => n.kind == 2)
  | .tsend _ _ | .tqry _ _ | .tclose _ _ => edge.isNone
  | .tdone _ _ | .trecv _ _ => !(edge.any fun e => tm.node == some (f.xf 8 6, e.cons))
  | _ => tm.interval.isNone

end Sys2Proof.Slice0

/-- R369, R372, R373: a task command whose checks pass is accepted with the bytes of its window operand; the result scalars
of TGRAIN are pending too, and a team that sends to an edge that is over is held back. With a full counter it stalls; a
misaligned operand raises 0x24, what it names and is not there 0x63, an operand that leaves the window 0x26. That TRANGE's
operand has SUB 4, a descriptor's, and the others' SUB 1, and that TRANGE's check of END and the reserved field comes after that
of the window, are the model's choices (log entry 33). -/
def Obligations.TaskCommandsAreAccepted : Prop :=
  ∀ s i, Sound s i → i.out = .done → ∀ g f u h j, s.onceUnits g = [u] → i.at? u = some (h, j) → ∀ r ∈ taskRows,
    (r.ins g f).wf = true →
    let ins := r.ins g f
    let d := f.d.toNat
    let a := s.sreg u f.a.toNat % 2 ^ 32
    let al := r.is.1
    let recSize := match (s.graphOf (i.core / 128 % 4) (f.xf 8 6)).edgeTab[f.xf 0 8]? with | some e => e.rsz | none => 0
    let bytes := if ins = .tspawn g f then 512 else if ins = .trange g f then 32 else if ins = .tsend g f then recSize
      else (f.xf 14 8 + 1) * recSize
    let takes := fun (s1 : State) (addr data : Nat) => ∃ t o, exec ins s = .next t ∧
      t.op s1.seq = some o ∧ o.instr = ins ∧ o.gid = h ∧ o.tok = d ∧ o.cls = 2 ∧ o.args = [addr, data] ∧ o.core = i.core ∧
      o.team = i.team ∧ o.moved = false ∧ t.seq = s1.seq + 1 ∧ (∀ id, id ≠ s1.seq → t.op id = s1.op id) ∧
      (t.sharedOf h).count 2 = (s1.sharedOf h).count 2 + 1 ∧
      (t.group h).pending = (s1.group h).pending ++ d :: (if ins = .tgrain g f then [f.b.toNat, f.c.toNat] else []) ∧
      (t.teamOf i.team).descheduled =
        (let gs := f.xf 8 6
         let held := (s1.teamOf i.team).descheduled
         match (s1.graphOf (i.core / 128 % 4) gs).edgeTab[f.xf 0 8]? with
         | some e => if ins = .tsend g f ∧ e.overfull = true ∧ (s1.teamOf i.team).node ≠ some (gs, e.cons) ∧ (gs, f.xf 0 8) ∉ held
           then held ++ [(gs, f.xf 0 8)] else held
         | none => held) ∧
      ∀ k, (t.group k).lanes = (s1.group k).lanes ∧ (t.group k).scalars = (s1.group k).scalars
    ((s.sharedOf h).count 2 = 255 → Stalls ins s i) ∧
    ((s.sharedOf h).count 2 ≠ 255 →
      (al = 0 → (taskMissing s i f ins = true → exec ins s = .next (s.raise 0x63)) ∧
        (taskMissing s i f ins = false → takes s 0 0)) ∧
      (al ≠ 0 →
        (a % al ≠ 0 → exec ins s = .next (s.raise 0x24 r.is.2 a)) ∧
        (a % al = 0 → taskMissing s i f ins = true → exec ins s = .next (s.raise 0x63)) ∧
        (a % al = 0 → taskMissing s i f ins = false →
          (s.outOfWindow a bytes = true → exec ins s = .next (s.raise 0x26 r.is.2 a)) ∧
          (s.outOfWindow a bytes = false → ins = .trecv g f → takes s a 0) ∧
          (s.outOfWindow a bytes = false → ins ≠ .trecv g f → ∀ s1 x, s.windowBytes a bytes = (s1, Except.ok x) →
            (ins = .trange g f → rangeBad x = true → exec ins s = .next (s1.raise 0x63)) ∧
            ((ins = .trange g f → rangeBad x = false) → takes s1 a x)))))

namespace Sys2Proof.Slice0

/-- The collective matrix instructions of Table 9.4a. -/
def collectives : List (Guard → Fields → Instr) :=
  [.mzro, .mldb, .mma, .mmat, .mdrn, .mqef, .mrda, .mwra, .maddt, .mscl]

/-- R236 step 4, R238: a matrix operation has entered its core's engine for its members: the counter of each rises by one,
and its token, if the word names one, is pending. -/
def Entered (s t : State) (o : Op) (ms : List Nat) : Prop :=
  t.op s.seq = some o ∧ o.members = ms.map (fun m => (m, o.tok)) ∧ o.rest = [0] ∧ (∀ id, id ≠ s.seq → t.op id = s.op id) ∧
  t.seq = s.seq + 1 ∧
  (∀ m ∈ ms, (t.sharedOf m).count o.cls = (s.sharedOf m).count o.cls + 1 ∧
    (t.group m).pending = (s.group m).pending ++ if o.tok < 64 then [o.tok] else []) ∧
  (∀ h, h ∉ ms → t.group h = s.group h) ∧ (∀ k, t.teamOf k = s.teamOf k)

end Sys2Proof.Slice0

/-- R233-R237, R257-R269, R274, R275, Tables 10.5, 10.6: a collective matrix instruction waits until every other member of
its core has issued the same word with the same scalars; the last one's issue is checked, and accepted as one operation
that those accepted before it and conflicting with it must precede. A word or scalar that differs raises 0x31 in every
member, a failed check its cause; a fibre that is missing raises 0x30, and a member that has retired 0x31. The model's choices:
status 8 for a mask word in error (log entry 26), and that the limit of 16 counts MXPOSE, MSTSH and MLDSH (log entry 42). -/
def Obligations.CollectivesAreAccepted : Prop :=
  ∀ c ∈ collectives, ∀ s i, Sound s i → i.stream = false → i.entry ≠ [] → i.view = none → ∀ g f, (c g f).wf = true →
    let ins := c g f
    let me := i.gid
    let k := i.core
    let ms := (s.groups.filter fun p => p.2.core == k && p.2.team == i.team && !p.2.retired &&
      (((s.teamOf p.2.team).roles[p.2.role]?).map fun r => r.grant.getLsbD 1) == some true).map Prod.fst
    let others := ms.filter fun m => m != me
    let sig := ((ins.row (s.group me).width).reads f).map fun n => (s.group me).scal n
    let all := i.entry.length = i.width ∧ (s.group me).lanes.length = i.width ∧ (∀ ln ∈ (s.group me).lanes, ln.live = true) ∧
      (s.active g).length = i.width
    let owns := (s.roleOf me).grant.getLsbD 1 = true ∧ (s.core k).marrow.owner = some i.team
    let there := fun (m : Nat) (j : Instr) (x : List Nat) => ∃ p, (s.group m).parked = some p ∧ p.wait = .collective j x
    (¬ owns → exec ins s = .next (s.raise 0x14)) ∧
    (owns → (¬ all → exec ins s = .next (s.raise 0x30)) ∧
      (all → (s.sharedOf me).count 3 = 255 → Stalls ins s i) ∧
      (all → (s.sharedOf me).count 3 ≠ 255 →
        ((s.core k).marrow.missing = true → exec ins s = .next (s.raise 0x31)) ∧
        ((s.core k).marrow.missing = false →
          ((∃ m ∈ others, ∀ j x, ¬ there m j x) → ∃ t, exec ins s = .next t ∧ Waits s t i (.collective ins sig) ∧
            Kept s t [me] [] []) ∧
          let stops := fun (x sub ea : Nat) =>
            State.raise (others.foldl (fun (t : State) m => t.stopParked m x sub ea) s) x sub ea
          ((∀ m ∈ others, ∃ j x, there m j x) → (∃ m ∈ others, ¬ there m ins sig) → exec ins s = .next (stops 0x31 0 0)) ∧
          ((∀ m ∈ others, there m ins sig) → ms.Nodup → me ∈ ms → (s.group me).parked = none →
            let sa := (s.group me).scal f.a.toNat
            let sb := (s.group me).scal f.b.toNat
            (∀ x sub ea, s.mxCheck ins k i.team sa sb = some (x, sub, ea) → exec ins s = .next (stops x sub ea)) ∧
            (s.mxCheck ins k i.team sa sb = none →
              (16 ≤ (s.ops.filter fun o => o.2.core == k && isMatrix o.2.instr).length →
                ∃ t, exec ins s = .next t ∧ Waits s t i (.collective ins sig) ∧ Kept s t [me] [] []) ∧
              ((s.ops.filter fun o => o.2.core == k && isMatrix o.2.instr).length < 16 →
                let tm := s.teamOf i.team
                let masked := (ins = .mma g f ∨ ins = .mmat g f) ∧ f.xf 10 1 = 1
                let mask := Place.scr k (tm.sbase.getD (tm.cores.idxOf k) 0 + 16 * f.xf 16 15)
                let n := if f.xf 11 1 = 1 then 2 else 16
                let lost := masked ∧ s.placeLost mask n = true
                ∃ t o s1, exec ins s = .next t ∧ Entered (if masked then s.repairPlace mask n else s) s1 o ms ∧ o.instr = ins ∧
                  o.cls = 3 ∧ o.core = k ∧ o.tok = (if mxTk f then f.c.toNat % 64 else 64) ∧
                  o.args = [sa, sb, if masked ∧ ¬ lost then s.placeLoad mask n else 0] ∧ o.status = (if lost then 8 else 0) ∧
                  o.after = (s.ops.filter fun p => p.2.core == k && mxConflict ins p.2.instr).map Prod.fst ∧
                  (t.core k).marrow.seq = (s.core k).marrow.seq + 1 ∧ t.ops = s1.ops ∧ t.teams = s1.teams ∧
                  t.group me = s1.group me ∧ ∀ m ∈ others, GoesOn s1 t m))))))

/-- R257, R270-R273, R276: the single matrix instructions. MXPOSE is accepted; MSTSH takes the top of the stash for its
entry and is accepted, or ends at once with status 1 when the entry lives or has no room; MLDSH is accepted for a live
entry, which it drops if told to, or ends at once with status 3; MSEQ reads the operations finished and in flight. Their guard
is that of the entry's lowest-numbered fibre (R32). With 16 operations unfinished the three stall, and PEND counts all of them,
at most 16 (log entry 42's choices). -/
def Obligations.SingleMatrixCommandsAct : Prop :=
  ∀ s i, Sound s i → i.stream = false → ∀ g f, i.view = none → f.a.toNat < 64 → f.b.toNat < 64 →
    (s.scalarUnits g = [] → ∀ ins ∈ [Instr.mxpose g f, .mstsh g f, .mldsh g f, .mseq g f], exec ins s = .next s) ∧
    (s.scalarUnits g ≠ [] →
    let me := i.gid
    let k := i.core
    let m := (s.core k).marrow
    let sa := (s.group me).scal f.a.toNat
    let sb := (s.group me).scal f.b.toNat
    let a := sa % 2 ^ 32
    let top := m.stash.foldl (fun (t : Nat) p => max t (p.2.base + p.2.size)) 0
    let id := f.xf 0 6
    let tok := if mxTk f then f.c.toNat % 64 else 64
    let checked := fun (ins : Instr) => s.mxCheck ins k i.team sa sb = none
    let free := fun (c : Nat) => (s.sharedOf me).count c ≠ 255 ∧
      (s.ops.filter fun o => o.2.core == k && isMatrix o.2.instr).length < 16
    let stashOps := (s.ops.filter fun p => p.2.core == k && match p.2.instr with | .mstsh _ _ | .mldsh _ _ => true | _ => false).map Prod.fst
    let enters := fun (ins : Instr) (cls : Nat) (args after : List Nat) (detail info : Nat) (new : Marrow) =>
      ∃ t o, exec ins s = .next t ∧ Entered s t o [me] ∧ o.instr = ins ∧ o.cls = cls ∧ o.tok = tok ∧ o.core = k ∧ o.args = args ∧
        o.after = after ∧ o.detail = detail ∧ o.info = info ∧ (t.core k).marrow = new
    let ends := fun (ins : Instr) (status detail info : Nat) => tok < 64 → ∃ t, exec ins s = .next t ∧
      (t.group me).scal tok = packFields [(status, 8), (0, 8), (detail, 16), (info, 31), (1, 1)] ∧
      (∀ n, n ≠ tok → (t.group me).scal n = (s.group me).scal n) ∧ Kept s t [me] [] []
    (∀ ins cls, (ins, cls) ∈ [(Instr.mxpose g f, 3), (.mstsh g f, 1), (.mldsh g f, 0)] →
      (¬ free cls → Stalls ins s i) ∧
      ∀ x sub ea, free cls → s.mxCheck ins k i.team sa sb = some (x, sub, ea) → exec ins s = .next (s.raise x sub ea)) ∧
    (free 3 → checked (.mxpose g f) → enters (.mxpose g f) 3 [sa, sb, 0] [] 0 0 m) ∧
    (free 1 → checked (.mstsh g f) →
      let n := 64 * f.xf 6 14
      (∀ e, Tab.get? m.stash id = some e → ends (.mstsh g f) 1 0xFFFF (m.stashSize - top)) ∧
      (Tab.get? m.stash id = none → m.stashSize < top + n → ends (.mstsh g f) 1 0 (m.stashSize - top)) ∧
      (Tab.get? m.stash id = none → top + n ≤ m.stashSize →
        enters (.mstsh g f) 1 [sa, top, n] stashOps (f.xf 6 14) (m.stashSize - (top + n))
          { m with stash := Tab.set m.stash id { base := top, size := n } })) ∧
    (free 0 → checked (.mldsh g f) →
      (Tab.get? m.stash id = none → ends (.mldsh g f) 3 0 (m.stashSize - top)) ∧
      ∀ e, Tab.get? m.stash id = some e →
        (s.outOf a e.size = true → exec (.mldsh g f) s = .next (s.raise 0x26 1 a)) ∧
        (s.outOf a e.size = false →
          let new := if f.xf 6 1 = 1 then { m with stash := Tab.erase m.stash id } else m
          enters (.mldsh g f) 0 [sa, e.base, e.size] stashOps (e.size / 64)
            (m.stashSize - new.stash.foldl (fun (t : Nat) p => max t (p.2.base + p.2.size)) 0) new)) ∧
    ((Instr.mseq g f).wf = true → ∃ t, exec (.mseq g f) s = .next t ∧ Frame { scal := fun h n => h == me && n == f.d.toNat } s t ∧
      (t.group me).scal f.d.toNat =
        (m.seq.toNat + 2 ^ 32 * min (s.ops.filter fun o => o.2.core == k && isMatrix o.2.instr).length 16) % 2 ^ 64))

/-! ### Containment, ages and retirement (02 R43, R49, R54, R59, 11 R284-R298, 15 R363) -/

namespace Sys2Proof.Slice0

/-- R286: from level `start` (0 group, 1 team, 2 grid, 3 context), with a policy for each level and a retry count, the walk
ends at `lvl` with action `act` (0 ignore, 1 retry, 2 kill) and leaves the count `rc`. A retry at a count of 15 sets it to
0 and goes a level up, as kill parent does. -/
def WalkEnds (pol : Nat → Nat) (start rcnt lvl act rc : Nat) : Prop :=
  let count := fun (l : Nat) => if (List.range l).any (fun k => decide (start ≤ k) && pol k == 1) then 0 else rcnt
  let passes := fun (l : Nat) => pol l = 3 ∨ (pol l = 1 ∧ count l = 15)
  start ≤ lvl ∧ lvl ≤ 3 ∧ (∀ l, start ≤ l → l < lvl → passes l) ∧
    ((pol lvl = 0 ∧ act = 0 ∧ rc = count lvl) ∨ (pol lvl = 1 ∧ count lvl ≠ 15 ∧ act = 1 ∧ rc = count lvl + 1) ∨
      (pol lvl = 2 ∧ act = 2 ∧ rc = count lvl) ∨
      (lvl = 3 ∧ passes 3 ∧ act = 2 ∧ rc = if pol 3 = 1 then 0 else count 3))

/-- Table 11.1: `c` is sr.cause `b` with LVL, ACT and RCNT. -/
def Marked (b c : BitVec 36) (lvl act rc : Nat) : Prop :=
  c.extractLsb' 0 18 = b.extractLsb' 0 18 ∧ c.extractLsb' 18 2 = BitVec.ofNat 2 lvl ∧ c.extractLsb' 20 2 = BitVec.ofNat 2 act ∧
  c.extractLsb' 22 4 = BitVec.ofNat 4 rc ∧ c.extractLsb' 28 8 = b.extractLsb' 28 8

/-- The stop's fibres go on past it, past both members of a pair (R294). -/
def pastStop (gr : Group) (st : Stop) (pc : BitVec 57) : Group :=
  { gr.commit st.pc st.level (st.lanes.map fun j => { lane := j, pc := pc, level := st.level }) [] false with stop := none }
def afterStop (st : Stop) : BitVec 57 := if st.pair then seqPc (seqPc st.pc) else seqPc st.pc

/-- R288: every fibre of a group has ended, as by FEND, whatever it waited for. -/
def Ended (a b : Group) : Prop :=
  b = { a with
    lanes := a.lanes.map fun l => { l with live := false }
    frontier := [], parked := none, stop := none, halt := false, shadow := none, refetch := none, watch := none
    cause := b.cause, readySince := b.readySince } ∧ b.cause.getLsbD 26 = false

/-- R286, R288, R289, Table 11.7: the walk of a stop has ended. sr.cause takes LVL, ACT and RCNT, a record is written above
group level, but for a retry counted above 1, and the action is performed at that level. -/
def WalkPerformed (s t : State) (g : Nat) (st : Stop) (lvl act rc : Nat) : Prop :=
  ∃ c, Marked (s.group g).cause c lvl act rc ∧ c.extractLsb' 26 2 = (s.group g).cause.extractLsb' 26 2 ∧
    let gr := s.group g
    let d := coreDie gr.core
    let ctx := (s.teamOf gr.team).ctx
    let s2 := { s.modGroup g (fun gr => { gr with cause := c }) with
      walks := if lvl = 3 then Tab.set s.walks ctx (Tab.getD s.walks ctx 0 + 1) else s.walks }
    let s3 := if lvl ≠ 0 ∧ ¬ (act = 1 ∧ 1 < rc) then
        s2.logAt d gr.core 0x03 st.stamp
          [(st.code, 8), (st.sub, 8), (lvl, 2), (act, 2), (gr.epc.toNat, 57), (gr.slot0, 11), (ctx, 12)]
      else s2
    (act = 0 → Kept s3 t [g] [] [] ∧
      t.group g = { (if st.async then { s3.group g with stop := none } else pastStop (s3.group g) st (afterStop st)) with
        readySince := s.cycle }) ∧
    (act = 1 → Kept s3 t [g] [] [] ∧ t.group g = { s3.group g with stop := none, readySince := s.cycle }) ∧
    (act = 2 → (∀ p ∈ s3.groups, s3.member p.2 = false) → (2 ≤ lvl → ∀ p ∈ s3.launches, p.2.live ≠ 0) →
      let id := (s3.teamOf (s3.group g).team).launch
      let inUnit := fun (h : Nat) => match lvl with
        | 0 => h = g
        | 1 => (s3.group h).team = (s3.group g).team
        | 2 => (s3.teamOf (s3.group h).team).launch = id
        | _ => ∃ p ∈ s3.launches, p.2.ctx = ctx ∧ p.1 = (s3.teamOf (s3.group h).team).launch
      (∀ h, (Tab.get? s3.groups h).isSome → (s3.group h).retired = false →
        (inUnit h → Ended (s3.group h) (t.group h)) ∧ (¬ inUnit h → t.group h = s3.group h)) ∧
      (lvl = 2 → Tab.get? t.launches id = (Tab.get? s3.launches id).map fun l =>
        { l with ended := true, status := if l.ended then l.status else 1, reason := if l.ended then l.reason else st.code }) ∧
      (lvl = 3 → ∀ p ∈ t.arSlots, p.2.owner ≠ some ctx))

end Sys2Proof.Slice0

/-- R284-R290, R293, R297, R298: CONTAINMENT_WALK and DEBUG_RESUME. A stop is walked by the policies of sr.cpol, from
team level for 0x1F; a retry at group level first enters the handler at sr.ufh, when that target may be entered, and in a
compatibility context the handler at sr.hvec comes first. A halted group that resumes goes past a breakpoint, replays an
address breakpoint, goes on at sr.epc after a single step, and after any other cause is walked or, with DROP, replays. -/
def Obligations.StopsAreWalked : Prop :=
  ∀ s g st, (Tab.get? s.groups g).isSome → (s.group g).stop = some st →
    let gr := s.group g
    let sh := s.sharedOf g
    let ctx := (s.teamOf gr.team).ctx
    let hvec := BitVec.ofNat 57 (ctxHvec (s.ctxEntry (coreDie (s.group g).core) ctx))
    let cls := st.code / 16 % 8 - 1
    let pol := fun (l : Nat) =>
      let p := sh.cpol.toNat / 2 ^ (14 * l + 2 * cls) % 4
      if cls = 6 ∧ p = 0 then 2 else p
    let rcnt := gr.cause.toNat / 2 ^ 22 % 16
    let start := if st.code = 0x1F then 1 else 0
    let live := (List.range gr.lanes.length).filter fun j => match gr.lanes[j]? with | some ln => ln.live | none => false
    let performs := fun (s1 : State) (lvl act rc : Nat) =>
      ∃ t, exec (.containmentWalk g) s = .next t ∧ WalkPerformed s1 t g st lvl act rc
    let handled := fun (s1 : State) (pc : BitVec 57) (act rc : Nat) (compat : Bool) =>
      ∃ t c, exec (.containmentWalk g) s = .next t ∧ Kept s1 t [g] [] [] ∧ Marked gr.cause c 0 act rc ∧
        c.getLsbD 26 = true ∧ c.getLsbD 27 = compat ∧
        t.group g = { gr with
          shadow := some { frontier := gr.frontier, preds := live.map fun j => (j, gr.pred j), stop := st }
          frontier := [{ pc := pc, lanes := live }], cause := c, stop := none, readySince := s.cycle }
    let walked := fun (s1 : State) => ∀ lvl act rc, WalkEnds pol start rcnt lvl act rc →
      (¬ (lvl = 0 ∧ act = 1 ∧ sh.ufh ≠ 0) → performs s1 lvl act rc) ∧
      (lvl = 0 ∧ act = 1 ∧ sh.ufh ≠ 0 → ∀ s2 e, s1.checkTargets gr.core ctx [sh.ufh] = (s2, e) → s2.group g = gr → s2.teams = s.teams →
        (e = none → handled s2 sh.ufh 1 rc false) ∧
        (e ≠ none → ∀ lvl act rc, WalkEnds (fun l => if l = 0 then 3 else pol l) 0 rcnt lvl act rc → performs s2 lvl act rc))
    let compat := sh.cpol.getLsbD 56 = true ∧ st.code ≠ 0x1F ∧ hvec ≠ 0
    (st.halted = true → exec (.containmentWalk g) s = .next s) ∧
    (st.halted = false → (¬ compat → walked s) ∧
      (compat → ∀ s1 e, s.checkTargets gr.core ctx [hvec] = (s1, e) → s1.group g = gr → s1.teams = s.teams →
        (e = none → handled s1 hvec 3 rcnt true) ∧ (e ≠ none → walked s1))) ∧
    ∀ drop,
      (st.halted = false → exec (.debugResume g drop) s = .next s) ∧
      (st.halted = true → ∃ t, exec (.debugResume g drop) s = .next t ∧ Kept s t [g] [] [] ∧
        let a := { gr with halt := false, resumed := true, stepping := sh.dbg.getLsbD 0 && sh.dbg.getLsbD 1 }
        t.group g =
          if st.code = 0x50 then { pastStop a st (afterStop st) with readySince := s.cycle }
          else if st.code = 0x52 then { pastStop a st gr.epc with readySince := s.cycle }
          else if st.code = 0x51 ∨ drop = true then { a with stop := none, readySince := s.cycle }
          else { a with stop := some { st with halted := false } })

/-- R43, R49, R54, R59, R191, R206, R363: an entry past its age is due; a fibre ready for 4,096 cycles is aged, and a group
ready for 65,536 is boosted; a line whose parity failed is read once more, used and logged if it matches, and else raises
0x71 (a failed refetch gives its line's address, which is log entry 16's choice); a group without fibres or operations retires and gives its registers back, first stopping at a failing status it
never joined; its team ends with its last group. -/
def Obligations.AgesAndRetirementsAct : Prop :=
  ∀ s g, (Tab.get? s.groups g).isSome →
    let gr := s.group g
    let tm := s.teamOf gr.team
    let k := gr.core
    (∃ t, exec (.entryAgeDue g) s = .next t ∧ Kept s t [g] [] [] ∧ t.group g = { gr with frontier := (t.group g).frontier } ∧
      (t.group g).frontier.length = gr.frontier.length ∧
      ∀ (n : Nat) (e : Entry), gr.frontier[n]? = some e →
        (t.group g).frontier[n]? = some { e with due := e.due || decide (4096 ≤ e.age) }) ∧
    (let aged := tm.stream = true ∧ s.ready g gr = true ∧ 4096 ≤ s.cycle - gr.readySince
     (aged → ∃ t, exec (.freeFibreAged g) s = .next t ∧ Kept s t [g] [] [] ∧ t.group g = { gr with aged := true }) ∧
     (¬ aged → exec (.freeFibreAged g) s = .next s)) ∧
    (let starved := s.ready g gr = true ∧ 65536 ≤ s.cycle - gr.lastIssue
     (starved → ∃ t, exec (.starvationBoost g) s = .next t ∧ Kept s t [g] [] [] ∧ t.group g = { gr with boosted := true }) ∧
     (¬ starved → exec (.starvationBoost g) s = .next s)) ∧
    ((gr.refetch = none → exec (.lineRefetch g) s = .next s) ∧
     ∀ line, gr.refetch = some line →
       let key := tm.ctx * 2 ^ 57 + line.toNat
       let s1 := (s.modGroup g fun gr => { gr with refetch := none }).modCore k fun c => { c with fetched := Tab.erase c.fetched key }
       (∀ s2 c, s1.access k tm.ctx line.toNat .fetch = (s2, Except.error c) → ∀ e, selectEntry gr.frontier = some e →
         exec (.lineRefetch g) s = .next (s2.stopGroup g c 0 (if 0x20 ≤ c ∧ c < 0x30 then BitVec.ofNat 57 line.toNat else 0)
           false false e.pc e.level e.lanes)) ∧
       ∀ s2 x, s1.access k tm.ctx line.toNat .fetch = (s2, Except.ok x) →
         ∀ s3 r, (if paRegion x.pa = 0 then s2.dropLine (s2.cacheKey k x.pa) (paLa x.pa / 512) else s2).readSector k tm.ctx x = (s3, r) →
           (r.status ≠ 0 → ∀ e, selectEntry gr.frontier = some e →
             exec (.lineRefetch g) s = .next (s3.stopGroup g (statusCause r.status) 0 0 false false e.pc e.level e.lanes)) ∧
           (r.status = 0 →
           (parityOk r.val = true → ∃ t, exec (.lineRefetch g) s = .next t ∧
             t = (s3.modCore k fun c => { c with fetched := Tab.set c.fetched key r.val }).log (coreDie k) k 0x01
               [(line.toNat / 64, 51), (gr.slot0, 11), (tm.ctx, 12)]) ∧
           (parityOk r.val = false → ∀ e, selectEntry gr.frontier = some e →
             exec (.lineRefetch g) s = .next
               (s3.stopGroup g 0x71 0 0 false (pairBit r.val (slotOf e.pc)) e.pc e.level e.lanes)))) ∧
    (let isOver := (∀ ln ∈ gr.lanes, ln.live = false) ∧ gr.retired = false ∧ gr.stop = none ∧
       ∀ o ∈ s.ops, o.2.gid ≠ g ∧ (∀ m ∈ o.2.members, m.1 ≠ g) ∧ ∀ x ∈ o.2.lanes, x.2.1 ≠ g
     (¬ isOver → exec (.groupRetire g) s = .next s) ∧
     (isOver →
       (∀ u r, gr.unjoined = u :: r → exec (.groupRetire g) s = .next
         ((s.modGroup g fun gr => { gr with unjoined := r }).stopGroup g u.cause (u.token % 64) 0 true false gr.lastPc 0 [])) ∧
       (gr.unjoined = [] → tm.stream = false → s.member gr = false → tm.barriers = [] → tm.syncBad = [] → gr.core < 512 →
         let n := tm.cores.idxOf k
         let base := gr.width * (s.roleOf g).nb
         (∃ p ∈ s.groups, p.1 ≠ g ∧ p.2.team = gr.team ∧ p.2.retired = false) → (s.groups.map Prod.fst).Nodup →
         ∃ t, exec (.groupRetire g) s = .next t ∧ Kept s t [g] [gr.team] [k] ∧
           t.group g = { gr with
             ext := [], extAt := [], holder := false, retired := true, watch := none
             lanes := gr.lanes.map fun ln =>
               { ln with regs := ln.regs.filter fun r => r.1 < 64, bad := ln.bad.filter fun r => r.1 < 64 } } ∧
           t.core k = { s.core k with pool := (s.core k).pool + fromPool gr 0 + base } ∧
           t.teamOf gr.team = { tm with
             reserve := tm.reserve.modify n fun r => r + fromReserve gr 0, regBase := tm.regBase.modify n fun r => r - base }) ∧
       (gr.unjoined = [] → tm.stream = false → s.member gr = false → tm.barriers = [] → tm.syncBad = [] → tm.ended = false →
         tm.node = none →
         (Tab.get? s.teams gr.team).isSome → (s.groups.map Prod.fst).Nodup →
         (∀ l, Tab.get? s.launches tm.launch = some l → 1 < l.live) →
         (∀ p ∈ s.groups, p.1 ≠ g → p.2.team = gr.team → p.2.retired = true) →
         ∃ t, exec (.groupRetire g) s = .next t ∧ (t.group g).retired = true ∧ (t.teamOf gr.team).ended = true ∧
           (t.teamOf gr.team).cores = [] ∧ (∀ h, h ≠ g → t.group h = s.group h) ∧
           Tab.get? t.launches tm.launch = (Tab.get? s.launches tm.launch).map fun l =>
             { l with live := l.live - 1, horizon := max l.horizon (s.teamHorizon gr.team) }) ∧
       (gr.unjoined = [] → tm.stream = true → tm.ended = false → tm.node = none → (Tab.get? s.teams gr.team).isSome →
         (∀ l, Tab.get? s.launches tm.launch = some l → 1 < l.live) →
         let mine := fun (p : Nat × Group) => p.2.team = gr.team
         let idle := ∀ p ∈ s.groups, mine p → (∀ ln ∈ p.2.lanes, ln.live = false) ∧ p.2.unjoined = [] ∧ p.2.stop = none ∧
           ∀ o ∈ s.ops, o.2.gid ≠ p.1 ∧ (∀ m ∈ o.2.members, m.1 ≠ p.1) ∧ ∀ x ∈ o.2.lanes, x.2.1 ≠ p.1
         (¬ idle → exec (.groupRetire g) s = .next s) ∧
         (idle → ∃ t, exec (.groupRetire g) s = .next t ∧ (t.teamOf gr.team).ended = true ∧
           ∀ h, t.group h = if (s.group h).team = gr.team ∧ (Tab.get? s.groups h).isSome then { s.group h with retired := true }
             else s.group h))))

/-! ### Engine operations complete (07 R190-R193, 08 R215, R219, R221, 10 R238, 12 R306, R307, R321, 14 R346-R349, 15 R373,
18 R439, R444, R445, 19 R466, R467) -/

namespace Sys2Proof.Slice0

/-- Table 7.4: the status word of an operation. -/
def tokenWord (o : Op) : Nat :=
  packFields [(o.status, 8), (o.flags.toNat, 7), (boolNat o.exact, 1), (min o.detail 0xFFFF, 16), (o.info, 31), (1, 1)]

/-- R110, R190-R193, R306: an operation, whose record is then `o`, has completed for the tokens `ms` (group and scalar): its
counter falls, its status word stands in each token, which is no longer pending, its flags are set, a failing status waits
for its join, and no other scalar, register or fibre is changed. -/
def Finished (s t : State) (id : Nat) (o : Op) (ms : List (Nat × Nat)) : Prop :=
  t.op id = none ∧ (∀ j, j ≠ id → t.op j = s.op j) ∧
  (t.sharedOf o.gid).count o.cls = (s.sharedOf o.gid).count o.cls - 1 ∧
  (∀ m ∈ ms, m.2 < 64 → (t.group m.1).scal m.2 = tokenWord o ∧ m.2 ∉ (t.group m.1).pending) ∧
  (∀ m ∈ ms, 8 ≤ o.status → ({ token := m.2, cause := statusCause o.status, cls := o.cls, op := id } : Unjoined) ∈ (t.group m.1).unjoined) ∧
  (∀ m ∈ ms, (t.sharedOf m.1).flags = (s.sharedOf m.1).flags ||| o.flags) ∧
  (∀ h n, (h, n) ∉ ms → (t.group h).scal n = (s.group h).scal n) ∧
  (∀ h, (t.group h).lanes = (s.group h).lanes ∧ (t.group h).frontier = (s.group h).frontier ∧
    (t.group h).parked = (s.group h).parked) ∧
  t = { s with ops := t.ops, groups := t.groups, teams := t.teams }

/-- No issue is under way and memory has its canonical form; each operation has one number; the groups an operation serves exist; each of its lanes is a fibre of its own. -/
def Serves (s : State) (id : Nat) (o : Op) : Prop :=
  s.cur = none ∧ Memory.wf s = true ∧ s.op id = some o ∧ (s.ops.map Prod.fst).Nodup ∧ (Tab.get? s.groups o.gid).isSome ∧
  (∀ m ∈ o.members, (Tab.get? s.groups m.1).isSome) ∧ (o.lanes.map Prod.fst).Nodup ∧ (o.lanes.map Prod.snd).Nodup ∧
  (o.vals.map Prod.fst).Nodup ∧
  ∀ x ∈ o.lanes, (Tab.get? s.groups x.2.1).isSome ∧ ((s.group x.2.1).lanes[x.2.2]?).isSome

/-- R221: the GTC has passed every write completion time of the operation. -/
def passed (s : State) (o : Op) : Prop := o.gwct = 0 ∨ o.gwct < s.gtc (coreDie o.core)

/-- The results of a render or hash-grid operation stand in its lanes, from register `c` upward. -/
def LaneResults (t : State) (o : Op) (c : Nat) (res : List Nat → List Nat) : Prop :=
  ∀ v ∈ o.vals, ∀ x ∈ o.lanes, x.1 = v.1 → ∀ n, n < (res v.2).length →
    (t.group x.2.1).reg x.2.2 (c + n) = (res v.2).getD n 0 % 2 ^ 32

end Sys2Proof.Slice0

/-- R215, R219, R221: a copy completes once its units are done and the GTC has passed its writes: DETAIL counts the sectors
not delivered, and CPA's OLD stands in its descriptor. A unit in the window takes, for each of its bytes, the byte of the
highest row that writes it. -/
def Obligations.CopiesComplete : Prop :=
  ∀ s id o, Serves s id o → isCopy o.instr = true →
    let c := o.copy
    ((s.teamOf o.team).out = true → exec (.copyOperationComplete id) s = .next s) ∧
    ((s.teamOf o.team).out = false → (o.rest = [] →
      (¬ passed s o → exec (.copyOperationComplete id) s = .next s) ∧
      (passed s o → copyCmd o.instr ≠ none → ∃ t, exec (.copyOperationComplete id) s = .next t ∧
        Finished s t id { o with
          detail := o.lost.length
          info := if c.cmd = .q ∧ c.dlen ≠ 0 then o.info * c.rowlen / c.dlen else o.info } [(o.gid, o.tok)]) ∧
      (passed s o → copyCmd o.instr = none → o.tok < 64 → ∃ t, exec (.copyOperationComplete id) s = .next t ∧ t.op id = none ∧
        (t.group o.gid).scal o.tok = tokenWord { o with detail := o.lost.length } ∧
        ∀ a, cellRead (t.scratchOf o.core) (s.opBase o + o.args.getD 2 0 + 24 + a) =
          if a < 8 ∧ o.buf ≠ [] then BitVec.ofNat 8 (Tab.getD o.buf 0 0 / 2 ^ (8 * a))
          else cellRead (s.scratchOf o.core) (s.opBase o + o.args.getD 2 0 + 24 + a))) ∧
    ∀ k, o.rest = [k] → k < 2 ^ 60 → passed s o → o.tok < 64 → c.dst = some .window →
      (copyCmd o.instr = some .g ∨ copyCmd o.instr = some .gx ∨ copyCmd o.instr = some .t ∨ copyCmd o.instr = some .f) →
      (∀ j, j < 64 → ∀ r n, c.writer (64 * k + j) = some (r, n) →
        (∀ q ∈ c.needs r n, (Tab.get? o.buf q).isSome) ∧ ∃ v, o.rowByte c r n = Got.ok (v, 0)) →
      ∃ t, exec (.copyOperationComplete id) s = .next t ∧ t.op id = none ∧
        (t.group o.gid).scal o.tok = tokenWord { o with
          detail := o.lost.length, info := o.info + (List.range 64).countP fun j => (c.writer (64 * k + j)).isSome } ∧
        ∀ j, j < 64 → cellRead (t.scratchOf o.core) (s.opBase o + 64 * k + j) =
          match c.writer (64 * k + j) with
          | some (r, n) => (match o.rowByte c r n with | .ok (v, _) => BitVec.ofNat 8 v | _ => 0)
          | none => cellRead (s.scratchOf o.core) (s.opBase o + 64 * k + j))

namespace Sys2Proof.Slice0

/-- R229, R260, R266: what a matrix operation reads is in error: a word of its mask, read at acceptance, an engine cell, or a
scratchpad word. -/
def mxLost (s : State) (o : Op) : Bool :=
  o.status == 8 || (mxReads o.instr (o.args.getD 2 0)).any ((s.core o.core).marrow.lost o.tags) ||
    (s.mxPlaces o).any fun p => s.placeLost p.1 p.2

/-- The 32-bit word of a scratchpad at a byte. -/
def scrWord (s : State) (k a : Nat) : Nat := cellLoad (s.scratchOf k) a 4

/-- R259, R262-R275: what a matrix operation that reads no error has written when it completes, with its flags and EXACT.
`m` is its engine before and `n` after. -/
def MatrixWrote (s t : State) (o : Op) (fl : Flags) (exact : Bool) : Prop :=
  let k := o.core
  let m := (s.core k).marrow
  let n := (t.core k).marrow
  let a := o.args.getD 0 0 % 2 ^ 32
  let b := o.args.getD 1 0 % 2 ^ 32
  let mask := o.args.getD 2 0
  let base := s.opBase o
  let same := fun (u : State) => ∀ x, cellRead (t.scratchOf k) x = cellRead (u.scratchOf k) x
  let x := fun (e r j : Nat) => floatVal .f32 ((m.tileRow (e % 8) r).getD j 0)
  let tile := fun (e : Nat) (v : Nat → Nat → Nat) =>
    ∀ r j, r < 128 → j < 128 → (n.tileRow e r)[j]? = some (v r j % 2 ^ 32)
  let masked := fun (f : Fields) (e : Nat) (rows : List (List Nat)) =>
    tile e fun r j => if rowIn f mask r then (rows.getD r []).getD j 0 else (m.tileRow e r).getD j 0
  let all := fun (v : Nat → Nat → Nat × Flags) =>
    orFlags (List.range 128) fun r => orFlags (List.range 128) fun j => (v r j).2
  let f := o.fields
  let d := f.d.toNat % 8
  match o.instr with
  | .mzro _ _ => (∀ e, e ≤ f.xf 0 3 → tile (d + e) fun _ _ => 0) ∧ same s ∧ fl = 0 ∧ exact = false
  | .mldb _ _ =>
    let r := if mldbRc f then s.mldbPre o f (mldbImg f a) else s.mldbPlain o f (mldbImg f a)
    n = r.1 ∧ same s ∧ fl = r.2 ∧ exact = false
  | .mma _ _ =>
    (∀ p ∈ (s.mmaResult o f mask).1, masked f p.1 p.2) ∧ same s ∧ fl = (s.mmaResult o f mask).2 ∧ exact = false
  | .mmat _ _ =>
    masked f d (s.mmatResult o f mask).1 ∧ same s ∧ fl = (s.mmatResult o f mask).2.1 ∧ exact = (s.mmatResult o f mask).2.2
  | .mdrn _ _ =>
    let ys := (m.tile d).map fun r => r.map (floatVal .f32)
    let p := s.putImage o (tileImg (xTy f) a) false ys
    let q := p.1.putImage o (tileImg (xTy2 f) b) false (transposeRows 128 ys)
    let tr := f.xf 12 1 = 1
    (tile d fun r j => if f.xf 13 1 = 1 then 0 else (m.tileRow d r).getD j 0) ∧
    (if tr then same q.1 ∧ fl = p.2.1 ||| q.2.1 ∧ exact = q.2.2 else same p.1 ∧ fl = p.2.1 ∧ exact = false)
  | .mqef _ _ =>
    let rs := (List.range 128).map fun r => s.mqefRow o f (m.tileRow d r) r
    (tile d fun r j => if f.xf 7 1 = 1 then 0 else (m.tileRow d r).getD j 0) ∧
    (∀ r j, r < 128 → j < 256 → cellRead (t.scratchOf k) (base + b + 256 * r + j) =
      BitVec.ofNat 8 ((rs[r]?.map fun y => y.2.1).getD 0 / 2 ^ (8 * j))) ∧
    (∀ c, (c < base + b ∨ base + b + 32768 ≤ c) → cellRead (t.scratchOf k) c =
      cellRead ((s.putRows o (tileImg (xTy f) a) (rs.map fun r => r.1)).scratchOf k) c) ∧
    fl = orFlags (List.range 128) (fun r => (rs[r]?.map fun y => y.2.2).getD 0) ∧ exact = false
  | .mrda _ _ =>
    (∀ c, cellRead (t.scratchOf k) c =
      if base + a ≤ c ∧ c < base + a + 512 * (f.xf 7 7 + 1) then
        let q := c - (base + a)
        BitVec.ofNat 8 ((m.tileRow d (f.xf 0 7 + q / 512)).getD (q % 512 / 4) 0 / 2 ^ (8 * (q % 4)))
      else cellRead (s.scratchOf k) c) ∧ n = m ∧ fl = 0 ∧ exact = false
  | .mwra _ _ =>
    (∀ r j, r ≤ f.xf 7 7 → j < 128 →
      (n.tileRow d (f.xf 0 7 + r))[j]? = some (scrWord s k (base + a + 512 * r + 4 * j))) ∧
    (∀ e r, e < 8 → r < 128 → (e ≠ d ∨ r < f.xf 0 7 ∨ f.xf 0 7 + f.xf 7 7 < r) → f.xf 0 7 + f.xf 7 7 < 128 →
      n.tileRow e r = m.tileRow e r) ∧ same s ∧ fl = 0 ∧ exact = false
  | .maddt _ _ =>
    let v := fun (r j : Nat) =>
      let y := x f.b.toNat r j
      floatExpr .f32 [x f.a.toNat r j, y] (numAdd (x f.a.toNat r j) (if f.xf 0 1 = 1 then y.negate else y))
    tile d (fun r j => (v r j).1) ∧ same s ∧ fl = all v ∧ exact = false
  | .mscl _ _ =>
    let v := fun (r j : Nat) => floatExpr .f32 [x f.a.toNat r j, floatVal .f32 b] (numMul (x f.a.toNat r j) (floatVal .f32 b))
    tile d (fun r j => (v r j).1) ∧ same s ∧ fl = all v ∧ exact = false
  | .mxpose _ _ =>
    let t2 := xTy2 f
    let rows := (List.range 128).map fun r => (s.imgRow o (tileImg t2 b) r).map fun y => y.getD (numZero false)
    let p := s.putImage o (tileImg (xTy f) a) (t2 == .e4m3 || t2 == .e5m2 || tyMx t2) (transposeRows 128 rows)
    same p.1 ∧ n = m ∧ fl = p.2.1 ∧ exact = p.2.2
  | .mstsh _ _ =>
    (∀ c, cellRead n.stashMem c =
      if o.args.getD 1 0 ≤ c ∧ c < o.args.getD 1 0 + mask then cellRead (s.scratchOf k) (base + a + (c - o.args.getD 1 0))
      else cellRead m.stashMem c) ∧ same s ∧ n = { m with stashMem := n.stashMem } ∧ fl = 0 ∧ exact = false
  | .mldsh _ _ =>
    (∀ c, cellRead (t.scratchOf k) c =
      if base + a ≤ c ∧ c < base + a + mask then cellRead m.stashMem (o.args.getD 1 0 + (c - (base + a)))
      else cellRead (s.scratchOf k) c) ∧ n = m ∧ fl = 0 ∧ exact = false
  | _ => True

end Sys2Proof.Slice0

/-- R233, R238, R259-R275: MATRIX_OPERATION_COMPLETE completes for every matrix operation that none before it conflicts with:
every member's counter falls, and its token takes the status word (STATUS, flags, EXACT, DETAIL and INFO) of the operation as
it ended. With an error in what it reads that is status 0x08 or more, and no tile, macro or window byte is written; else 0, or 2
where sectors were refused, which DETAIL counts, and every one of the twelve writes its result. -/
def Obligations.MatrixOperationsComplete : Prop :=
  ∀ s id o, Serves s id o → isMatrix o.instr = true →
    ((∃ j ∈ o.after, (s.op j).isSome = true) → exec (.matrixOperationComplete id) s = .next s) ∧
    ((∀ j ∈ o.after, s.op j = none) →
      (∀ p ∈ s.groups, ∀ q, p.2.parked = some q → ∀ j x, q.wait ≠ .collective j x) →
      ∃ t e, exec (.matrixOperationComplete id) s = .next t ∧ t.op id = none ∧
        (∀ m ∈ o.members, m.2 < 64 → (t.group m.1).scal m.2 = tokenWord e ∧ m.2 ∉ (t.group m.1).pending) ∧
        e = { o with rest := [], status := e.status, flags := e.flags, exact := e.exact, detail := e.detail } ∧
        (∀ m ∈ o.members, 8 ≤ e.status →
          ({ token := m.2, cause := statusCause e.status, cls := o.cls, op := id } : Unjoined) ∈ (t.group m.1).unjoined) ∧
        ((o.members.map Prod.fst).Nodup → (∀ m ∈ o.members, (s.teamOf (s.group m.1).team).stream = false) →
          ∀ m ∈ o.members, (t.sharedOf m.1).count o.cls = (s.sharedOf m.1).count o.cls - 1) ∧
        (mxLost s o = true → e.status = max o.status 8 ∧ e.flags = o.flags ∧ e.exact = o.exact ∧
          (t.core o.core).marrow.tiles = (s.core o.core).marrow.tiles ∧
          (t.core o.core).marrow.cells = (s.core o.core).marrow.cells ∧
          ∀ x, cellRead (t.scratchOf o.core) x = cellRead (s.scratchOf o.core) x) ∧
        ((s.core o.core).marrow.bad = [] → (s.core o.core).badWords = [] → o.status = 0 →
          ((s.core o.core).marrow.tiles.map Prod.fst).Pairwise (· < ·) → cellsWf (s.core o.core).marrow.stashMem = true →
          e.detail = o.detail + s.mxRefused o ∧ e.status = (if s.mxRefused o = 0 then 0 else 2) ∧
          MatrixWrote s t o e.flags e.exact))

/-- R307, R316, R321, R346-R349: render and hash-grid operations complete: results, token and the fall of the counter in one
step. A push
puts its entry above those in registers, and a pop takes the top one; an HCFG makes its slot usable; an HSCAT waits for its
writes. A network slot may be dropped at any time. -/
def Obligations.RenderOperationsComplete : Prop :=
  (∀ s core slot, slot < (s.core core).networks.length → ∃ t, exec (.networkSlotDrop core slot) s = .next t ∧
    (t.core core).networks = (s.core core).networks.eraseIdx slot ∧ Kept s t [] [] [core]) ∧
  ∀ s id o, Serves s id o →
    let f := o.fields
    let base := fun (t : State) (ms : List (Nat × Nat)) (o : Op) =>
      (∀ m ∈ ms, m.2 < 64 → (t.group m.1).scal m.2 = tokenWord o ∧ m.2 ∉ (t.group m.1).pending) ∧
      (t.sharedOf o.gid).count o.cls = (s.sharedOf o.gid).count o.cls - 1
    (isRender o.instr = true → (∀ g f, o.instr ≠ .rpush g f ∧ o.instr ≠ .rpop g f) →
      (∀ k ∈ o.renderSectors, (Tab.get? o.buf k).isSome) →
      (∀ v ∈ o.vals, ∀ k ∈ o.laneSectors v.2, o.sectorState (o.laneFmt v.2) k = 0) →
      ∃ t, exec (.renderOperationComplete id) s = .next t ∧ t.op id = none ∧
        LaneResults t o f.c.toNat (fun v => (o.laneResult v).1) ∧
        base t o.members { o with flags := orFlags (List.range o.vals.length) fun n => (o.laneResult ((o.vals[n]?).getD (0, [])).2).2 }) ∧
    ((∃ g f, o.instr = .rpush g f) → (∀ v ∈ o.vals, v.2.length = 18 ∧ v.2.getD 2 0 % 8 < 4) →
      ∃ t, exec (.renderOperationComplete id) s = .next t ∧ t.op id = none ∧
        base t o.members { o with status := 0, detail := 0 } ∧
        LaneResults t o f.b.toNat fun v => (v.getD 2 0 % 2 ^ 17 + 1) :: (List.range 12).map fun q =>
          let r := v.getD 2 0 % 8
          if 3 * r ≤ q ∧ q < 3 * r + 3 then v.getD (15 + (q - 3 * r)) 0 else v.getD (3 + q) 0) ∧
    ((∃ g f, o.instr = .rpop g f) → o.vals ≠ [] → f.c.toNat + 3 ≤ f.b.toNat ∨ f.b.toNat + 13 ≤ f.c.toNat →
      (∀ v ∈ o.vals, v.2.length = 15 ∧ 1 ≤ v.2.getD 2 0 % 8 ∧ v.2.getD 2 0 % 8 ≤ 4 ∧
        v.2.getD 2 0 / 2 ^ 10 % 2 ^ 6 < 2 ^ (f.xf 19 3 + 2)) →
      ∃ t, exec (.renderOperationComplete id) s = .next t ∧ t.op id = none ∧
        base t o.members { o with status := 0, detail := 0 } ∧
        LaneResults t o f.b.toNat (fun v => (v.getD 2 0 % 2 ^ 17 - 1) :: v.drop 3) ∧
        LaneResults t o f.c.toNat fun v => (List.range 3).map fun q => v.getD (3 + 3 * (v.getD 2 0 % 8 - 1) + q) 0) ∧
    ((∃ g f, o.instr = .hcfg g f) → ∃ t, exec (.hashGridOperationComplete id) s = .next t ∧
      Finished (s.modTeam o.team fun tm => { tm with
        hslots := Tab.modify tm.hslots (o.args.getD 0 0) fun h => { h with pending := h.pending - 1 } }) t id o o.members) ∧
    ((∃ g f, o.instr = .hgath g f) → (∀ k ∈ o.tableSectors, (Tab.get? o.buf k).isSome) →
      ∃ t, exec (.hashGridOperationComplete id) s = .next t ∧ t.op id = none ∧
        LaneResults t o f.c.toNat (fun v => (s.gatherLane o v).1.map Prod.fst) ∧
        (t.sharedOf o.gid).count o.cls = (s.sharedOf o.gid).count o.cls - 1 ∧
        ((∀ v ∈ o.vals, (s.gatherLane o v.2).2 = []) → ∀ m ∈ o.members, m.2 < 64 →
          (t.group m.1).scal m.2 % 2 ^ 8 = 0 ∧ (t.group m.1).scal m.2 / 2 ^ 63 = 1)) ∧
    ((∃ g f, o.instr = .hscat g f) → o.moved = true → o.rest = [] →
      (passed s o → ∃ t, exec (.hashGridOperationComplete id) s = .next t ∧
        Finished s t id { o with detail := o.lost.length } o.members) ∧
      (¬ passed s o → exec (.hashGridOperationComplete id) s = .next s))

/-- R365, R369, R373: the task commands complete. TQRY reads its edge; TDONE frees the records its team has held longest;
TCLOSE counts its team's first close; TGRAIN takes the next part of the interval; TRANGE adds a task unless 64 wait; TSPAWN
meets a full queue with status 1, and TRECV with nothing to take status 3. A TSEND fills a free slot of its edge with the
next record number, and the edge is over once its depth reaches HIW. A command that comes before one already performed in this
cycle on its edge, in the order of cores and slots, or a TGRAIN whose node was split in it, waits for another cycle: R374 gives
the order, and the wait is log entry 18's choice. -/
def Obligations.TaskCommandsComplete : Prop :=
  ∀ s id o, Serves s id o → (s.teamOf o.team).out = false → o.moved = false →
    let d := o.die
    let may := (s.group o.gid).horizon = 0 ∨ (s.group o.gid).horizon < s.gtc d
    let f := o.fields
    let gs := f.xf 8 6
    let en := f.xf 0 8
    let n := f.xf 14 8 + 1
    let tm := s.teamOf o.team
    let ends := fun (s1 : State) (status detail info : Nat) => o.gwct = 0 → ∃ t, exec (.taskCommandComplete id) s = .next t ∧
      Finished s1 t id { o with status := status, detail := detail, info := info, moved := true } [(o.gid, o.tok)]
    let noted := fun (s1 : State) => s1.modEdge d gs en fun e => { e with last := (s1.cycle, o.core, (s1.group o.gid).slot0) }
    (s.edgePast o = true → exec (.taskCommandComplete id) s = .next s ∧ ∀ slot, exec (.tsendPerform id slot) s = .next s) ∧
    (s.edgePast o = false → (∀ e, (s.graphOf d gs).edgeTab[en]? = some e →
      ((∃ g f, o.instr = .tqry g f) → ends (noted s) 0 e.openp
        (packFields [((e.slots.filter fun x => x == .free).length, 15),
          ((e.slots.filter fun x => match x with | .full _ _ => true | _ => false).length, 15)])) ∧
      ((∃ g f, o.instr = .tclose g f) →
        ((gs, en) ∈ tm.closed → ends (noted s) 0 e.openp 0) ∧
        ((gs, en) ∉ tm.closed → ends (noted ((s.modTeam o.team fun tm => { tm with closed := tm.closed ++ [(gs, en)] }).modEdge d gs
          en fun e => { e with openp := e.openp - 1 })) 0 (e.openp - 1) 0)) ∧
      ((∃ g f, o.instr = .tdone g f) → ¬ may → exec (.taskCommandComplete id) s = .next s) ∧
      ((∃ g f, o.instr = .tdone g f) → may → e.overfull = false → ends (noted (s.modEdge d gs en fun e => { e with
        slots := ((e.heldBy tm.launch).take n).foldl (fun sl x => sl.set x.2 .free) e.slots })) 0
          ((e.heldBy tm.launch).take n).length 0) ∧
      ((∃ g f, o.instr = .trecv g f) → e.claimedBy tm.launch = [] → (∀ x ∈ e.slots, ∀ a b, x ≠ .full a b) →
        ends (noted { s with free := s.free + 2 ^ 14 }) 3 0 0)) ∧
    ((∃ g f, o.instr = .tgrain g f) → ∀ cur fin grain, tm.interval = some (cur, fin, grain) →
      let b := f.b.toNat % 64
      let c := f.c.toNat % 64
      let m := min (cur + grain) fin
      ends ((s.modTeam o.team fun tm => { tm with interval := some (m, fin, grain) }).modGroup o.gid fun gr =>
        { (gr.putScal b cur).putScal c m with pending := (gr.pending.erase b).erase c }) (if cur = fin then 3 else 0) 0 0) ∧
    ((∃ g f, o.instr = .trange g f) → ∀ nd, (s.graphOf d gs).nodeTab[en]? = some nd →
      let x := o.args.getD 1 0
      (64 ≤ nd.tasks.length → ends s 1 nd.tasks.length 0) ∧
      (nd.tasks.length < 64 → ends ((s.modNode d gs en fun nd => { nd with tasks := nd.tasks ++
          [{ id := (s.graphOf d gs).nextTask, lo := x % 2 ^ 64, hi := x / 2 ^ 64 % 2 ^ 64, arg := x / 2 ^ 128 % 2 ^ 64
             donea := x / 2 ^ 192 % 2 ^ 57 }] }).modGraph d gs fun g => { g with nextTask := g.nextTask + 1 })
        0 (nd.tasks.length + 1) 0)) ∧
    ((∃ g f, o.instr = .tspawn g f) → let q := (s.die d).queue (f.xf 0 10)
      (q.tail + 2 ^ 32 - q.head) % 2 ^ 32 = 2 ^ q.logn → ends s 1 0 0) ∧
    ((∃ g f, o.instr = .tsend g f) → exec (.taskCommandComplete id) s = .next s ∧
      ∀ e slot, (s.graphOf d gs).edgeTab[en]? = some e →
        (e.slots[slot]? ≠ some .free ∨ ¬ may → exec (.tsendPerform id slot) s = .next s) ∧
        (e.slots[slot]? = some .free → may → s.firstSend id o f = true →
          ∀ s1 o1, s1 = s.opStore id (e.base + slot * e.rsz) (o.args.getD 1 0) e.rsz → s1.op id = some o1 →
            s1.graphOf d gs = s.graphOf d gs → (Tab.get? (s1.die d).graphs gs).isSome →
            (o1.rest ≠ [] → exec (.tsendPerform id slot) s = .next s1) ∧
            (o1.rest = [] → o1.status ≠ 0 → exec (.tsendPerform id slot) s = .next (noted (s1.modOp id fun o =>
              { o with detail := 0, info := 0, moved := true }))) ∧
            (o1.rest = [] → o1.status = 0 → ∃ t e', exec (.tsendPerform id slot) s = .next t ∧
              t.op id = some { o1 with status := 0, detail := 0, info := e.num % 2 ^ 31, moved := true } ∧
              (t.graphOf d gs).edgeTab[en]? = some e' ∧ e'.slots = e.slots.set slot (.full e.num (s1.gtc d)) ∧
              e'.num = e.num + 1 ∧
              e'.overfull = (e.overfull || (e.record / 2 ^ 88 % 2 ^ 16 != 0 &&
                decide (e.record / 2 ^ 88 % 2 ^ 16 ≤ 2 ^ (e.record / 2 ^ 64 % 2 ^ 4) - (e'.slots.filter fun x => x == .free).length)))))))

/-- R434, R439, R444, R445, R466, R467: near-memory and all-reduce operations complete. The last row of an update enters its
bank's queue, unless 64 rows stand there; an NMRED writes one row for each bag; an NMFENCE takes what its agent's performed
rows recorded, when no delivered row of its context stands in a bank it covers and the GTC has passed their updates; an ARCFG reports a die
out of reach; a generation completes for every participant, and clears the slot's arrivals. That an ARCFG is taken by all units
in one step is log entry 34's choice, and that a marker reaches a die's banks in one step log entry 18's. -/
def Obligations.NearMemoryOperationsComplete : Prop :=
  ∀ s id o, Serves s id o → (s.teamOf o.team).out = false →
    let d : Near := o.args.getD 0 0
    (nearUpdate o.instr = true → ∀ i, o.rest = [i] →
      let bank := s.rowBank o i
      let home := homeDie (o.rowPa i)
      let waits := s.hasJob (.unit id i) = true ∨ s.undelivered id o.gid bank = true
      (waits → exec (.nearMemoryDeliveryComplete id) s = .next s.draw) ∧
      (¬ waits → s.reaches (coreDie o.core) (o.rowPa i) = false → ∃ t, exec (.nearMemoryDeliveryComplete id) s = .next t ∧
        Finished s.draw t id (o.rowTake i { status := 0x09 }) [(o.gid, o.tok)]) ∧
      (¬ waits → s.reaches (coreDie o.core) (o.rowPa i) = true →
        (home ≠ coreDie o.core → exec (.nearMemoryDeliveryComplete id) s =
          .next (s.draw.sendNear id o i home (laneOf (paLa (o.rowPa i))) (o.rowCls i))) ∧
        (home = coreDie o.core →
          (64 ≤ (s.nmRows.filter fun q => q.2.bank == bank).length → exec (.nearMemoryDeliveryComplete id) s = .next s.draw) ∧
          ∀ s1 r, s.draw.rowHome id o i = some (s1, r) → ∃ t, exec (.nearMemoryDeliveryComplete id) s = .next t ∧
            Finished s1 t id (o.rowTake i r) [(o.gid, o.tok)] ∧
            (r.status = 0 → ∃ p ∈ t.nmRows, p.2.op = id ∧ p.2.gid = o.gid ∧ p.2.instr = o.instr ∧ p.2.va = d.row (o.updateIdx i) ∧
              p.2.pa = o.rowPa i ∧ p.2.bank = bank ∧
              p.2.x = if nearNosrc o.instr then 0 else s.placeLoad (s.opScr o (d.src + i * d.len)) d.len)))) ∧
    (nearRed o.instr = true → o.rest = [] → o.tok < 64 → d.len ≠ 0 →
      let bags := bagsOf (o.args.drop 1) 0 []
      let stat := fun (i : Nat) => Tab.getD o.buf (2 * i + 1) 0
      ∃ t, exec (.nmredComplete id) s = .next t ∧ t.op id = none ∧
        (∀ b (hb : b < bags.length), State.placeLoad { t with cur := none } (s.opScr o (d.dstw + b * d.len)) d.len =
          ofWords ((List.range (d.len / 4)).map fun j =>
            if bags[b].any fun i => stat i != 0 then (floatFmt .f32).nanBits else (o.bagWord bags[b] j).1) % 2 ^ (8 * d.len)) ∧
        (t.group o.gid).scal o.tok / 2 ^ 32 = bags.length % 2 ^ 31 + 2 ^ 31 ∧
        (t.group o.gid).scal o.tok / 2 ^ 16 % 2 ^ 16 = min (bags.countP fun rows => rows.any fun i => stat i != 0) 0xFFFF) ∧
    ((∃ g f, o.instr = .nmfence g f) → ∀ e, o.rest = [e] →
      let marked := fun (r : Reply) => exec (.nmfenceComplete id) s = exec (.nmfenceComplete id) (s.modOp id fun o => o.markerTake e r)
      let held := s.hasJob (.unit id e) = true ∨ s.markerBehind id o e = true
      (held → exec (.nmfenceComplete id) s = .next s) ∧
      (¬ held → e = coreDie o.core → marked { val := s.seq }) ∧
      (¬ held → e ≠ coreDie o.core → s.route (coreDie o.core) e = none → marked { status := 0x09 }) ∧
      (¬ held → e ≠ coreDie o.core → s.route (coreDie o.core) e ≠ none →
        exec (.nmfenceComplete id) s = .next (s.sendNear id o e e 0 o.svc))) ∧
    ((∃ g f, o.instr = .nmfence g f) → o.rest = [] →
      let first := fun (p : Nat × NmNote) => ∀ q ∈ s.ops, q.1 < id → q.2.gid = o.gid → nearFence q.2.instr = true →
        q.2.before p.1 p.2.bank = false
      let mine := fun (p : Nat × NmNote) => decide (p.2.gid = o.gid) && o.before p.1 p.2.bank && decide (first p)
      let waits := ∃ p ∈ s.nmRows, p.2.ctx = o.ctx ∧ o.before p.1 p.2.bank = true
      let unread := ∃ p ∈ s.ops, p.1 < id ∧ p.2.gid = o.gid ∧ nearRed p.2.instr = true ∧
        ∃ i ∈ s.undone p.1 p.2, o.covers (s.rowBank p.2 i) = true
      let late := ∃ p ∈ s.nmDone, p.2.ctx = o.ctx ∧ o.before p.1 p.2.bank = true ∧ p.2.gwct ≠ 0 ∧ s.gtc o.die ≤ p.2.gwct
      (waits ∨ unread ∨ late → exec (.nmfenceComplete id) s = .next s) ∧
      (¬ waits → ¬ unread → ¬ late → ∃ t, exec (.nmfenceComplete id) s = .next t ∧
        let ns := (s.nmNotes.filter mine).map Prod.snd
        Finished { s with nmNotes := s.nmNotes.filter fun p => !mine p } t id { o with
          status := (ns.flatMap NmNote.lost).foldl max o.status, detail := (ns.flatMap NmNote.lost).length
          info := min ((ns.map NmNote.nonfinite).sum) (2 ^ 31 - 1)
          flags := orFlags (List.range ns.length) fun k => (ns.getD k { gid := 0, ctx := 0, bank := 0 }).flags }
          [(o.gid, o.tok)])) ∧
    ((∃ g f, o.instr = .arcfg g f) → ∃ t, exec (.arcfgComplete id) s = .next t ∧ Finished s t id { o with
      status := if (List.range 4).any fun k => (s.route o.die k).isNone then max o.status 0x09 else o.status }
      [(o.gid, o.tok)]) ∧
    ∀ n,
      let sl := s.arSlot n
      let os := s.entered n
      (sl.mask = 0 ∨ sl.arr ≠ sl.mask → exec (.allreduceGenerationComplete n) s = .next s) ∧
      (sl.mask ≠ 0 → sl.arr = sl.mask → s.ringUp sl.mask = true →
        (∀ p ∈ os, p.2.rest = [] ∧ Tab.get? p.2.vals 1 = some [1] ∧ passed s p.2 ∧ (s.teamOf p.2.team).out = false ∧
          p.2.tok < 64 ∧ (Tab.get? s.groups p.2.gid).isSome) →
        (∀ p ∈ s.ops, arSlotOf p.2.instr = n → isAred p.2.instr = true ∨ isArwait p.2.instr = true → p ∈ os) →
        ∃ t, exec (.allreduceGenerationComplete n) s = .next t ∧ t.arSlot n = { sl with gen := sl.gen + 1, arr := 0 } ∧
          ∀ p ∈ os, t.op p.1 = none ∧ (t.group p.2.gid).scal p.2.tok / 2 ^ 32 = (sl.gen + 1).toNat % 2 ^ 31 + 2 ^ 31)

/-! ### Device memory (16 R385, R386, 18 R418, R419, R426, R428, R434, R440-R442) -/

namespace Sys2Proof.Slice0

/-- No event log of the package stores records, so that memory changes only as the statement says. -/
def Unlogged (s : State) : Prop := s.cur = none ∧ Memory.wf s = true ∧ ∀ d, (s.die d).logEn = false ∧ (s.die d).logWait = []

/-- Word `j` of a sector in local memory. -/
def wordAt (s : State) (pa j : Nat) : Nat := s.paLoad (pa + 4 * j) 4

end Sys2Proof.Slice0

/-- R385, R386, R390: the next source sector of a copy, row of an NMRED or sector of an ARED is read once, and kept with its
status; the next unit of an operation is written at its home: a sector takes the bytes a copy moves, or an ARED's sum. -/
def Obligations.DeviceAccessesPerform : Prop :=
  ∀ s id o, Serves s id o → (s.teamOf o.team).out = false →
    (nearRed o.instr = false → isAred o.instr = false →
      let kept := fun (s1 : State) (q : Nat) (r : Sector) => s1.modOp id fun o => { o with
        buf := Tab.set o.buf q (packFields [(r.val, 512), (r.desc, 16), (r.status, 8)]), moved := true }
      (o.nextSource = none → exec (.deviceReadServe id) s = .next s) ∧
      ∀ q, o.nextSource = some q →
        (2 ^ 55 ≤ q → exec (.deviceReadServe id) s = .next (kept (s.fetchWord o q).1 q (s.fetchWord o q).2)) ∧
        (q < 2 ^ 55 → ∀ s1, (s.opRead id o (64 * q) = (s1, none) → exec (.deviceReadServe id) s = .next s1) ∧
          ∀ r, s.opRead id o (64 * q) = (s1, some r) → exec (.deviceReadServe id) s = .next (kept s1 q r))) ∧
    (nearRed o.instr = true →
      let can := o.rest.filter fun i => !s.hasJob (.unit id i) && s.mayRead id o i
      (can = [] → exec (.deviceReadServe id) s = .next s) ∧
      (can ≠ [] → ∃ i ∈ can, let pa := o.rowPa i
        (s.reaches (coreDie o.core) pa = false →
          exec (.deviceReadServe id) s = .next (s.draw.modOp id fun o => o.redTake i { status := 0x09 })) ∧
        (s.reaches (coreDie o.core) pa = true → homeDie pa ≠ coreDie o.core →
          exec (.deviceReadServe id) s = .next (s.draw.sendNear id o i (homeDie pa) (laneOf (paLa pa)) (o.rowCls i))) ∧
        (s.reaches (coreDie o.core) pa = true → homeDie pa = coreDie o.core → o.gone (o.rowVa i) = false →
          Near.len (o.args.getD 0 0) = 64 → ∀ s2 y, s.draw.readHome (homeDie pa) pa = (s2, y) →
          ∃ t, exec (.deviceReadServe id) s = .next t ∧ t.op id = (s2.op id).map fun o => { o with
            rest := o.rest.filter (· != i), moved := true, queued := none
            buf := Tab.set (Tab.set o.buf (2 * i) y.val) (2 * i + 1) y.status }))) ∧
    (isAred o.instr = true → ∀ k r, o.rest = k :: r → k < 2 ^ 40 →
      ∀ s1 x, s.opAddr o (o.args.getD 0 0 % 2 ^ 57 + 64 * k) .read = (s1, Except.ok x) → paRegion x.pa ≠ 1 →
        ((s1.goesNow id o x).2 = false → exec (.deviceReadServe id) s = .next (s1.goesNow id o x).1) ∧
        ((s1.goesNow id o x).2 = true → ∀ s2 y, s1.readHome o.die x.pa = (s2, y) → ∃ t, exec (.deviceReadServe id) s = .next t ∧
          t.op id = (s2.op id).map fun o => { o with
            rest := o.rest.filter (· != k), moved := true, queued := none
            buf := Tab.set (Tab.set (Tab.set o.buf (3 * k) y.val) (3 * k + 1) (if x.tagged then y.desc else 0)) (3 * k + 2) y.status })) ∧
    ∀ k r, o.rest = k :: r → Unlogged s → ∀ x, 
      let performs := fun (va v desc : Nat) => s.opAddr o va .write = (s, Except.ok x) → paRegion x.pa = 0 →
        (s.goesNow id o x).2 = true → s.reaches (coreDie o.core) x.pa = true → (s.backLine (x.pa % 2 ^ 40 / 512)).isSome →
        ∃ t, exec (.deviceWritePerform id) s = .next t ∧
          (∀ pa, pa < 2 ^ 40 → t.paByte pa =
            if x.pa % 2 ^ 40 / 64 = pa / 64 then BitVec.ofNat 8 (v / 2 ^ (8 * (pa % 64))) else s.paByte pa) ∧
          (x.tagged = true → t.descOf (x.pa % 2 ^ 40 / 64) = desc % 2 ^ 16) ∧
          ∃ o', t.op id = some o' ∧ o'.rest = o.rest.filter (· != k) ∧ o'.status = o.status ∧ o'.lost = o.lost
      (copyCmd o.instr = some .f ∨ copyCmd o.instr = some .s ∨ copyCmd o.instr = some .sx → k < 2 ^ 60 →
        o.copy.dst = some .device → o.copy.da = false → ∀ v, v < 2 ^ 512 →
        (∀ j, j < 64 → ∃ a b, o.copy.writer (64 * k + j) = some (a, b) ∧
          (∀ q ∈ o.copy.needs a b, (Tab.get? o.buf q).isSome) ∧ o.rowByte o.copy a b = Got.ok (v / 2 ^ (8 * j) % 256, 0)) → performs (64 * k) v 0) ∧
      (isAred o.instr = true → 2 ^ 40 ≤ k → o.lost = [] → ∀ v d, (s.arOut (arSlotOf o.instr) (k - 2 ^ 40)).val = some (v, d) →
        performs (o.args.getD 0 0 / 2 ^ 64 % 2 ^ 57 + 64 * (k - 2 ^ 40)) v d)

/-- R385, R418, R419, R426, R428: a line whose lease has ended leaves its cache; a walk fills the TLB of the core and of its
cluster; a write under way to a copy-on-write page takes a frame of the pool and copies the page into it; waiting writes go
on once a sector is free; a pushed frame joins its pool. That a copy acts only while a write to its page is under way (log
entry 37), that one whose lines are lost is refused (entry 43), and that a push to the flat pool makes its frame flat (entry 21)
are the model's choices. -/
def Obligations.DeviceMemoryIsManaged : Prop :=
  ∀ s,
    (∀ cache line cl, Tab.get? (Tab.getD s.caches cache []) line = some cl →
      let left := cl.sectors.filter fun x => decide (s.gtc (coreDie cache) < x.2.lease)
      ∃ t, exec (.leaseExpiry cache line) s = .next t ∧ t = { s with caches := t.caches } ∧
        ∀ c l, Tab.get? (Tab.getD t.caches c []) l =
          if c = cache ∧ l = line then (if left = [] then none else some { cl with sectors := left })
          else Tab.get? (Tab.getD s.caches c []) l) ∧
    (∀ core ctx va, core < 512 → ctx < 4096 → va < 2 ^ 57 →
      let s1 := s.noteWalk core ctx va
      (∀ c, s1.walkFor core ctx va = .error c → exec (.pageWalk core ctx va) s = .next s1) ∧
      ∀ x, s1.walkFor core ctx va = .ok x → ∃ t, exec (.pageWalk core ctx va) s = .next t ∧
        t = { s1 with tlbs := t.tlbs, ptrs := t.ptrs, free := t.free } ∧
        (∀ c p q, Tab.get? (Tab.getD t.ptrs c []) p = some q → Tab.get? (Tab.getD s1.ptrs c []) p = some q ∨
          ((c = core ∨ c = 512 + core / 8) ∧
            let st := (s1.walkStart core ctx va).getD (4, ctxRoot (s1.ctxEntry (coreDie core) ctx))
            ∃ a ∈ s1.walkPath ctx va st.2 st.1, a.1 < 4 ∧ p = ptrKey a.1 ctx va ∧ q = a.2.1)) ∧
        let key := ctx * 2 ^ 45 + va / 4096
        let leaf : Leaf := { pte := BitVec.ofNat 64 x.pte, level := x.level }
        Tab.get? (Tab.getD t.tlbs core []) key = some leaf ∧ Tab.get? (Tab.getD t.tlbs (512 + core / 8) []) key = some leaf) ∧
    (∀ ctx va, va < 2 ^ 57 →
      (s.writesPage ctx (va / 4096) = false → exec (.copyOnWrite ctx va) s = .next s) ∧
      ∀ s1, s1 = s.notePath 0 ctx va none → s.writesPage ctx (va / 4096) = true →
        (∀ c, s1.walk 0 ctx va = .error c → exec (.copyOnWrite ctx va) s = .next s1) ∧
        ∀ x, s1.walk 0 ctx va = .ok x →
        (pteCow x.pte = false → exec (.copyOnWrite ctx va) s = .next s1) ∧
        (pteCow x.pte = true → pteC64 x.pte = false → pteFlat x.pte = false →
          let old := x.pte / 2 ^ 12 % 2 ^ 28
          let d := old / 2 ^ 26
          let di := s1.die d
          let backed := fun (l : Nat) => (Tab.get? s1.lines (8 * old + l)).isSome
          let need := ((List.range 8).map fun l => lineSectors (Tab.get? s1.lines (8 * old + l))).sum
          let refused := s1.sectorStatus x.at_ ≠ 0 ∨ di.pool4k = [] ∨ (need ≠ 0 ∧ di.freeSectors < di.soft) ∨ di.freeSectors < need ∨
            ∃ j, j < 64 ∧ backed (j / 8) ∧ s1.sectorStatus (4096 * old + 64 * j) = 0x08
          (refused → exec (.copyOnWrite ctx va) s = .next s1) ∧
          ∀ n r, di.pool4k = 4096 * n :: r → ¬ refused → Unlogged s1 → n ≠ old →
            n < 2 ^ 28 → (∀ j, j < 4096 → cellRead s1.mem (4096 * n + j) = 0) →
            x.at_ < 2 ^ 40 → x.at_ % 8 = 0 → x.at_ / 4096 ≠ n → x.at_ / 4096 ≠ old →
            ∃ t, exec (.copyOnWrite ctx va) s = .next t ∧ (t.die d).pool4k = r ∧
              (∀ j, j < 4096 → cellRead t.mem (4096 * n + j) =
                if backed (j / 512) then cellRead s1.mem (4096 * old + j) else 0) ∧
              (let e := s1.paLoad x.at_ 8
               t.paLoad x.at_ 8 = e % 2 ^ 3 + 2 ^ 3 + e / 2 ^ 4 % 2 * 2 ^ 4 + e / 2 ^ 6 % 2 ^ 6 * 2 ^ 6 + n * 2 ^ 12 + e / 2 ^ 52 * 2 ^ 52) ∧
              ∀ k, Tab.get? (Tab.getD t.tlbs k []) (ctx * 2 ^ 45 + va / 4096) = none)) ∧
    (∀ die, ((s.die die).freeSectors = 0 → exec (.sectorWaitResume die) s = .next s) ∧
      ((s.die die).freeSectors ≠ 0 → exec (.sectorWaitResume die) s =
        .next ((s.sectorWaits.filter fun w => w.2 == die).foldl (fun t w => t.retryWait w.1) s))) ∧
    ((∀ id, exec (.deviceWritePerform id) s = .next (s.retryWait (.op id))) ∧
      (∀ g, exec (.postedWritePerform g) s = .next (s.retryWait (.posted g))) ∧
      (exec .cloneContext s = .next (s.retryWait .clone)) ∧
      (∀ bank agent key row, (s.nmRows.map Prod.fst).Nodup → s.oldestRow bank agent = some (key, row) → s.unread row.op agent bank = false →
        s.rowBehind key row = false → exec (if nearOpt row.instr then .rootUnitOptUpdate bank agent else .rootUnitUpdate bank agent) s =
          .next (s.retryWait (.row key)))) ∧
    ∀ die n psz pflat, n < 2 ^ 28 →
      let di := s.die die
      let size := if psz then 65536 else 4096
      let meets := fun (f z : Nat) => f < 4096 * n + size ∧ 4096 * n < f + z
      let taken := (∃ l ∈ s.lines, 8 * n ≤ l.1 ∧ l.1 < 8 * n + size / 512) ∨ (∃ f ∈ di.pool4k, meets f 4096) ∨
        ∃ f ∈ di.pool64k ++ di.poolFlat, meets f 65536
      let pool := if pflat then di.poolFlat else if psz then di.pool64k else di.pool4k
      let fits := n / 2 ^ 26 = die ∧ (psz = true → n % 16 = 0) ∧ (pflat = true → psz = true) ∧ pool.length < 65535 ∧ ¬ taken
      (¬ fits → exec (.freeFramePush die (4096 * n) psz pflat) s = .next s) ∧
      (fits → ∃ s1 t, exec (.freeFramePush die (4096 * n) psz pflat) s = .next t ∧ t = { s1 with dies := t.dies } ∧
        (pflat = false → s1 = s) ∧
        (pflat = true → Unlogged s → s1.mem = s.mem ∧ s1.lines = s.lines ∧
          (∀ d, (s1.die d).freeSectors = (s.die d).freeSectors) ∧ s1.die die = { di with pressed := (s1.die die).pressed }) ∧
        (pflat = true → (Tab.get? t.flat (n / 16)).isSome) ∧ (∀ f, f ≠ n / 16 → Tab.get? t.flat f = Tab.get? s.flat f) ∧
        (∀ d, d ≠ die → t.die d = s1.die d) ∧
        t.die die = if pflat then { s1.die die with poolFlat := pool ++ [4096 * n] }
          else if psz then { di with pool64k := pool ++ [4096 * n] } else { di with pool4k := pool ++ [4096 * n] })

/-- R414, R434, R440-R442: a root unit performs an agent's oldest row at its bank, behind no unread NMRED and no row of another
agent that R414 has go first: each word of NMADD is the
sum, rounded once, of the word and the source's; NMOPT reads one record slot and writes the other. The row leaves the queue,
and what it recorded waits for a fence. -/
def Obligations.RootUnitsUpdate : Prop :=
  ∀ s bank agent,
    (s.oldestRow bank agent = none → exec (.rootUnitUpdate bank agent) s = .next s ∧ exec (.rootUnitOptUpdate bank agent) s = .next s) ∧
    ∀ key row, s.oldestRow bank agent = some (key, row) →
      let stuck := s.unread row.op agent bank || s.rowBehind key row
      let opt := nearOpt row.instr
      (opt = true ∨ stuck = true → exec (.rootUnitUpdate bank agent) s = .next s) ∧
      (opt = false ∨ stuck = true → exec (.rootUnitOptUpdate bank agent) s = .next s) ∧
      let runs := if opt then exec (.rootUnitOptUpdate bank agent) s else exec (.rootUnitUpdate bank agent) s
      (stuck = false → row.gone = false → s.backRow row = none →
        runs = .next (s.noteWait (.row key) (bankDie row.bank))) ∧
      (stuck = false → row.gone = true → Unlogged s → Near.len row.desc = 64 → (s.nmRows.map Prod.fst).Nodup →
        ∃ t note, runs = .next t ∧ Tab.get? t.nmRows key = none ∧ Tab.get? t.nmNotes key = some note ∧ note.gid = row.gid ∧
          note.lost = (if opt then [0x0B, 0x0B, 0x0B] else [0x0B]) ∧ ∀ pa, t.paByte pa = s.paByte pa) ∧
      (stuck = false → row.gone = false → Unlogged s → Near.len row.desc = 64 → row.pa % 64 = 0 → row.pa < 2 ^ 40 - 512 →
        (s.nmRows.map Prod.fst).Nodup → s.faults = [] →
        ∀ s1, s.backRow row = some s1 →
          let done := fun (t : State) => Tab.get? t.nmRows key = none ∧
            ∃ note, Tab.get? t.nmNotes key = some note ∧ note.gid = row.gid ∧ note.ctx = row.ctx ∧ note.bank = row.bank ∧ note.lost = []
          (opt = false → ∃ t, exec (.rootUnitUpdate bank agent) s = .next t ∧ done t ∧
            (∀ j, j < 16 → wordAt t row.pa j =
              let a := floatVal .f32 (wordAt s row.pa j)
              let x := floatVal .f32 (row.x / 2 ^ (32 * j) % 2 ^ 32)
              let p := Near.p0 row.desc
              let q := Near.p1 row.desc
              (match row.instr with
                | Instr.nmadd _ _ => floatExpr .f32 [a, x] (numAdd a x)
                | _ =>
                  if nearNosrc row.instr then floatExpr .f32 [p, a] (numMul p a)
                  else floatExpr .f32 [p, a, q, x]
                    ((numAdd (numMul p a).1 (numMul q x).1).1,
                      (numMul p a).2 ||| (numMul q x).2 ||| (numAdd (numMul p a).1 (numMul q x).1).2)).1 % 2 ^ 32) ∧
            ∀ pa, pa < 2 ^ 40 → pa / 64 ≠ row.pa / 64 → t.paByte pa = s.paByte pa) ∧
          (opt = true → ∃ t, exec (.rootUnitOptUpdate bank agent) s = .next t ∧ done t ∧
            (let from_ := row.pa + 192 * nearK row.instr
             let dest := row.pa + 192 * (1 - nearK row.instr)
             (∀ j, j < 16 →
               let r := optWord row.desc (row.x / 2 ^ (32 * j) % 2 ^ 32) (wordAt s from_ j) (wordAt s (from_ + 64) j)
                 (wordAt s (from_ + 128) j)
               wordAt t dest j = r.1 % 2 ^ 32 ∧ wordAt t (dest + 64) j = r.2.1 % 2 ^ 32 ∧ wordAt t (dest + 128) j = r.2.2.1 % 2 ^ 32) ∧
             ∀ pa, pa < 2 ^ 40 → ¬ (dest ≤ pa ∧ pa < dest + 192) → t.paByte pa = s.paByte pa)))

/-! ### Scheduling (15 R354-R371, R376, 02 R37-R41) -/

namespace Sys2Proof.Slice0

/-- Launch `id` of `t` is `f` of that of `s`; every other launch stands as it was. -/
def OneLaunch (s t : State) (id : Nat) (f : Launch → Launch) : Prop :=
  ∀ j, Tab.get? t.launches j = if j = id then (Tab.get? s.launches j).map f else Tab.get? s.launches j

/-- R43, R48, R360, R362, Table 2.5: team `n` of `t` is the next team of launch `id` of `s`, on cores `ks`: its spans were free
on each core, its window lies in its run, which holds what lies outside every window beside it, and, in a grouped kernel, each
group of its roles stands ready at its entry. -/
def TeamPlaced (s t : State) (id : Nat) (l : Launch) (n : Nat) (ks : List Nat) : Prop :=
  ∃ tm, Tab.get? t.teams n = some tm ∧ tm.launch = id ∧ tm.ctx = l.ctx ∧ tm.index = l.next ∧ tm.cores = ks ∧ tm.prio = l.prio ∧
    tm.x.toNat = l.next % recX l.record % 2 ^ 32 ∧ tm.y.toNat = l.next / recX l.record % recY l.record % 2 ^ 32 ∧
    tm.z.toNat = l.next / (recX l.record * recY l.record) % 2 ^ 32 ∧ tm.stream = recStream l.record ∧ tm.ended = false ∧ tm.out = false ∧
    ∀ i, i < ks.length →
      let need := recNeed l.record i
      let k := ks.getD i 0
      tm.slot0.getD i 0 ∈ (s.room k).slotStarts need ∧ (tm.srun.getD i (0, 0)).1 ∈ (s.room k).spanStarts need ∧
      (tm.srun.getD i (0, 0)).2 = need.run ∧ tm.ssize.getD i 0 = need.size ∧
      (tm.srun.getD i (0, 0)).1 ≤ tm.sbase.getD i 0 ∧ tm.sbase.getD i 0 + need.size ≤ (tm.srun.getD i (0, 0)).1 + need.run ∧
      (tm.srun.getD i (0, 0)).1 ≤ tm.outsideAt i ∧ tm.outsideAt i + need.rest ≤ (tm.srun.getD i (0, 0)).1 + need.run ∧
      (tm.outsideAt i + need.rest ≤ tm.sbase.getD i 0 ∨ tm.sbase.getD i 0 + need.size ≤ tm.outsideAt i) ∧
      (recStream l.record = false → ∀ j m, (recMembers l.record i)[j]? = some m →
        ∃ g gr, Tab.get? t.groups g = some gr ∧ gr.team = n ∧ gr.core = k ∧ gr.role = m.role ∧ gr.num = m.num ∧ gr.width = m.width ∧
          gr.frontier = [{ pc := roleEntry (recRole l.record m.role), lanes := List.range m.width }] ∧ gr.lanes.length = m.width ∧
          gr.scal 0 = l.arg.getD (recArg l.record 0) % 2 ^ 64 ∧ (∀ a, 1 ≤ a → a < 8 → gr.scal a = recArg l.record a % 2 ^ 64) ∧
          gr.scal 62 = (recScr l.record * 1024 + (j + 1) * recStk l.record * 4) % 2 ^ 64 ∧ gr.shared.stklim.toNat =
            (recScr l.record * 1024 + j * recStk l.record * 4) % 2 ^ 19)

/-- R364, R366: what launching a team of a node does once it is due: the template's team waits for placement and has claimed
records of the input edge, the lowest numbers first in record order; or it is refused and the node holds off. -/
def NodeLaunches (s : State) (die slot node : Nat) (nd : Node) (e : Edge) (i : Instr) : Prop :=
  let g := s.graphOf die slot
  ∀ s1 r, s.loadMany die g.ctx g.cls nd.tmpl 8 = (s1, r) →
    (∀ v, r = some v → recReason v = 0 → ∃ t, exec i s = .next t ∧
      Tab.get? t.launches s1.seq = some
        { die := die, gseq := (s1.die die).gseq, ctx := g.ctx, prio := g.prio, cls := g.cls, record := oneTeam v, node := some (slot, node) } ∧
      (t.die die).gseq = ((s1.die die).gseq + 1) % 2 ^ 32 ∧
      ∀ e1, (s1.graphOf die slot).edge? nd.inEdge = some e1 →
        ∃ e2, (t.graphOf die slot).edge? nd.inEdge = some e2 ∧ e2 = { e1 with slots := e2.slots } ∧ e2.slots.length = e1.slots.length ∧
          e2.full = e1.full - min nd.thr e.full ∧
          (∀ (k : Nat), e2.slots[k]? = e1.slots[k]? ∨
            ∃ n at_, e1.slots[k]? = some (.full n at_) ∧ e2.slots[k]? = some (.claimed n s1.seq)) ∧
          (e1.ordered = true → ∀ (k j n m a b : Nat), e1.slots[k]? = some (.full n a) → e2.slots[k]? = some (.claimed n s1.seq) →
            e1.slots[j]? = some (.full m b) → e2.slots[j]? = some (.full m b) → n ≤ m)) ∧
    ((∀ v, r = some v → recReason v ≠ 0) → ∃ t, exec i s = .next t ∧ t.launches = s1.launches ∧
      ∀ nd1, (s1.graphOf die slot).node? node = some nd1 →
        (t.graphOf die slot).node? node = some { nd1 with holdoff := some (s1.gtc die + 65536) })

end Sys2Proof.Slice0

/-- R354-R371, R376: the doorbell moves TAIL; a record is taken from the queue that is next; a launch's next team is placed where
it fits, or waits there; a graph starts unless its tables are wrong; a node whose condition holds launches a team; a core that
asks a range node gets a team with its task or half of the longest interval. The model's choices here: low bits of a queue's base
are ignored and a node's launch takes a GSEQ (log entry 33); the spans a team takes and the targets TEAM_PLACEMENT names are the
device's own choice (entry 8). -/
def Obligations.TeamsAreLaunched : Prop :=
  ∀ s,
    (∀ die queue tail, tail < 2 ^ 32 →
      let qu := (s.die die).queue queue
      let dist := fun x => (x + 2 ^ 32 - qu.head) % 2 ^ 32
      (dist tail ≤ 2 ^ qu.logn ∧ dist qu.tail ≤ dist tail → ∃ t, exec (.launchQueueDoorbell die queue tail) s = .next t ∧
        t = { s with dies := t.dies } ∧ (∀ d, d ≠ die → t.die d = s.die d) ∧
        t.die die = { s.die die with queues := (t.die die).queues } ∧
        ∀ q, (t.die die).queue q = if q = queue then { qu with tail := tail } else (s.die die).queue q) ∧
      (¬ (dist tail ≤ 2 ^ qu.logn ∧ dist qu.tail ≤ dist tail) → Unlogged s → exec (.launchQueueDoorbell die queue tail) s = .next s)) ∧
    (∀ die queue,
      let q := (s.die die).queue queue
      let next := s.nextQueue die = some queue ∧ s.heldLaunches die < 256
      (¬ next → exec (.launchRecordTake die queue) s = .next s) ∧
      ∀ s1 r, next → s.loadMany die q.ctx q.cls (q.base / 512 * 512 + 512 * (q.head % 2 ^ q.logn)) 8 = (s1, r) →
        ∃ s2 : State, s2 = { s1 with dies := s2.dies } ∧ (s2.die die).gseq = ((s1.die die).gseq + 1) % 2 ^ 32 ∧
          (s2.die die).queue queue = { (s1.die die).queue queue with head := (((s1.die die).queue queue).head + 1) % 2 ^ 32 } ∧
          (r = none → exec (.launchRecordTake die queue) s = .next (s2.logDone
            { die := die, ctx := q.ctx, cls := q.cls, queue := queue, donea := 0, status := 3, reason := 0x0C
              gseq := (s1.die die).gseq, time := s2.gtc die } true)) ∧
          ∀ v, r = some v →
            (recReason v ≠ 0 → exec (.launchRecordTake die queue) s =
              .next (s2.complete die q.ctx q.cls queue (recDonea v) 3 (recReason v) (s1.die die).gseq 0)) ∧
            (recReason v = 0 → exec (.launchRecordTake die queue) s = .next { s2 with
              seq := s1.seq + 1
              launches := Tab.set s1.launches s1.seq
                { die := die, gseq := (s1.die die).gseq, ctx := q.ctx, prio := q.prio, cls := q.cls, record := v, queue := queue } })) ∧
    (∀ id cluster cores l, Tab.get? s.launches id = some l →
      let ks := maskCores cluster cores
      let ns := recNeeds l.record
      let may := cluster / 16 = l.die ∧ ks.length = ns.length
      let free := s.fitsNow ns cluster ks = true ∧ ∀ k ∈ ks, k ∉ s.blockedCores id l
      (¬ may → exec (.teamPlacement id cluster cores) s = .next s) ∧
      (may → s.placeable id l = false → ∃ t, exec (.teamPlacement id cluster cores) s = .next t ∧
        t = { s with launches := t.launches } ∧ OneLaunch s t id fun l => { l with target := [] }) ∧
      (may → s.placeable id l = true →
        (recGang l.record = false →
          (free → ∃ t, exec (.teamPlacement id cluster cores) s = .next t ∧ TeamPlaced s t id l s.seq ks ∧
            OneLaunch s t id fun l => { l with next := l.next + 1, live := l.live + 1, target := [] }) ∧
          (¬ free → ∃ t, exec (.teamPlacement id cluster cores) s = .next t ∧ t = { s with launches := t.launches } ∧
            OneLaunch s t id fun l => { l with target := ks })) ∧
        (recGang l.record = true → l.next = 0 → ∃ t, exec (.teamPlacement id cluster cores) s = .next t ∧
          ((t = { s with launches := t.launches, free := t.free } ∧ OneLaunch s t id fun l => { l with target := ks }) ∨
            OneLaunch s t id fun l => { l with next := l.teams, live := l.live + l.teams, target := [] })))) ∧
    (∀ die slot,
      let g := s.graphOf die slot
      (g.starting = false → exec (.graphStart die slot) s = .next s) ∧
      (g.starting = true →
        (g.nodes % 64 = 0 ∧ g.edges % 64 = 0 → ∀ s1 ns a s2 es b,
          s.loadRecords die g.ctx g.cls g.nodes (g.nnm1 + 1) = (s1, ns, a) → s1.loadRecords die g.ctx g.cls g.edges (g.nem1 + 1) = (s2, es, b) →
          let good := a = true ∧ b = true ∧ (∀ k, k < ns.length → nodeOk es k (ns.getD k 0) = true) ∧ ∀ e ∈ es, edgeOk g.nnm1 e = true
          (good → ∃ t, exec (.graphStart die slot) s = .next t ∧ t = { s2 with dies := t.dies } ∧
            t.graphOf die slot = { s2.graphOf die slot with
              starting := false, run := true, nextTask := 0
              nodeTab := ns.map fun r => { record := r }
              edgeTab := es.map fun r =>
                { record := r, slots := List.replicate (2 ^ (r / 2 ^ 64 % 16)) .free, openp := r / 2 ^ 120 % 256 } }) ∧
          (¬ good → Unlogged s2 → ∃ t, exec (.graphStart die slot) s = .next t ∧ t = { s2 with dies := t.dies } ∧
            t.graphOf die slot = { s2.graphOf die slot with starting := false })) ∧
        (¬ (g.nodes % 64 = 0 ∧ g.edges % 64 = 0) → Unlogged s → ∃ t, exec (.graphStart die slot) s = .next t ∧
          t = { s with dies := t.dies } ∧ t.graphOf die slot = { g with starting := false }))) ∧
    (∀ die slot,
      let g := s.graphOf die slot
      let isOver := g.dl ≠ 0 ∧ g.dl < s.gtc die
      (¬ isOver → exec (.graphDeadlineExpiry die slot) s = .next s) ∧
      (isOver → ∃ t, exec (.graphDeadlineExpiry die slot) s = .next t ∧ t = { s with launches := t.launches } ∧
        ∀ id, Tab.get? t.launches id = (Tab.get? s.launches id).map fun l =>
          if l.die = die ∧ l.node.map Prod.fst = some slot then { l with target := [] } else l)) ∧
    (∀ die slot node, ∃ t, exec (.nodeLaunchHoldoffExpiry die slot node) s = .next t ∧ t = { s with dies := t.dies } ∧
      (∀ d, d ≠ die → t.die d = s.die d) ∧ ∀ n, (t.graphOf die slot).node? n = ((s.graphOf die slot).node? n).map fun nd =>
        if n = node ∧ nd.holdoff.any (fun e => decide (e ≤ s.gtc die)) = true then { nd with holdoff := none } else nd) ∧
    (∀ die slot node nd, (s.graphOf die slot).node? node = some nd → ∀ e, (s.graphOf die slot).edge? nd.inEdge = some e →
      let may := nd.kind < 2 ∧ s.nodeMay die slot node nd = true
      let timed := nd.kind = 1 ∧ ∃ at_, e.oldest = some at_ ∧ at_ + nd.maxw ≤ s.gtc die
      let due := (nd.kind = 0 ∧ 1 ≤ e.full) ∨ (nd.kind = 1 ∧ nd.thr ≤ e.full) ∨ timed ∨ (nd.kind = 1 ∧ e.openp = 0 ∧ 1 ≤ e.full)
      (¬ (may ∧ due) → exec (.nodeTeamLaunch die slot node) s = .next s) ∧
      (may → due → NodeLaunches s die slot node nd e (.nodeTeamLaunch die slot node)) ∧
      (¬ (may ∧ timed) → exec (.coalesceTimerExpiry die slot node) s = .next s) ∧
      (may → timed → NodeLaunches s die slot node nd e (.coalesceTimerExpiry die slot node))) ∧
    ∀ die slot node nd, (s.graphOf die slot).node? node = some nd →
      let g := s.graphOf die slot
      let work := s.rangeWork die slot node nd
      (nd.kind ≠ 2 ∨ s.nodeMay die slot node nd = false ∨ work = none → exec (.rangeWorkRequest die slot node) s = .next s) ∧
      (nd.kind = 2 → s.nodeMay die slot node nd = true →
        ∀ w s1 v, work = some w → s.loadMany die g.ctx g.cls nd.tmpl 8 = (s1, some v) → recReason v = 0 → recDep v = false →
          let l : Launch := { die := die, gseq := 0, ctx := g.ctx, prio := g.prio, cls := g.cls, record := 0, node := some (slot, node) }
          let room := (dieSets die (recNeeds v).length s1.free).find? (fun y => s1.fitsNow (recNeeds v) y.1 y.2 &&
            !(y.2.any fun k => (s1.blockedCores s1.seq { l with
              arg := some w.of.arg, interval := some (w.span.1, w.span.2, nd.grain), task := some w.of.id }).contains k))
          (room = none → exec (.rangeWorkRequest die slot node) s = .next s1.draw) ∧
          ∀ x s2, room = some x → s1.draw.loadMany die g.ctx g.cls nd.tmpl 8 = (s2, some v) →
          ∃ t tm, exec (.rangeWorkRequest die slot node) s = .next t ∧ Tab.get? t.teams (s2.seq + 1) = some tm ∧
            tm.node = some (slot, node) ∧ tm.cores = x.2 ∧ tm.task = some w.of.id ∧
            (∀ task, w = .task task → tm.interval = some (task.lo, task.hi, nd.grain) ∧
              ∀ nd2, (s2.graphOf die slot).node? node = some nd2 →
                (t.graphOf die slot).node? node = some { nd2 with tasks := nd2.tasks.drop 1, running := nd2.running ++ [{ task := task, live := 1 }] }) ∧
            ∀ team mid fin task, w = .split team mid fin task → team ≠ s2.seq + 1 → tm.interval = some (mid, fin, nd.grain) ∧
              ∀ old, Tab.get? s2.teams team = some old →
                (Tab.get? t.teams team).map Team.interval = some (old.interval.map fun y => (y.1, mid, y.2.2)))

/-- R377-R381: PREEMPT_ORDER and TEAM_RESTORE complete. An order first chooses its teams: a context's, or enough of a grid's
from its last team back, as the save pool holds them; once each is settled, those not ended leave their cores and the order
ends. The first saved team of a grid comes back where it fits, or waits there; a gang comes back whole. How an order chooses,
what it saves and reports, and what a restore awaits, where R377-R381 leave it open, are the model's choices (log entry 35). -/
def Obligations.TeamsAreSavedAndRestored : Prop :=
  ∀ s, (s.teams.map Prod.fst).Nodup →
    (∀ die,
      let p := (s.die die).preempt
      (p.order = none → exec (.preemptOrder die) s = .next s) ∧
      ∀ ctx whole cores gseq report, p.order = some (ctx, whole, cores, gseq, report) →
        (p.todo ≠ [] → exec (.preemptOrder die) s = .next (s.writeReport die ctx p.todo)) ∧
        (p.todo = [] → p.started = false → ∃ t new, exec (.preemptOrder die) s = .next t ∧
          t = { s with dies := t.dies, teams := t.teams, saved := t.saved, free := t.free } ∧
          let p' := (t.die die).preempt
          p'.started = true ∧ p'.order = p.order ∧ p'.chosen = p.chosen ++ new ∧
          (∀ x ∈ new, ∃ tm n, Tab.get? s.teams x.1 = some tm ∧ tm.resident = true ∧ x.2 = s.teamGseq tm ∧
            (if whole then tm.ctx = ctx ∧ s.teamDie tm = die else (s.gridOf die gseq).map Prod.fst = some tm.launch) ∧
            1 ≤ n ∧ n ≤ s.poolLeft die tm.ctx ∧ Tab.get? t.teams x.1 = some { tm with stopping := true, savedBytes := n }) ∧
          (∀ k, k ∉ new.map Prod.fst → Tab.get? t.teams k = Tab.get? s.teams k) ∧
          (∀ k tm, Tab.get? s.teams k = some tm → tm.resident = true →
            (if whole then tm.ctx = ctx ∧ s.teamDie tm = die else (s.gridOf die gseq).map Prod.fst = some tm.launch) →
            k ∈ new.map Prod.fst ∨ p'.short = true ∨ (whole = false ∧ cores ≤ t.chosenCores die))) ∧
        (p.todo = [] → p.started = true →
          ((∃ x ∈ p.chosen, s.teamStill x.1 = false) → exec (.preemptOrder die) s = .next s) ∧
          ((∀ x ∈ p.chosen, s.teamStill x.1 = true ∧ (Tab.get? s.teams x.1).isSome) →
            (s.saveTeams whole p.chosen = none →
              exec (.preemptOrder die) s = .next (s.noteWait (.order die) (homeDie (ctxSave (s.ctxEntry die ctx))))) ∧
            ∀ s1, s.saveTeams whole p.chosen = some s1 → ∃ t, exec (.preemptOrder die) s = .next t ∧
              (let q := (t.die die).preempt
               q.busy = false ∧ q.order = none ∧ q.chosen = [] ∧ q.todo = [] ∨ q.order = p.order ∧ q.todo ≠ []) ∧
              ∀ k, k ∈ p.chosen.map Prod.fst →
                if (s.teamOf k).ended then t.teamOf k = s.teamOf k
                else (t.teamOf k).out = true ∧ (t.teamOf k).awaitsEn = whole ∧ (t.teamOf k).cores = [] ∧
                  (t.teamOf k).stopping = false ∧ (t.teamOf k).ended = false))) ∧
    ∀ t cluster cores, (Tab.get? s.teams t).isSome →
      let tm := s.teamOf t
      ∀ l, Tab.get? s.launches tm.launch = some l →
        let ks := maskCores cluster cores
        let may := tm.out = true ∧ tm.ended = false ∧ cluster / 16 = l.die ∧ ks.length = tm.slot0.length ∧
          ctxEn (s.ctxEntry l.die tm.ctx) = true ∧ tm.awaitsEn = false ∧ ∀ j, j ∈ s.savedTeams tm.launch → tm.index ≤ (s.teamOf j).index
        let free := s.fitsSaved t cluster ks = true ∧ ∀ k ∈ ks, k ∉ s.blockedCores tm.launch l
        (¬ may → exec (.teamRestore t cluster cores) s = .next s) ∧
        (may → tm.index < 2 ^ 31 →
          (recGang l.record = false →
            (free → ∃ u, exec (.teamRestore t cluster cores) s = .next u ∧ (u.teamOf t).out = false ∧ (u.teamOf t).cores = ks ∧
              (u.teamOf t).windows = [] ∧ (u.teamOf t).mailbox = [] ∧ OneLaunch s u tm.launch fun l => { l with target := [] }) ∧
            (¬ free → ∃ u, exec (.teamRestore t cluster cores) s = .next u ∧ u = { s with launches := u.launches } ∧
              OneLaunch s u tm.launch fun l => { l with target := ks })) ∧
          (recGang l.record = true → ∃ u, exec (.teamRestore t cluster cores) s = .next u ∧
            ((∀ j ∈ s.savedTeams tm.launch, (u.teamOf j).out = false) ∨
              u = { s with launches := u.launches, free := u.free } ∧ OneLaunch s u tm.launch fun l => { l with target := ks })))

/-! ### The control plane (00 R3, 14 R326, R327, 15 R355, R364, R377, R382, 18 R427, 21 R476-R482) -/

namespace Sys2Proof.Slice0

/-- R479: the running command has ended with a STATUS and COUNT, and BUSY is 0. -/
def CommandEnds (c : Control) (status count : Nat) (c' : Control) : Prop :=
  c' = { c with status := status, count := count % 2 ^ 24, busy := false }

/-- R288: every group of the launches `ids` that had not retired has ended, and the launches with it. -/
def GridsEnd (s t : State) (ids : List Nat) : Prop :=
  (∀ g gr, Tab.get? s.groups g = some gr → gr.retired = false → (s.teamOf gr.team).launch ∈ ids →
    Ended gr (t.group g) ∧ Tab.get? t.groups g = some (t.group g)) ∧
  ∀ id ∈ ids, ∀ l, Tab.get? s.launches id = some l → l.live ≠ 0 → Tab.get? t.launches id =
    some { l with ended := true, status := if l.ended then l.status else 2, reason := if l.ended then l.reason else 0 }

/-- Table 15.12, R377: a write of the order's first word; GO starts the order it and the others hold, unless one runs. -/
def orderWritten (p : Preempt) (v : BitVec 64) : Preempt :=
  let ctx := v.toNat % 4096
  let cores := v.toNat / 2 ^ 13 % 256
  let q := { p with ctx := ctx, kind := v.getLsbD 12, cores := cores }
  if v.getLsbD 63 && !p.busy then
    { q with
      busy := true, order := some (ctx, v.getLsbD 12, cores, p.gseq, p.report), chosen := [], started := false, short := false }
  else q

/-- Table 21.3, R479: a write of the command's first word; GO starts the command it and the others hold, unless one runs. -/
def commandWritten (c : Control) (v : BitVec 64) : Control :=
  let op := v.toNat % 16
  let ctx := v.toNat / 2 ^ 4 % 4096
  let ctx2 := v.toNat / 2 ^ 16 % 4096
  let q := { c with op := op, ctx := ctx, ctx2 := ctx2 }
  if v.getLsbD 63 && !c.busy then { q with busy := true, latched := (op, ctx, ctx2, c.a0, c.a1, c.a2) } else q

end Sys2Proof.Slice0

/-- R3, R326, R327, R355, R364, R377, R476: what a write does to each register, and that GO and EN start what they name. A
write of a register then triggers the watches on its sector (R144). -/
def Obligations.RegistersAreWritten : Prop :=
  ∀ s,
    (∀ cluster fuse, ∃ t, exec (.clusterConfigWrite cluster fuse) s = .next t ∧ t = { s with clusters := t.clusters } ∧
      ∀ c, t.cluster c = if c = cluster then { s.cluster c with fuse := fuse } else s.cluster c) ∧
    (∀ cluster,
      let c := s.cluster cluster
      let used := ∃ x ∈ s.teams, x.2.ended = false ∧ x.2.out = false ∧ ∃ k ∈ x.2.cores, k / 8 = cluster
      let begun := c.switching = true ∨ (c.fuse ≠ c.act ∧ ¬ used)
      (¬ begun → exec (.cacheModeSwitch cluster) s = .next s) ∧
      (begun → Unlogged s → ∃ t, exec (.cacheModeSwitch cluster) s = .next t ∧
        t = { s with caches := t.caches, clusters := t.clusters } ∧
        (∀ k, Tab.get? t.caches k = if k / 8 = cluster then none else Tab.get? s.caches k) ∧
        ∀ k, t.cluster k = if k = cluster then { fuse := c.fuse, act := c.fuse, switching := false } else s.cluster k)) ∧
    ∀ die off (v : BitVec 64),
      let w := v.toNat
      let di := s.die die
      let done := fun (t : State) => exec (.registerWrite die off v) s = .next (t.triggerDevice (2 ^ 48 + 2 ^ 28 * die + off))
      let writes := fun (di' : Die) => ∃ t, done t ∧ t = { s with dies := t.dies } ∧
        t.die die = di' ∧ ∀ d, d ≠ die → t.die d = s.die d
      (∀ q, q < 1024 →
        let qu := di.queue q
        let holds := fun (x : Queue) => ∃ t, done t ∧ t = { s with dies := t.dies } ∧
          t.die die = { di with queues := (t.die die).queues } ∧ (t.die die).queue q = x ∧ ∀ j, j ≠ q → (t.die die).queue j = di.queue j
        (off = 32 * q → holds (if qu.en then { qu with en := v.getLsbD 61 }
          else { qu with base := w % 2 ^ 57, logn := w / 2 ^ 57 % 16, en := v.getLsbD 61 })) ∧
        (off = 32 * q + 8 → holds { qu with
          ctx := if qu.en then qu.ctx else w % 4096, prio := w / 2 ^ 12 % 64, cls := w / 2 ^ 18 % 4 }) ∧
        (off = 32 * q + 16 → ∀ t, exec (.launchQueueDoorbell die q (w % 2 ^ 32)) s = .next t → done t) ∧
        (off = 32 * q + 24 → done s)) ∧
      (∀ n, n < 64 →
        let g := s.graphOf die n
        let holds := fun (x : Graph) => ∃ t, done t ∧ t = { s with dies := t.dies } ∧
          t.graphOf die n = x ∧ ∀ j, j ≠ n → t.graphOf die j = s.graphOf die j
        (off = 0x10000 + 32 * n → holds { g with nodes := w % 2 ^ 57 }) ∧
        (off = 0x10008 + 32 * n → holds { g with edges := w % 2 ^ 57 }) ∧
        (off = 0x10010 + 32 * n → holds { g with
          nnm1 := w % 256, nem1 := w / 2 ^ 8 % 256, ctx := w / 2 ^ 16 % 4096, prio := w / 2 ^ 28 % 64, cls := w / 2 ^ 34 % 4
          en := v.getLsbD 36, run := g.run && v.getLsbD 36
          starting := v.getLsbD 36 && (g.starting || !g.en) }) ∧
        (off = 0x10018 + 32 * n → holds { g with dl := w })) ∧
      (let p := di.preempt
       (off = 0x11000 → writes { di with preempt := orderWritten p v }) ∧
       (off = 0x11008 → writes { di with preempt := { p with gseq := w % 2 ^ 32 } }) ∧
       (off = 0x11010 → writes { di with preempt := { p with report := w % 2 ^ 57 } })) ∧
      (off = 0x14000 → writes { di with age := w % 65536 }) ∧
      (off = 0x16008 → writes { di with logTail := w / 2 ^ 32 % 2 ^ 32 }) ∧
      (off = 0x17000 → die = 0 → done { s with manage := { s.manage with
        plim := w % 2 ^ 11, clim := w / 2 ^ 16 % 2 ^ 11, pending := true } }) ∧
      (off = 0x18000 → die = 0 → done { s with control := commandWritten s.control v }) ∧
      (off = 0x19000 → die = 0 → done { s with ctxBase := v.setWidth 52 }) ∧
      (off = 0x19018 → die = 0 → done { s with pkg := v.setWidth 13 }) ∧
      (off % 8 = 0 → (0x1B000 ≤ off ∧ (off < 0x20000 ∨ 0x40000 ≤ off)) ∨ (0x17008 ≤ off ∧ off < 0x18000) ∨
        (0x17000 ≤ off ∧ off < 0x1B000 ∧ die ≠ 0) → done s)

/-- R295, R382, R427, R453, R479, R480, R482: a control command is performed while it runs, and only then; its STATUS says how
it ended. Which accesses an invalidation withdraws (log entry 22), the order of a command's checks and the STATUS of each (entry
38), and a clone from a table that it cannot read (entry 43) are the model's choices. -/
def Obligations.ControlCommandsAct : Prop :=
  ∀ s,
    let c := s.control
    let runs := fun (op ctx ctx2 a0 a1 : Nat) => c.busy = true ∧ c.finishing = none ∧ ∃ a2, c.latched = (op, ctx, ctx2, a0, a1, a2)
    let idle := fun (op : Nat) => c.busy = false ∨ c.finishing ≠ none ∨ c.latched.1 ≠ op
    (idle 1 → exec .cloneContext s = .next s) ∧ (idle 2 → exec .translationInvalidation s = .next s) ∧
    (idle 3 → exec .frameRelease s = .next s) ∧ (idle 4 → exec .linkRetrainOrder s = .next s) ∧
    (idle 5 → exec .debugWrite s = .next s) ∧ (idle 6 → exec .endGrid s = .next s) ∧ (idle 7 → exec .endContext s = .next s) ∧
    (∀ ctx ctx2 a0 a1, runs 4 ctx ctx2 a0 a1 →
      let d := a0 % 4
      let p := a0 / 4 % 2
      let m := a0 / 8 % 4
      let st := (s.module d p m).state
      (st = 3 → exec .linkRetrainOrder s = .next s) ∧
      (st ≠ 3 → ∃ t, exec .linkRetrainOrder s = .next t ∧ t = { s with modules := t.modules } ∧
        (t.module d p m).state = 3 ∧ (t.module d p m).goal = some st ∧ (t.module d p m).buf = (s.module d p m).buf ∧
        (t.module (neighbour d p) p m).state = 3 ∧ (t.module (neighbour d p) p m).goal = some st)) ∧
    (Unlogged s →
      let fails := fun (i : Instr) (status : Nat) => ∃ t, exec i s = .next t ∧
        t = { s with control := t.control, sectorWaits := t.sectorWaits } ∧ CommandEnds c status 0 t.control
      ((∀ op, 1 ≤ op → op ≤ 7 → idle op) → (c.busy = true → c.finishing = none → fails .unknownControlOp 0xFF) ∧
        (c.busy = false ∨ c.finishing ≠ none → exec .unknownControlOp s = .next s)) ∧
      ((∃ op, 1 ≤ op ∧ op ≤ 7 ∧ ¬ idle op) → exec .unknownControlOp s = .next s) ∧
      (∀ ctx ctx2 a0 a1, runs 1 ctx ctx2 a0 a1 →
        ∀ s1, s1 = ((s.noteCorrected (s.ctxAddr ctx) false).noteCorrected (s.ctxAddr ctx2) false).noteCorrected (a0 % 2 ^ 52) false →
        let e := s1.ctxEntry 0 ctx
        let d := homeDie (ctxRoot e)
        let mask := s1.paLoad (s1.placeOf (a0 % 2 ^ 52)) 64
        let n := s1.countTables mask (ctxRoot e) 4
        let unread := fun (pa : Nat) => s1.sectorStatus pa ≠ 0 ∨ s1.reaches 0 pa = false
        let on := ctxEn e = true ∨ ctxEn (s1.ctxEntry 0 ctx2) = true ∨ unread (s1.ctxAddr ctx) ∨ unread (a0 % 2 ^ 52)
        let ends := fun (status : Nat) => ∃ t, exec .cloneContext s = .next t ∧
          t = { s1 with control := t.control, sectorWaits := t.sectorWaits } ∧ CommandEnds c status 0 t.control
        (on → ends 1) ∧
        (¬ on → 256 < n → ends 3) ∧
        (¬ on → n ≤ 256 → (s1.die d).pool4k.length < n → ends 2) ∧
        (¬ on → n ≤ 256 → n ≤ (s1.die d).pool4k.length →
          ((s1.die d).freeSectors < 64 * n → exec .cloneContext s = .next (s1.noteWait .clone d)) ∧
          (64 * n + 8 ≤ (s1.die d).freeSectors → (∀ f ∈ (s1.die d).pool4k, homeDie f = d) → s.ctxBase.toNat + 64 * 4096 ≤ 2 ^ 40 →
            s.ctxBase.toNat % 64 = 0 → ctx2 < 4096 → s1.reaches 0 (s.ctxBase.toNat + 64 * ctx2) = true →
            8 ≤ (s1.die (homeDie (s.ctxBase.toNat + 64 * ctx2))).freeSectors →
            ∃ t root, exec .cloneContext s = .next t ∧ CommandEnds c 0 n t.control ∧
              t.paLoad (s.ctxBase.toNat + 64 * ctx2) 64 = setBits (setBits e 64 40 root) 0 1 0 % 2 ^ 512))) ∧
      (∀ ctx ctx2 a0 a1, runs 2 ctx ctx2 a0 a1 → ctx < 4096 → a0 < 2 ^ 57 → a1 < 2 ^ 57 →
        let p := if a1 = 0 then 0 else a0 / 4096
        let n := if a1 = 0 then 2 ^ 45 else (a0 + a1 - 1) / 4096 - a0 / 4096 + 1
        ∃ t, exec .translationInvalidation s = .next t ∧ CommandEnds c 0 0 t.control ∧
          (∀ k pg, pg < 2 ^ 45 → p ≤ pg → pg < p + n → Tab.get? (Tab.getD t.tlbs k []) (ctx * 2 ^ 45 + pg) = none) ∧
          (let first := fun (key : Nat) (l : Leaf) => key % 2 ^ 45 / l.pages * l.pages
           let meets := fun (key : Nat) (l : Leaf) => key / 2 ^ 45 = ctx ∧ p < first key l + l.pages ∧ first key l < p + n
           (∀ k key, (∀ l, Tab.get? (Tab.getD s.tlbs k []) key = some l → ¬ meets key l) →
             ((Tab.getD s.tlbs k []).map Prod.fst).Nodup →
             Tab.get? (Tab.getD t.tlbs k []) key = Tab.get? (Tab.getD s.tlbs k []) key) ∧
           ∀ k key l, ((Tab.getD s.tlbs k []).map Prod.fst).Nodup → Tab.get? (Tab.getD s.tlbs k []) key = some l → meets key l →
             Tab.get? (Tab.getD t.tlbs k []) key = none) ∧
          (∀ k lv q, lv < 4 → q < 2 ^ 45 → q * 2 ^ (9 * (lv + 1)) < p + n → p < (q + 1) * 2 ^ (9 * (lv + 1)) →
            Tab.get? (Tab.getD t.ptrs k []) ((lv * 2 ^ 12 + ctx) * 2 ^ 45 + q) = none) ∧
          (let stale := fun (k : Nat) (ps : List (Nat × Nat)) => s.stale (coreDie k) ctx p n ps
           (∀ id, t.op id = (s.op id).map fun o => if o.ctx = ctx ∧ o.passed ≠ [] then
             { o with withdrawn := o.withdrawn ++ (stale o.core o.passed).map fun q => (q, 1) } else o) ∧
           (∀ k, Tab.get? t.nmRows k = (Tab.get? s.nmRows k).map fun r =>
             if r.ctx = ctx ∧ stale r.core [(pageOf r.va, r.pte)] ≠ [] then { r with gone := true } else r) ∧
           ((s.groups.map Prod.fst).Nodup → ∀ g gr, Tab.get? s.groups g = some gr →
             let hit := (s.teamOf gr.team).ctx = ctx ∧ (s.teamOf gr.team).out = false ∧
               ∃ q, gr.parked = some q ∧ q.passed ≠ [] ∧ stale gr.core q.passed ≠ []
             (hit → (t.group g).parked = none ∧ ∃ st, (t.group g).stop = some st ∧ st.code = if gr.hact then 0x1F else 0x6B) ∧
             (¬ hit → t.group g = gr)))) ∧
      (∀ ctx ctx2 a0 a1, runs 3 ctx ctx2 a0 a1 →
        (2 ^ 40 ≤ a0 → fails .frameRelease 1) ∧
        (a0 < 2 ^ 40 →
          let size := if a1 % 2 = 1 then 65536 else 4096
          let la := a0 / size * size
          let inside := fun (a : Nat) => la ≤ a ∧ a < la + size
          ∃ t, exec .frameRelease s = .next t ∧ CommandEnds c 0 0 t.control ∧
            (∀ l, Tab.get? t.lines l = if inside (512 * l) then none else Tab.get? s.lines l) ∧
            (∀ a, cellRead t.mem a = if inside a then 0 else cellRead s.mem a) ∧
            (∀ x, t.descOf x = if inside (64 * x) then 0 else s.descOf x) ∧
            (t.die (la / 2 ^ 38)).freeSectors = (s.die (la / 2 ^ 38)).freeSectors +
              (s.lines.map fun l => if la ≤ 512 * l.1 ∧ 512 * l.1 < la + size then lineSectors (some l.2) else 0).sum ∧
            (∀ f, Tab.get? t.flat f = if size = 65536 ∧ f = la / 65536 then none else Tab.get? s.flat f) ∧
            t = { s with
              control := t.control, lines := t.lines, mem := t.mem, desc := t.desc, faults := t.faults, dies := t.dies
              flat := t.flat, sectorWaits := t.sectorWaits })) ∧
      (∀ ctx ctx2 a0 a1, runs 5 ctx ctx2 a0 a1 →
        let at_ := fun (g : Nat) => a0 / 2 ^ 9 % 2 ^ 13 = s.pkg.toNat ∧ s.slotHolder ctx (a0 % 512) (a0 / 2 ^ 32 % 2048) = some g
        ((∀ g, ¬ at_ g) → fails .debugWrite 1) ∧
        ∀ g, at_ g → ∃ t, exec .debugWrite s = .next t ∧ CommandEnds c 0 0 t.control ∧
          (Tab.get? s.groups g ≠ none → (s.teamOf (s.group g).team).stream = false → (t.sharedOf g).dbg = BitVec.ofNat 6 a1) ∧
          (a1 / 128 % 2 = 0 →
            t = { s with control := t.control, groups := t.groups, teams := t.teams, sectorWaits := t.sectorWaits } ∧
            ∀ h, h ≠ g → t.group h = s.group h) ∧
          (a1 / 128 % 2 = 1 → ∀ st, (s.group g).stop = some st → st.halted = true → (t.group g).halt = false ∧ (t.group g).resumed = true)) ∧
      (∀ ctx ctx2 a0 a1, runs 6 ctx ctx2 a0 a1 →
        let found := s.launches.find? fun l => l.2.die == a0 % 4 && l.2.gseq == a1 % 2 ^ 32
        (found = none → fails .endGrid 1) ∧
        ∀ id l, found = some (id, l) → (s.groups.map Prod.fst).Nodup → (s.launches.map Prod.fst).Nodup → (∀ x ∈ s.groups, s.member x.2 = false) → l.live ≠ 0 →
          ∃ t, exec .endGrid s = .next t ∧ CommandEnds c 0 0 t.control ∧ GridsEnd s t [id] ∧
            ∀ g, (s.teamOf (s.group g).team).launch ≠ id → t.group g = s.group g) ∧
      ∀ ctx ctx2 a0 a1, runs 7 ctx ctx2 a0 a1 → (s.groups.map Prod.fst).Nodup → (s.launches.map Prod.fst).Nodup →
        (∀ x ∈ s.groups, s.member x.2 = false) → (∀ x ∈ s.launches, x.2.live ≠ 0) →
          let ids := (s.launches.filter fun x => x.2.ctx == ctx).map Prod.fst
          ∃ t, exec .endContext s = .next t ∧ CommandEnds c 0 0 t.control ∧ GridsEnd s t ids ∧
            (∀ n a, Tab.get? t.arSlots n = some a → a.owner ≠ some ctx) ∧
            ∀ g, (s.teamOf (s.group g).team).launch ∉ ids → t.group g = s.group g)

/-! ### Links (19 R450-R457, 20 R475) -/

namespace Sys2Proof.Slice0

/-- Module `m` of port `p` is `f` of what it was at each end named; every other module stands. -/
def ModulesAre (s t : State) (d p m : Nat) (near far : Module) : Prop :=
  t.module d p m = near ∧ t.module (neighbour d p) p m = far ∧
  ∀ k, k ≠ moduleKey d p m → k ≠ moduleKey (neighbour d p) p m → Tab.getD t.modules k {} = Tab.getD s.modules k {}

/-- R457: a module holds what it held, each hash lane's messages in their order. -/
def LanesKept (a b : Module) : Prop := ∀ lane, b.held.filter (fun x => x.lane == lane) = a.held.filter (fun x => x.lane == lane)

/-- R414, R452, R457: what waits to leave has left, in the order of R414, each lane's messages in theirs, as far as the replay
buffer of 512 flits has room. -/
def Pumped (a b : Module) (now age : Nat) : Prop :=
  LanesKept a b ∧ (2 ≤ a.state → b = a) ∧ (a.state < 2 → b.queue = [] ∨ 512 ≤ b.buf.length) ∧
  b = { a with fsn := b.fsn, buf := b.buf, queue := b.queue, wire := b.wire } ∧
  ∃ out : List Flit, b.buf = a.buf ++ out ∧ b.wire = a.wire ++ out ∧ (out.map Flit.msg ++ b.queue).Perm a.queue ∧
    ∀ f rest, out = f :: rest → ∃ j, portFirst a.queue now age = some j ∧ a.queue[j]? = some f.msg ∧ f.fsn = a.fsn

/-- R452: the flits from FSN `n` on are sent again, each counted. -/
def Resent (a b : Module) (n now : Nat) : Prop :=
  let again := a.buf.filter fun f => fsnLe n f.fsn
  b = { a with
    buf := a.buf.map fun f => if fsnLe n f.fsn then { f with since := now } else f
    wire := a.wire ++ again, replay := min (a.replay + again.length) (2 ^ 32 - 1) }

/-- R453: training for a fallback to 32 lanes. -/
def Training (a b : Module) : Prop :=
  b.state = 3 ∧ b.goal = some 4 ∧ b.crc = 0 ∧ b.wire = [] ∧ b.discarding = false ∧ b.fsn = a.fsn ∧ b.buf = a.buf ∧ b.queue = a.queue ∧
  b.expect = a.expect

/-- R453, R454: a module at EMAX falls back, or at 32 lanes goes down at both ends. -/
def FallsBack (s t : State) (d p m : Nat) : Prop :=
  let e := neighbour d p
  ((s.module d p m).state = 0 → t = { s with modules := t.modules } ∧ Training (s.module d p m) (t.module d p m) ∧
    Training (s.module e p m) (t.module e p m) ∧ (t.module d p m).led = true ∧ (t.module e p m).led = false) ∧
  ((s.module d p m).state ≠ 0 →
    (∃ u : State, u = { s with modules := u.modules, laneMods := u.laneMods, replies := u.replies, reqs := u.reqs } ∧
      (t = u ∨ t = u.stopUnreached)) ∧
    ∀ x, x = d ∨ x = e → (t.module x p m).state = 2 ∧ (t.module x p m).held = [] ∧ (t.module x p m).wire = [])

end Sys2Proof.Slice0

/-- R452-R454: a good flit in turn is acknowledged and delivered, any other discarded; ACKs free the buffer, NAKs and the timer
send it again; EMAX errors in a window have the module fall back or go down, and a training ends. That the window's count is
cleared at the next failure, that a failed CRC is always refused, that ACKs stay and flits are lost at a training, and what a
lowered EMAX does are the model's choices (log entry 36). -/
def Obligations.LinksDeliverAndReplay : Prop :=
  ∀ s d p m, Unlogged s →
    let e := neighbour d p
    let rx := s.module d p m
    let tx := s.module e p m
    let now := s.gtc d
    (∀ ok, tx.wire = [] ∨ 2 ≤ rx.state → exec (.flitReceive d p m ok) s = .next s) ∧
    (∀ f rest, tx.wire = f :: rest → rx.state < 2 →
      let refused := fun (i : Instr) (r : Module) => ∃ t, exec i s = .next t ∧ t = { s with modules := t.modules } ∧
        ModulesAre s t d p m { r with discarding := true } { tx with wire := rest, notes := tx.notes ++ [.nak rx.expect] }
      let from_ := if rx.windowAt + max rx.win 1 ≤ now then { rx with crc := 0, windowAt := now } else rx
      let hurt := { from_ with crc := min (from_.crc + 1) 65535 }
      (from_.crc + 1 < max rx.emax 1 → refused (.flitReceive d p m false) hurt) ∧
      (max rx.emax 1 ≤ from_.crc + 1 → ∃ t s1, exec (.flitReceive d p m false) s = .next t ∧ s1 = { s with modules := s1.modules } ∧
        ModulesAre s s1 d p m hurt { tx with wire := rest } ∧ FallsBack s1 t d p m) ∧
      (f.fsn = rx.expect → ∃ s1, s1 = { s with modules := s1.modules } ∧
        ModulesAre s s1 d p m { rx with expect := (rx.expect + 1) % 4096, discarding := false }
          { tx with wire := rest, notes := tx.notes ++ [.ack f.fsn] } ∧
        exec (.flitReceive d p m true) s = .next (s1.hop d f.msg) ∧
        (f.msg.plain = false → d = f.msg.target → ∃ t, exec (.flitReceive d p m true) s = .next t ∧
          if f.msg.reply.isSome then t = { s1 with replies := Tab.set s.replies f.msg.src (Tab.getD s.replies f.msg.src [] ++ [f.msg]) }
          else t = { s1 with atHome := Tab.set s.atHome d (Tab.getD s.atHome d [] ++ [f.msg]) })) ∧
      (f.fsn ≠ rx.expect →
        (fsnLe f.fsn rx.expect = true ∨ rx.discarding = true → ∃ t, exec (.flitReceive d p m true) s = .next t ∧
          t = { s with modules := t.modules } ∧ ModulesAre s t d p m rx { tx with wire := rest }) ∧
        (fsnLe f.fsn rx.expect = false → rx.discarding = false → refused (.flitReceive d p m true) rx))) ∧
    (∃ t, exec (.ackReceive d p m) s = .next t ∧ t = { s with modules := t.modules } ∧
      (∀ k, k ≠ moduleKey d p m → Tab.getD t.modules k {} = Tab.getD s.modules k {}) ∧
      (∀ n rest, rx.notes = .ack n :: rest → rx.state ≠ 3 →
        Pumped { rx with notes := rest, buf := rx.buf.filter fun f => !fsnLe f.fsn n } (t.module d p m) now (s.die d).age) ∧
      ((∀ n rest, rx.notes ≠ .ack n :: rest) ∨ rx.state = 3 → t.module d p m = rx)) ∧
    (∃ t, exec (.nakReceive d p m) s = .next t ∧ t = { s with modules := t.modules } ∧
      (∀ k, k ≠ moduleKey d p m → Tab.getD t.modules k {} = Tab.getD s.modules k {}) ∧
      (∀ n rest, rx.notes = .nak n :: rest → rx.state ≠ 3 → Resent { rx with notes := rest } (t.module d p m) n now) ∧
      ((∀ n rest, rx.notes ≠ .nak n :: rest) ∨ rx.state = 3 → t.module d p m = rx)) ∧
    (∃ t, exec (.replayTimeout d p m) s = .next t ∧ t = { s with modules := t.modules } ∧
      (∀ k, k ≠ moduleKey d p m → Tab.getD t.modules k {} = Tab.getD s.modules k {}) ∧
      (∀ f rest, rx.buf = f :: rest → rx.state < 2 → f.since + 2000 ≤ now → Resent rx (t.module d p m) f.fsn now) ∧
      (rx.buf = [] ∨ 2 ≤ rx.state ∨ (∃ f rest, rx.buf = f :: rest ∧ now < f.since + 2000) → t.module d p m = rx)) ∧
    (now < rx.windowAt + max rx.win 1 → exec (.crcWindowEnd d p m) s = .next s) ∧
    (rx.windowAt + max rx.win 1 ≤ now →
      (rx.crc < max rx.emax 1 ∨ 2 ≤ rx.state → ∃ t, exec (.crcWindowEnd d p m) s = .next t ∧ t = { s with modules := t.modules } ∧
        ModulesAre s t d p m { rx with crc := 0, windowAt := now } tx) ∧
      (max rx.emax 1 ≤ rx.crc → rx.state < 2 → ∃ t s1, exec (.crcWindowEnd d p m) s = .next t ∧ s1 = { s with modules := s1.modules } ∧
        ModulesAre s s1 d p m { rx with windowAt := now } tx ∧ FallsBack s1 t d p m)) ∧
    ∀ ok,
      (rx.state ≠ 3 ∨ rx.goal = none → exec (.retrainComplete d p m ok) s = .next s) ∧
      (rx.state = 3 → ∀ st, rx.goal = some st →
        let dest := if st = 4 then 1 else if ok then 0 else st
        let ended := fun (a b : Module) => b.state = dest ∧ b.goal = none ∧ b.led = false ∧ LanesKept a b ∧ b.crc = a.crc ∧
          b.windowAt = a.windowAt ∧ (dest < 2 → a.buf.length ≤ b.buf.length)
        (st = 4 → ok = false → ∃ t, exec (.retrainComplete d p m ok) s = .next t ∧
          ∀ x, x = d ∨ x = e → (t.module x p m).state = 2 ∧ (t.module x p m).held = [] ∧ (t.module x p m).wire = []) ∧
        (st ≠ 4 ∨ ok = true → ∃ t, exec (.retrainComplete d p m ok) s = .next t ∧
          t = { s with modules := t.modules, control := t.control, sectorWaits := t.sectorWaits } ∧ ended rx (t.module d p m) ∧ ended tx (t.module e p m) ∧
          if st = 4 then t.control = s.control else CommandEnds s.control (if ok then 0 else 1) 0 t.control))

/-- R455, R456, R475: a request at its home is performed once: one below the window is discarded, one marked there answered as
before, and any other waits, or is performed, marked and answered. The first response to a TSN is taken. That a VACQ whose cell
refuses it is answered 0xFF and sent again, and what becomes of requests under way when their operation or wait has ended, are the
model's choices (log entry 36). -/
def Obligations.RequestsArePerformedOnce : Prop :=
  ∀ s,
    (∀ die n,
      let xs := Tab.getD s.atHome die []
      (xs[n]? = none → exec (.exactlyOnceRequest die n) s = .next s) ∧
      ∀ x, xs[n]? = some x →
        let behind := ∃ y ∈ xs.take n, y.src = x.src ∧ y.lane = x.lane
        let key := 4 * x.src + x.dst
        let old := Tab.getD s.filters key {}
        let lo := if (x.oldest + 65536 - old.lo) % 65536 < 32768 then x.oldest else old.lo
        let above := fun (a : Nat) => (a + 65536 - lo) % 65536 < 256
        let f : Filter := { lo := lo, marks := old.marks.filter fun r => decide ((r.1 + 65536 - lo) % 65536 < 256) }
        let left := fun (u : State) (g : Filter) =>
          { u with atHome := Tab.set u.atHome die (xs.eraseIdx n), filters := Tab.set u.filters key g }
        (behind → exec (.exactlyOnceRequest die n) s = .next s) ∧
        (¬ behind →
          (¬ above x.tsn → exec (.exactlyOnceRequest die n) s = .next (left s f)) ∧
          (above x.tsn → ∀ r, Tab.get? old.marks x.tsn = some r →
            exec (.exactlyOnceRequest die n) s = .next ((left s f).sendOff die { x with reply := some r })) ∧
          (above x.tsn → Tab.get? old.marks x.tsn = none →
            (s.reqOf x = none → exec (.exactlyOnceRequest die n) s = .next (left s f)) ∧
            ∀ k r, s.reqOf x = some (k, r) → ∀ s1 a, s.performJob r.job = (s1, a) →
              (a = none → exec (.exactlyOnceRequest die n) s = .next s1) ∧
              ∀ b, a = some b → exec (.exactlyOnceRequest die n) s =
                .next ((left s1 { f with marks := Tab.set f.marks x.tsn b }).sendOff die { x with reply := some b })))) ∧
    ∀ src n,
      let xs := Tab.getD s.replies src []
      (xs[n]? = none → exec (.responseReceive src n) s = .next s) ∧
      ∀ x, xs[n]? = some x →
        let s1 := { s with replies := Tab.set s.replies src (xs.eraseIdx n) }
        (s.reqOf x = none → exec (.responseReceive src n) s = .next s1) ∧
        ∀ k r, s.reqOf x = some (k, r) → ∃ t, exec (.responseReceive src n) s = .next t ∧ Tab.get? t.reqs k = none ∧
          let s2 := { s1 with reqs := Tab.erase s.reqs k }
          let y := x.reply.getD {}
          (∀ id u, r.job = .unit id u → t = { s2 with ops := t.ops } ∧ ∀ j, j ≠ id → t.op j = s.op j) ∧
          (∀ id u o, r.job = .unit id u → s.op id = some o →
            ((∃ g h, o.instr = .cpa g h) → t.op id = some (o.cpaTake y)) ∧
            ((∃ g h, o.instr = .hscat g h) → t.op id = some (o.scatterTake u y)) ∧
            ((∃ g h, o.instr = .nmred g h) → t.op id = some (o.redTake u y)) ∧
            ((∃ g h, o.instr = .nmfence g h) → t.op id = some (o.markerTake u y)) ∧
            (nearUpdate o.instr = true → t.op id = some (o.rowTake u y))) ∧
          ∀ g, r.job = .posted g →
            (∀ q i va v dst, y.status = 0 → (s.group g).parked = some q → q.wait = .posted i va v dst →
              t = (s2.memDone g dst (if memResult i then some y.val else none) y.gwct).resume g) ∧
            (y.status = 0xFF → t = s2) ∧
            (y.status ≠ 0 → y.status ≠ 0xFF → t = s2.stopParked g (if y.status = 0x09 then 0x69 else y.status))

/-! ### Time, host, fabric and management (01 R14, R23, R25, 19 R459, 21 R477, R483-R489) -/

namespace Sys2Proof.Slice0

/-- A write of eight bytes at `pa` finds the sectors that its line may need, whatever their number. -/
def Backs (s : State) (pa : Nat) : Prop :=
  8 ≤ (s.die (homeDie pa)).freeSectors ∨
    ((s.backLine (pa / 512)).isSome = true ∧ Tab.get? s.faults (pa / 64) ≠ some .corrected)

/-- Eight bytes of `v` are stored at `pa` of local memory; every other byte of it stands. -/
def EightStored (s t : State) (pa v : Nat) : Prop :=
  ∀ q, q < 2 ^ 40 → t.paByte q = if pa ≤ q ∧ q < pa + 8 then BitVec.ofNat 8 (v / 2 ^ (8 * (q - pa))) else s.paByte q

end Sys2Proof.Slice0

/-- R14, R23, R25, R459, R477, R483-R489: the port's accesses, requests between packages, the counters of time, limits and the
watchdog, patrol scrubs, attestation, sleep and waking. A sleeping package does nothing but wake. The dies' offsets of time (log
entry 24), HOST_ACCESS number 4, limits that a register holds as written and clamps in force, and 2^30 signatures of a key store
(entry 37), and the time at waking and the images that the controllers find (entry 39) are the model's choices. -/
def Obligations.PackageIsManaged : Prop :=
  ∀ s,
    (s.asleep = true → (∀ ref ok, s.takeTurn.1 ≠ .event (.packageWake ref ok)) → ∃ t, step s = .next t ∧ t.asleep = true ∧
      t = { s with cycle := t.cycle, time := t.time, free := t.free, agenda := t.agenda, manage := t.manage }) ∧
    exec .packageSleep s = .next { s with asleep := true } ∧
    (∀ die, (s.manage.tj.getD die 0 < 115 → exec (.thermalTrip die) s = .next s) ∧
      (115 ≤ s.manage.tj.getD die 0 → exec (.thermalTrip die) s = .next { s with asleep := true })) ∧
    s.tick.asleep = (s.asleep || s.tick.manage.tj.any fun t => decide (115 ≤ t)) ∧
    (∀ d addr v, s.manage.hwsize.getD 0 < 8 ∨ addr % 2 ^ 48 / 8 * 8 < s.manage.hwbase.getD 0 ∨
      s.manage.hwbase.getD 0 + s.manage.hwsize.getD 0 < addr % 2 ^ 48 / 8 * 8 + 8 → s.firmwareWrite d addr v = s) ∧
    (∀ ref ok,
      (s.asleep = false → exec (.packageWake ref ok) s = .next s) ∧
      (s.asleep = true → ∃ t, exec (.packageWake ref ok) s = .next t ∧ ref ≤ t.time ∧ s.time + 5 ≤ t.time ∧
        (∀ d, d < 4 → Tab.getD s.gtcOff d 0 ≤ 4 →
          Tab.getD t.gtcOff d 0 ≤ 4 ∧ s.gtc d ≤ t.gtc d ∧ (s.gtc d < 2 ^ 64 - 1 → s.gtc d < t.gtc d)) ∧
        t = { State.reset with
          time := t.time, gtcOff := t.gtcOff, outside := s.outside, seq := s.seq, agenda := s.agenda, free := t.free, manage := t.manage } ∧
        t.manage.leaves = s.manage.leaves ∧
        (let good := ∀ d, d < 4 → (if d = 0 then ok else Config.choice (s.free + 4 + d) % 2 == 0) = true ∧
           Config.fusedSvn.toNat ≤ Config.choice (s.free + 8 + d) % 2 ^ 32
         (good → t.manage = { leaves := s.manage.leaves, kicked := t.time }) ∧
         (¬ good → t.manage.safe = true ∧ t.manage.plim = 900 ∧ t.manage.clim = 1000 ∧ t.manage.pending = true)))) ∧
    (exec (.gtcSync 0) s = .next s ∧ ∀ die, die ≠ 0 → ∃ t n, exec (.gtcSync die) s = .next t ∧ n ≤ 4 ∧
      t = { s with time := t.time, gtcOff := t.gtcOff, free := t.free } ∧ Tab.getD t.gtcOff die 0 = n ∧
      t.gtc die = min (s.time + max n (Tab.getD s.gtcOff die 0)) (2 ^ 64 - 1) ∧
      ∀ d, d ≠ die → Tab.getD t.gtcOff d 0 = Tab.getD s.gtcOff d 0 ∧ s.gtc d ≤ t.gtc d) ∧
    (∀ addr (v : BitVec 64),
      exec (.hostAccess false 0 addr v) s = .next s ∧
      (s.reaches 0 (2 ^ 48 + addr / 8 * 8 % 2 ^ 30) = true →
        exec (.hostAccess true 0 addr v) s = exec (.registerWrite (addr / 2 ^ 28 % 4) (addr % 2 ^ 28) v) s) ∧
      (s.reaches 0 (2 ^ 48 + addr / 8 * 8 % 2 ^ 30) = false → exec (.hostAccess true 0 addr v) s = .next s) ∧
      exec (.hostAccess false 4 addr v) s = .next s ∧
      (addr < 64 → exec (.hostAccess true 4 addr v) s = .next { s with
        msixMask := Tab.set s.msixMask addr ((List.range 64).filter fun k => v.getLsbD k) }) ∧
      (64 ≤ addr → exec (.hostAccess true 4 addr v) s = .next { s with bar2 := v.toNat % 2 ^ 40 }) ∧
      (let pa := (s.bar2 + addr / 8 * 8 % 2 ^ 36) % 2 ^ 40
       (homeDie pa = 0 → Tab.get? s.faults (pa / 64) ≠ some .corrected → exec (.hostAccess false 2 addr v) s = .next s) ∧
       (s.reaches 0 pa = false → exec (.hostAccess false 2 addr v) s = .next s ∧
         exec (.hostAccess true 2 addr v) s = .next (s.endWait (.outer 0 pa v.toNat))) ∧
       (s.reaches 0 pa = true → s.sectorStatus pa = 0 → Tab.get? s.faults (pa / 64) ≠ some .corrected → s.backLine (pa / 512) = none →
         exec (.hostAccess true 2 addr v) s = .next (s.noteWait (.outer 0 pa v.toNat) (homeDie pa))) ∧
       (Unlogged s → ∃ t, exec (.hostAccess false 2 addr v) s = .next t ∧ t.mem = s.mem ∧ t.outside = s.outside) ∧
       (Unlogged s → pa + 8 ≤ 2 ^ 40 → s.reaches 0 pa = true → s.sectorStatus pa = 0 → Backs s pa →
         ∃ t, exec (.hostAccess true 2 addr v) s = .next t ∧ EightStored s t pa v.toNat))) ∧
    (∀ addr (v : BitVec 64),
      let pa := addr % 2 ^ 52 / 8 * 8
      (pa < 2 ^ 40 → Tab.get? s.faults (pa / 64) ≠ some .corrected → exec (.remotePackageRequest false addr v) s = .next s) ∧
      (Unlogged s → pa < 2 ^ 40 → s.sectorStatus pa = 0 → Backs s pa →
        ∃ t, exec (.remotePackageRequest true addr v) s = .next t ∧ EightStored s t pa v.toNat) ∧
      (pa < 2 ^ 40 → s.sectorStatus pa = 0 → Tab.get? s.faults (pa / 64) ≠ some .corrected → s.backLine (pa / 512) = none →
        exec (.remotePackageRequest true addr v) s = .next (s.noteWait (.outer (homeDie pa) pa v.toNat) (homeDie pa))) ∧
      (2 ^ 40 ≤ pa → pa < 8 * 2 ^ 48 → exec (.remotePackageRequest true addr v) s = .next s) ∧
      (8 * 2 ^ 48 ≤ pa →
        (s.remoteOk pa = false → exec (.remotePackageRequest false addr v) s = .next s ∧
          exec (.remotePackageRequest true addr v) s = .next (s.endWait (.outer (s.homeOf pa) pa v.toNat))) ∧
        (s.remoteOk pa = true → exec (.remotePackageRequest false addr v) s = .next (s.noteRoute pa) ∧
          (Unlogged s → ∃ t, exec (.remotePackageRequest true addr v) s = .next t ∧ t.mem = s.mem ∧
            let place := 2 ^ 52 * (1 + s.windowOf pa % 2 ^ 13) + 2 ^ 51 + pa % 2 ^ 40
            ∀ q, 2 ^ 48 ≤ q → (paRegion q ≠ 0) → t.paByte q =
              if place ≤ q ∧ q < place + 8 then BitVec.ofNat 8 (v.toNat / 2 ^ (8 * (q - place))) else s.paByte q)))) ∧
    (∀ v : BitVec 11,
      exec (.limitRegisterWrite true v) s = .next { s with manage := { s.manage with clim := v.toNat, pending := true } } ∧
      exec (.limitRegisterWrite false v) s = .next { s with manage := { s.manage with plim := v.toNat, pending := true } }) ∧
    exec .firmwareKick s = .next { s with manage := { s.manage with kicked := s.gtc 0 } } ∧
    (s.manage.pending = false → exec .limitInForce s = .next s) ∧
    (s.gtc 0 < s.manage.kicked + 1000000000 → exec .watchdogExpiry s = .next s) ∧
    (∀ sector, sector < 2 ^ 34 → Tab.get? s.faults sector = none ∨ Tab.get? s.faults sector = some .mismatch →
      exec (.patrolScrub sector) s = .next s) ∧
    (∀ die, 2 ^ 30 ≤ Tab.getD s.manage.leaves die 0 → exec (.spdmRequest die) s = .next s) ∧
    (∀ die tj clim, tj ≤ 100 ∨ 256 ≤ tj ∨ s.manage.clim ≤ clim → exec (.thermalClockReduction die tj clim) s = .next s) ∧
    (Unlogged s →
      (s.manage.pending = true →
        let clamp := fun (lo hi v : Nat) => max lo (min hi v)
        let c := clamp 200 1700 s.manage.clim
        exec .limitInForce s = .next { s with manage := { s.manage with
          plimNow := clamp 300 1800 s.manage.plim, plimOld := (s.manage.powerLimit (s.gtc 0), s.gtc 0 + 1000000)
          climNow := c, cclk := c, pending := false } }) ∧
      (s.manage.kicked + 1000000000 ≤ s.gtc 0 → ∃ t, exec .watchdogExpiry s = .next t ∧ t = { s with free := t.free, manage :=
        { s.manage with safe := true, plim := 900, clim := 1000, pending := true, kicked := s.gtc 0 } }) ∧
      (∀ sector, sector < 2 ^ 34 →
        (Tab.get? s.faults sector = some .corrected → ∃ t, exec (.patrolScrub sector) s = .next t ∧
          t = { s with faults := t.faults, free := t.free } ∧ Tab.get? t.faults sector = none ∧
          ∀ x, x ≠ sector → Tab.get? t.faults x = Tab.get? s.faults x) ∧
        (Tab.get? s.faults sector = some .uncorrectable → ∃ t, exec (.patrolScrub sector) s = .next t ∧ t = { s with free := t.free })) ∧
      (∀ die, Tab.getD s.manage.leaves die 0 < 2 ^ 30 → exec (.spdmRequest die) s = .next { s with manage :=
        { s.manage with leaves := Tab.set s.manage.leaves die (Tab.getD s.manage.leaves die 0 + 1) } }) ∧
      ∀ die tj clim, 100 < tj → tj < 256 → clim < s.manage.clim → clim < 2 ^ 11 →
        exec (.thermalClockReduction die tj clim) s = .next { s with manage :=
          { s.manage with clim := clim, pending := true, tj := s.manage.tj.set die tj } })

/-! ### Words, steps, reset and memory (03 R57-R75, 00 R3, 21 R476) -/

namespace Sys2Proof.Slice0

def plainWord : Guard := { ge := false, gi := false, gp := 0 }

/-- The operand fields of a word that uses no pattern. -/
def plainFields (d a b c : BitVec 8) (x : BitVec 32) : Fields := { d := d, a := a, ap := 0, b := b, bp := 0, c := c, cp := 0, x := x }

/-- What a step does with what its issue came to: the issue ends and time passes, unless a stream batch stops or stalls as
a whole, of which then a part issues. -/
def StepRuns (s s0 : State) (i : Issue) (r : Res) : Prop :=
  (∀ t, r = .next t →
    (t.splits = false → step s = .next t.settle) ∧ (t.splits = true → ∀ u, runBatch i s0 = .next u → step s = .next u.settle)) ∧
  (∀ f, r = .fault f → step s = .fault f) ∧ ∀ f, r = .refused f → step s = .refused f

/-- What is tested once the members of an issue are decoded: a first issue's slot is a target, unless the word traps, and
the team owns the engine that a member needs. -/
def MayRun (s : State) (v : Nat) (is : List Instr) : Prop :=
  (s.badEntry v = false ∨ is.any Sys2Proof.Machine.Instr.unusable = true) ∧ ∀ m ∈ s.members is, s.owns m.instr = true

end Sys2Proof.Slice0

/-- R65-R73: every well-formed instruction of the word formats has a word, and that word decodes to it, whatever its operands. -/
def Obligations.EncodedInstructionDecodesBack : Prop :=
  ∀ i : Instr, i.wf = true → (i.parts.isSome = true ∨ ∃ w, i = .illegalInstruction w) →
    ∃ w, encode i = some w ∧ decode w = .ok i

/-- Words the spec writes out (R73 to R75's example, R120, R205, R265, R304, R321, R347, R373, R395, R439) decode to the
instructions they stand for; a word with bit 63 set or of format 9 does not, unless its OP is 0xFF. -/
def Obligations.WrittenOutWordsDecode : Prop :=
  decode 0x00000009001901000820D033 = .ok (.ffma .vr { ge := true, gi := false, gp := 3 }
    { d := 4, a := 1, ap := 0, b := 2, bp := 2, c := 3, cp := 0, x := 9 }) ∧
  decode 0x00000064001800000A285107 = .ok (.icmp .vi { ge := true, gi := false, gp := 1 } (plainFields 0x45 1 0 3 100)) ∧
  decode 0x000000040000028020200210 = .ok (.iadd .sr plainWord (plainFields 4 4 5 0 4)) ∧
  decode 0x0000000200000000000003E0 = .ok (.xacq .si plainWord (plainFields 0 0 0 0 2)) ∧
  decode 0x022000100000000020180400 = .ok (.lds plainWord (plainFields 3 4 0 0 0x02200010)) ∧
  decode 0x000000090000000020500500 = .ok (.cpg plainWord (plainFields 10 4 0 0 9)) ∧
  decode 0x000001030000000030A00532 = .ok (.tsend plainWord (plainFields 20 6 0 0 0x103)) ∧
  decode 0x00000000000000000000D600 = .ok (.bra { ge := true, gi := false, gp := 3 } (plainFields 0 0 0 0 0)) ∧
  decode 0x8000009800A0020030100702 = .ok (.mma plainWord (plainFields 2 6 4 20 0x80000098)) ∧
  decode 0x000000020000000028000801 = .ok (.srwr plainWord (plainFields 0 5 0 0 2)) ∧
  decode 0x000000040000028020000819 = .ok (.trdy plainWord (plainFields 0 4 5 0 4)) ∧
  decode 0x000000048000028020200210 = .error .reserved ∧ decode 0x000000040000028020200910 = .error .unassigned ∧
  decode 0x0000000400000280202009FF = .ok (.illegalInstruction 0x0000000400000280202009FF)

/-- R57-R63, R75: a step whose turn is an issue tests a breakpoint and the PC, then reads the line at the PC; when its
parity holds and it is not malformed, the word there is decoded; and when the checks before issue pass, the step is exec of
that instruction, or of a pair's two, after which the issue ends and time passes. A step whose turn is another unit's is
exec of that unit's step; a turn the machine does not allow only lets time pass. The model's choices here: what a turn names and
when it lets time pass (log entry 2), how a pair stops or stalls as a whole and what it keeps (entry 17), which of two members'
causes of one rank is recorded (entry 42), upsets and frames made flat as turns of their own (entries 25 and 21). -/
def Obligations.StepRunsDecodedInstruction : Prop :=
  (∀ s k slot rest i, s.agenda = .issue k slot :: rest → s.asleep = false → k < 512 → slot < 2 →
    let s0 := { s with agenda := rest }
    s0.pick k slot = some i →
    let s1 := { s0 with cur := some i }
    let runs := StepRuns s s0 i
    let at_ := i.pc.toNat % 64 / 12
    (s1.breaks = true → runs (.next ((s1.modIss fun j => { j with pair := s1.pairAt i.core s1.curCtx i.pc }).raise 0x51))) ∧
    (s1.breaks = false → validPc i.pc = false → runs (.next (s1.raise 0x12))) ∧
    (s1.breaks = false → validPc i.pc = true → s1.fetchHeld i.core s1.curCtx (lineOf i.pc) = true → runs (.next s1.stall)) ∧
    (s1.breaks = false → validPc i.pc = true → s1.fetchHeld i.core s1.curCtx (lineOf i.pc) = false →
      (∀ s2 c, s1.fetchLine i.core s1.curCtx (lineOf i.pc) = (s2, .error c) →
        runs (.next (s2.raise c 0 (if 0x20 ≤ c ∧ c < 0x30 then (lineOf i.pc).toNat else 0)))) ∧
      ∀ s2 v, s1.fetchLine i.core s1.curCtx (lineOf i.pc) = (s2, .ok v) →
        (pairBit v at_ = false → parityOk v = true →
          (malformed v = true → runs (.next (s2.raise 0x15))) ∧
          (malformed v = false →
            (∀ e w, decode w = .error e → w = BitVec.ofNat 96 (v / 2 ^ (96 * at_)) →
              runs (exec (.emulationTrap (e.reason) w) s2)) ∧
            ∀ ins, decode (BitVec.ofNat 96 (v / 2 ^ (96 * at_))) = .ok ins → s2.trapReason ins = none →
              (∀ s3, s2.gate [ins] = (s3, false) → runs (.next s3)) ∧
              ∀ s3, s2.gate [ins] = (s3, true) → MayRun s3 v [ins] → runs (exec ins s3))) ∧
        (pairBit v at_ = true → parityOk v = true → malformed v = false →
          let two := s2.modIss fun i => { i with pair := true, next := seqPc (seqPc i.pc) }
          ∀ lo hi, decode (BitVec.ofNat 96 (v / 2 ^ (96 * at_))) = .ok lo → decode (BitVec.ofNat 96 (v / 2 ^ (96 * (at_ + 1)))) = .ok hi →
            two.trapReason lo = none → two.trapReason hi = none →
            let ill := Sys2Proof.Machine.Instr.unusable lo || Sys2Proof.Machine.Instr.unusable hi ||
              !pairClassesOk (slotWord v at_) (slotWord v (at_ + 1))
            (ill = true → runs (.next (two.raise 0x15))) ∧
            (ill = false →
              (∀ s3, two.gate [lo, hi] = (s3, false) → runs (.next s3)) ∧
              ∀ s3, two.gate [lo, hi] = (s3, true) → MayRun s3 v [lo, hi] →
                let s4 := s3.modIss fun i => { i with view := some { groups := s3.groups, teams := s3.teams, scratch := s3.scratch } }
                ∀ t1, exec lo s4 = .next t1 → ∀ t2, exec hi (if t1.iss.out = .raised then s4 else t1).second = .next t2 →
                  let ends := fun (o : IssueOut) => o ≠ .raised ∧ o ≠ .stalled
                  (ends t1.iss.out → ends t2.iss.out → runs (.next t2)) ∧
                  (t1.iss.out = .raised → t2.iss.out ≠ .raised → runs (.next (s4.retake t1.iss.stop))) ∧
                  (t1.iss.out = .raised → t2.iss.out = .raised →
                    runs (.next (s4.retake (if t1.lateStop && !t2.lateStop then t2.iss.stop else t1.iss.stop)))) ∧
                  (ends t1.iss.out → t2.iss.out = .raised → runs (.next (s4.retake t2.iss.stop))) ∧
                  (t1.iss.out = .stalled → runs (.next s4.stall)) ∧
                  (ends t1.iss.out → t2.iss.out = .stalled → runs (.next (s4.keepWaitc t2).stall)))))) ∧
  (∀ s ins rest, s.agenda = .event ins :: rest → s.asleep = false → Sys2Proof.Machine.Instr.isEvent ins = true → ins.unitOk = true →
    let s0 := { s with agenda := rest }
    (∀ t, exec ins s0 = .next t → step s = .next t.wakeStalled.attend.tick) ∧ (∀ f, exec ins s0 = .fault f → step s = .fault f) ∧
    ∀ f, exec ins s0 = .refused f → step s = .refused f) ∧
  (∀ s turn rest, s.agenda = turn :: rest →
    let s0 := { s with agenda := rest }
    (s0.allows turn = false → step s = .next s0.attend.tick) ∧
    (s0.allows turn = true →
      (∀ u, turn = .upset u → step s = .next (s0.upset u).attend.tick) ∧
      (∀ frame, turn = .placeFlat frame → step s = .next (s0.makeFlat frame).attend.tick) ∧
      (∀ die addr v, turn = .firmwareWrite die addr v → step s = .next (s0.firmwareWrite die addr v.toNat).attend.tick) ∧
      ∀ id sector, turn = .arrive id sector → step s = .next (s0.arrive id sector).attend.tick)) ∧
  ∀ (s : State) k ctx (line : BitVec 57) (s1 : State) (x : Xlate), s.access k ctx line.toNat .fetch = (s1, Except.ok x) →
    let pa := x.pa / 64 * 64
    paRegion pa = 0 → Tab.get? (s1.core k).fetched (ctx * 2 ^ 57 + line.toNat) = none →
    Tab.getD s1.caches (s1.cacheKey k pa) [] = [] → s1.reaches (coreDie k) pa = true → s1.sectorStatus pa = 0 →
    Tab.get? s1.faults (paLa pa / 64) ≠ some .corrected → (s.fetchLine k ctx line).2 = .ok (s1.paLoad pa 64)

/-- R3, R476, R416 and the Reset columns of Tables 14.1, 15.1, 15.6, 15.12, 18.3, 18.4, 19.1, 19.3, 21.2, 21.3, 21.5 and 21.6:
after reset every register reads its reset value, nothing is resident or backed, local memory reads zero and has its
canonical form. That the package is awake after reset is the model's choice (log entry 6). -/
def Obligations.ResetLeavesStatedValues : Prop :=
  (∀ d w, d < 4 →
    let r := fun (off : Nat) => State.reset.regWord d off
    (∀ q, q < 1024 → w < 4 → r (32 * q + 8 * w) = 0) ∧ (∀ g, g < 64 → w < 4 → r (0x10000 + 32 * g + 8 * w) = 0) ∧
    (w < 3 → r (0x11000 + 8 * w) = 0) ∧ (w < 16 → r (0x12000 + 8 * w) = 0) ∧ r 0x13000 / 2 ^ 32 = 0 ∧ r 0x13008 = 0 ∧ r 0x14000 = 16384 ∧
    (w < 8 → r (0x15000 + 16 * w) = 8 * 2 ^ 8 + 1000000 * 2 ^ 32 ∧ r (0x15008 + 16 * w) = 0) ∧
    (w < 3 → r (0x16000 + 8 * w) = 0) ∧ (w < 16384 → r (0x20000 + 8 * w) = 0)) ∧
  State.reset.regWord 0 0x17000 = 1800 + 1700 * 2 ^ 16 + 1700 * 2 ^ 32 ∧ State.reset.regWord 0 0x17008 = 0 ∧
  (∀ w, w < 8 → State.reset.regWord 0 (0x18000 + 8 * w) = 0) ∧ (∀ w, w < 4 → State.reset.regWord 0 (0x19000 + 8 * w) = 0) ∧
  State.reset.regWord 0 0x1A000 / 2 ^ 32 = 0 ∧ State.reset.regWord 0 0x1A008 = 0 ∧ State.reset.regWord 0 0x1A010 = 0 ∧
  State.reset.groups = [] ∧ State.reset.teams = [] ∧ State.reset.lines = [] ∧ State.reset.asleep = false ∧
  (∀ pa, pa < 2 ^ 40 → State.reset.paByte pa = 0) ∧ Memory.wf State.reset = true

/-- The model's memories keep their canonical form (log entry 7): of local memory and every scratchpad, equal contents are equal
data after every step of the machine. -/
def Obligations.EveryStepKeepsMemoryCanonical : Prop := ∀ s t, Memory.wf s = true → step s = .next t → Memory.wf t = true
end

