-- ==== Sys2Proof/Laws/Tables.lean ====
section
/-! SUPPORT. Lookup in tables after each table operation, and folds that keep a property. -/

namespace Sys2Proof

@[simp] theorem Tab.get?_nil {α : Type} (k : Nat) : Tab.get? ([] : Tab α) k = none := rfl

theorem Tab.get?_cons {α : Type} (j : Nat) (v : α) (r : Tab α) (k : Nat) :
    Tab.get? ((j, v) :: r) k = if j == k then some v else Tab.get? r k := rfl

/-- A key just set reads back. -/
@[simp] theorem Tab.get?_set_self {α : Type} (t : Tab α) (k : Nat) (v : α) : Tab.get? (Tab.set t k v) k = some v := by
  induction t with
  | nil => simp [Tab.set, Tab.get?]
  | cons p r ih =>
    obtain ⟨j, w⟩ := p
    unfold Tab.set
    split
    · simp [Tab.get?]
    · split
      · simp [Tab.get?]
      · simp_all [Tab.get?]

/-- Every other key reads as before. -/
theorem Tab.get?_set_ne {α : Type} (t : Tab α) {k j : Nat} (v : α) (h : j ≠ k) :
    Tab.get? (Tab.set t k v) j = Tab.get? t j := by
  induction t with
  | nil => simp [Tab.set, Tab.get?, Ne.symm h]
  | cons p r ih =>
    obtain ⟨i, w⟩ := p
    unfold Tab.set
    split
    · rename_i e
      have e : i = k := by simpa using e
      subst e
      simp [Tab.get?, Ne.symm h]
    · split
      · simp [Tab.get?, Ne.symm h]
      · simp [Tab.get?, ih]

theorem Tab.get?_set {α : Type} (t : Tab α) (k j : Nat) (v : α) :
    Tab.get? (Tab.set t k v) j = if j = k then some v else Tab.get? t j := by
  by_cases h : j = k
  · subst h; simp
  · simp [Tab.get?_set_ne t v h, h]

theorem Tab.get?_modify {α : Type} (t : Tab α) (k j : Nat) (f : α → α) :
    Tab.get? (Tab.modify t k f) j = if j = k then (Tab.get? t j).map f else Tab.get? t j := by
  induction t with
  | nil => simp [Tab.modify, Tab.get?]
  | cons p r ih =>
    obtain ⟨i, w⟩ := p
    have hc : Tab.modify ((i, w) :: r) k f = (if i == k then (i, f w) else (i, w)) :: Tab.modify r k f := rfl
    rw [hc, Tab.get?_cons]
    by_cases hik : i = k
    · subst hik
      by_cases hj : i = j
      · subst hj; simp [Tab.get?]
      · have hb : ¬ j = i := fun e => hj e.symm
        simp [Tab.get?_cons, hj, hb, ih]
    · by_cases hj : i = j
      · subst hj; simp [hik, Tab.get?_cons]
      · simp [hik, Tab.get?_cons, hj, ih]

theorem Tab.get?_erase {α : Type} (t : Tab α) (k j : Nat) :
    Tab.get? (Tab.erase t k) j = if j = k then none else Tab.get? t j := by
  induction t with
  | nil => simp [Tab.erase, Tab.get?]
  | cons p r ih =>
    obtain ⟨i, w⟩ := p
    unfold Tab.erase at *
    simp only [List.filter_cons]
    by_cases hik : i = k
    · subst hik
      by_cases hj : j = i
      · subst hj; simpa using ih
      · simp [ih, hj, Tab.get?_cons, Ne.symm hj]
    · have : (i != k) = true := by simpa using hik
      simp only [this, if_true, Tab.get?_cons, beq_iff_eq]
      by_cases hj : i = j
      · subst hj; simp [hik]
      · simp [hj, ih]

@[simp] theorem Tab.keys_modify {α : Type} (t : Tab α) (k : Nat) (f : α → α) :
    (Tab.modify t k f).map Prod.fst = t.map Prod.fst := by
  unfold Tab.modify
  rw [List.map_map]
  apply List.map_congr_left
  intro p _
  simp only [Function.comp]
  split <;> rfl

theorem Tab.getD_set {α : Type} (t : Tab α) (k j : Nat) (v d : α) :
    Tab.getD (Tab.set t k v) j d = if j = k then v else Tab.getD t j d := by
  unfold Tab.getD
  rw [Tab.get?_set]
  split <;> rfl

theorem Tab.getD_modify {α : Type} (t : Tab α) (k j : Nat) (f : α → α) (d : α) :
    Tab.getD (Tab.modify t k f) j d =
      if j = k ∧ (Tab.get? t k).isSome then f (Tab.getD t k d) else Tab.getD t j d := by
  unfold Tab.getD
  rw [Tab.get?_modify]
  by_cases h : j = k
  · subst h
    cases Tab.get? t j <;> simp
  · simp [h]

/-- A fold keeps what each of its steps keeps. -/
theorem foldl_keeps {α β : Type} (P : β → Prop) (f : β → α → β) (xs : List α) (b : β)
    (h : ∀ b x, x ∈ xs → P b → P (f b x)) (hb : P b) : P (List.foldl f b xs) := by
  induction xs generalizing b with
  | nil => exact hb
  | cons x r ih =>
    exact ih (f b x) (fun b y hy => h b y (List.mem_cons_of_mem x hy)) (h b x List.mem_cons_self hb)

end Sys2Proof
end

