-- ==== Sys2Proof/Laws/State.lean ====
section
/-! SUPPORT. What each named update of the state leaves as it was, field by field, and what it makes of the table it
changes. -/

namespace Sys2Proof.Machine

/-! ### setGroup -/

@[simp] theorem State.setGroup_cycle (s : State) (g : Nat) (v : Group) : (s.setGroup g v).cycle = s.cycle := rfl
@[simp] theorem State.setGroup_teams (s : State) (g : Nat) (v : Group) : (s.setGroup g v).teams = s.teams := rfl
@[simp] theorem State.setGroup_cores (s : State) (g : Nat) (v : Group) : (s.setGroup g v).cores = s.cores := rfl
@[simp] theorem State.setGroup_scratch (s : State) (g : Nat) (v : Group) : (s.setGroup g v).scratch = s.scratch := rfl
@[simp] theorem State.setGroup_time (s : State) (g : Nat) (v : Group) : (s.setGroup g v).time = s.time := rfl
@[simp] theorem State.setGroup_gtcOff (s : State) (g : Nat) (v : Group) : (s.setGroup g v).gtcOff = s.gtcOff := rfl
@[simp] theorem State.setGroup_mem (s : State) (g : Nat) (v : Group) : (s.setGroup g v).mem = s.mem := rfl
@[simp] theorem State.setGroup_outside (s : State) (g : Nat) (v : Group) : (s.setGroup g v).outside = s.outside := rfl
@[simp] theorem State.setGroup_desc (s : State) (g : Nat) (v : Group) : (s.setGroup g v).desc = s.desc := rfl
@[simp] theorem State.setGroup_faults (s : State) (g : Nat) (v : Group) : (s.setGroup g v).faults = s.faults := rfl
@[simp] theorem State.setGroup_lines (s : State) (g : Nat) (v : Group) : (s.setGroup g v).lines = s.lines := rfl
@[simp] theorem State.setGroup_flat (s : State) (g : Nat) (v : Group) : (s.setGroup g v).flat = s.flat := rfl
@[simp] theorem State.setGroup_sectorWaits (s : State) (g : Nat) (v : Group) : (s.setGroup g v).sectorWaits = s.sectorWaits := rfl
@[simp] theorem State.setGroup_leases (s : State) (g : Nat) (v : Group) : (s.setGroup g v).leases = s.leases := rfl
@[simp] theorem State.setGroup_caches (s : State) (g : Nat) (v : Group) : (s.setGroup g v).caches = s.caches := rfl
@[simp] theorem State.setGroup_tlbs (s : State) (g : Nat) (v : Group) : (s.setGroup g v).tlbs = s.tlbs := rfl
@[simp] theorem State.setGroup_ptrs (s : State) (g : Nat) (v : Group) : (s.setGroup g v).ptrs = s.ptrs := rfl
@[simp] theorem State.setGroup_modules (s : State) (g : Nat) (v : Group) : (s.setGroup g v).modules = s.modules := rfl
@[simp] theorem State.setGroup_dies (s : State) (g : Nat) (v : Group) : (s.setGroup g v).dies = s.dies := rfl
@[simp] theorem State.setGroup_ctxBase (s : State) (g : Nat) (v : Group) : (s.setGroup g v).ctxBase = s.ctxBase := rfl
@[simp] theorem State.setGroup_rwBase (s : State) (g : Nat) (v : Group) : (s.setGroup g v).rwBase = s.rwBase := rfl
@[simp] theorem State.setGroup_rtBase (s : State) (g : Nat) (v : Group) : (s.setGroup g v).rtBase = s.rtBase := rfl
@[simp] theorem State.setGroup_pkg (s : State) (g : Nat) (v : Group) : (s.setGroup g v).pkg = s.pkg := rfl
@[simp] theorem State.setGroup_msixMask (s : State) (g : Nat) (v : Group) : (s.setGroup g v).msixMask = s.msixMask := rfl
@[simp] theorem State.setGroup_msixSent (s : State) (g : Nat) (v : Group) : (s.setGroup g v).msixSent = s.msixSent := rfl
@[simp] theorem State.setGroup_launches (s : State) (g : Nat) (v : Group) : (s.setGroup g v).launches = s.launches := rfl
@[simp] theorem State.setGroup_dones (s : State) (g : Nat) (v : Group) : (s.setGroup g v).dones = s.dones := rfl
@[simp] theorem State.setGroup_ops (s : State) (g : Nat) (v : Group) : (s.setGroup g v).ops = s.ops := rfl
@[simp] theorem State.setGroup_clusters (s : State) (g : Nat) (v : Group) : (s.setGroup g v).clusters = s.clusters := rfl
@[simp] theorem State.setGroup_nmRows (s : State) (g : Nat) (v : Group) : (s.setGroup g v).nmRows = s.nmRows := rfl
@[simp] theorem State.setGroup_nmNotes (s : State) (g : Nat) (v : Group) : (s.setGroup g v).nmNotes = s.nmNotes := rfl
@[simp] theorem State.setGroup_nmDone (s : State) (g : Nat) (v : Group) : (s.setGroup g v).nmDone = s.nmDone := rfl
@[simp] theorem State.setGroup_arSlots (s : State) (g : Nat) (v : Group) : (s.setGroup g v).arSlots = s.arSlots := rfl
@[simp] theorem State.setGroup_control (s : State) (g : Nat) (v : Group) : (s.setGroup g v).control = s.control := rfl
@[simp] theorem State.setGroup_manage (s : State) (g : Nat) (v : Group) : (s.setGroup g v).manage = s.manage := rfl
@[simp] theorem State.setGroup_walks (s : State) (g : Nat) (v : Group) : (s.setGroup g v).walks = s.walks := rfl
@[simp] theorem State.setGroup_saved (s : State) (g : Nat) (v : Group) : (s.setGroup g v).saved = s.saved := rfl
@[simp] theorem State.setGroup_lastCtx (s : State) (g : Nat) (v : Group) : (s.setGroup g v).lastCtx = s.lastCtx := rfl
@[simp] theorem State.setGroup_asleep (s : State) (g : Nat) (v : Group) : (s.setGroup g v).asleep = s.asleep := rfl
@[simp] theorem State.setGroup_reqs (s : State) (g : Nat) (v : Group) : (s.setGroup g v).reqs = s.reqs := rfl
@[simp] theorem State.setGroup_tsns (s : State) (g : Nat) (v : Group) : (s.setGroup g v).tsns = s.tsns := rfl
@[simp] theorem State.setGroup_filters (s : State) (g : Nat) (v : Group) : (s.setGroup g v).filters = s.filters := rfl
@[simp] theorem State.setGroup_atHome (s : State) (g : Nat) (v : Group) : (s.setGroup g v).atHome = s.atHome := rfl
@[simp] theorem State.setGroup_replies (s : State) (g : Nat) (v : Group) : (s.setGroup g v).replies = s.replies := rfl
@[simp] theorem State.setGroup_laneMods (s : State) (g : Nat) (v : Group) : (s.setGroup g v).laneMods = s.laneMods := rfl
@[simp] theorem State.setGroup_bar2 (s : State) (g : Nat) (v : Group) : (s.setGroup g v).bar2 = s.bar2 := rfl
@[simp] theorem State.setGroup_seq (s : State) (g : Nat) (v : Group) : (s.setGroup g v).seq = s.seq := rfl
@[simp] theorem State.setGroup_cur (s : State) (g : Nat) (v : Group) : (s.setGroup g v).cur = s.cur := rfl
@[simp] theorem State.setGroup_agenda (s : State) (g : Nat) (v : Group) : (s.setGroup g v).agenda = s.agenda := rfl
@[simp] theorem State.setGroup_free (s : State) (g : Nat) (v : Group) : (s.setGroup g v).free = s.free := rfl

/-! ### modGroup -/

@[simp] theorem State.modGroup_cycle (s : State) (g : Nat) (f : Group → Group) : (s.modGroup g f).cycle = s.cycle := rfl
@[simp] theorem State.modGroup_teams (s : State) (g : Nat) (f : Group → Group) : (s.modGroup g f).teams = s.teams := rfl
@[simp] theorem State.modGroup_cores (s : State) (g : Nat) (f : Group → Group) : (s.modGroup g f).cores = s.cores := rfl
@[simp] theorem State.modGroup_scratch (s : State) (g : Nat) (f : Group → Group) : (s.modGroup g f).scratch = s.scratch := rfl
@[simp] theorem State.modGroup_time (s : State) (g : Nat) (f : Group → Group) : (s.modGroup g f).time = s.time := rfl
@[simp] theorem State.modGroup_gtcOff (s : State) (g : Nat) (f : Group → Group) : (s.modGroup g f).gtcOff = s.gtcOff := rfl
@[simp] theorem State.modGroup_mem (s : State) (g : Nat) (f : Group → Group) : (s.modGroup g f).mem = s.mem := rfl
@[simp] theorem State.modGroup_outside (s : State) (g : Nat) (f : Group → Group) : (s.modGroup g f).outside = s.outside := rfl
@[simp] theorem State.modGroup_desc (s : State) (g : Nat) (f : Group → Group) : (s.modGroup g f).desc = s.desc := rfl
@[simp] theorem State.modGroup_faults (s : State) (g : Nat) (f : Group → Group) : (s.modGroup g f).faults = s.faults := rfl
@[simp] theorem State.modGroup_lines (s : State) (g : Nat) (f : Group → Group) : (s.modGroup g f).lines = s.lines := rfl
@[simp] theorem State.modGroup_flat (s : State) (g : Nat) (f : Group → Group) : (s.modGroup g f).flat = s.flat := rfl
@[simp] theorem State.modGroup_sectorWaits (s : State) (g : Nat) (f : Group → Group) : (s.modGroup g f).sectorWaits = s.sectorWaits := rfl
@[simp] theorem State.modGroup_leases (s : State) (g : Nat) (f : Group → Group) : (s.modGroup g f).leases = s.leases := rfl
@[simp] theorem State.modGroup_caches (s : State) (g : Nat) (f : Group → Group) : (s.modGroup g f).caches = s.caches := rfl
@[simp] theorem State.modGroup_tlbs (s : State) (g : Nat) (f : Group → Group) : (s.modGroup g f).tlbs = s.tlbs := rfl
@[simp] theorem State.modGroup_ptrs (s : State) (g : Nat) (f : Group → Group) : (s.modGroup g f).ptrs = s.ptrs := rfl
@[simp] theorem State.modGroup_modules (s : State) (g : Nat) (f : Group → Group) : (s.modGroup g f).modules = s.modules := rfl
@[simp] theorem State.modGroup_dies (s : State) (g : Nat) (f : Group → Group) : (s.modGroup g f).dies = s.dies := rfl
@[simp] theorem State.modGroup_ctxBase (s : State) (g : Nat) (f : Group → Group) : (s.modGroup g f).ctxBase = s.ctxBase := rfl
@[simp] theorem State.modGroup_rwBase (s : State) (g : Nat) (f : Group → Group) : (s.modGroup g f).rwBase = s.rwBase := rfl
@[simp] theorem State.modGroup_rtBase (s : State) (g : Nat) (f : Group → Group) : (s.modGroup g f).rtBase = s.rtBase := rfl
@[simp] theorem State.modGroup_pkg (s : State) (g : Nat) (f : Group → Group) : (s.modGroup g f).pkg = s.pkg := rfl
@[simp] theorem State.modGroup_msixMask (s : State) (g : Nat) (f : Group → Group) : (s.modGroup g f).msixMask = s.msixMask := rfl
@[simp] theorem State.modGroup_msixSent (s : State) (g : Nat) (f : Group → Group) : (s.modGroup g f).msixSent = s.msixSent := rfl
@[simp] theorem State.modGroup_launches (s : State) (g : Nat) (f : Group → Group) : (s.modGroup g f).launches = s.launches := rfl
@[simp] theorem State.modGroup_dones (s : State) (g : Nat) (f : Group → Group) : (s.modGroup g f).dones = s.dones := rfl
@[simp] theorem State.modGroup_ops (s : State) (g : Nat) (f : Group → Group) : (s.modGroup g f).ops = s.ops := rfl
@[simp] theorem State.modGroup_clusters (s : State) (g : Nat) (f : Group → Group) : (s.modGroup g f).clusters = s.clusters := rfl
@[simp] theorem State.modGroup_nmRows (s : State) (g : Nat) (f : Group → Group) : (s.modGroup g f).nmRows = s.nmRows := rfl
@[simp] theorem State.modGroup_nmNotes (s : State) (g : Nat) (f : Group → Group) : (s.modGroup g f).nmNotes = s.nmNotes := rfl
@[simp] theorem State.modGroup_nmDone (s : State) (g : Nat) (f : Group → Group) : (s.modGroup g f).nmDone = s.nmDone := rfl
@[simp] theorem State.modGroup_arSlots (s : State) (g : Nat) (f : Group → Group) : (s.modGroup g f).arSlots = s.arSlots := rfl
@[simp] theorem State.modGroup_control (s : State) (g : Nat) (f : Group → Group) : (s.modGroup g f).control = s.control := rfl
@[simp] theorem State.modGroup_manage (s : State) (g : Nat) (f : Group → Group) : (s.modGroup g f).manage = s.manage := rfl
@[simp] theorem State.modGroup_walks (s : State) (g : Nat) (f : Group → Group) : (s.modGroup g f).walks = s.walks := rfl
@[simp] theorem State.modGroup_saved (s : State) (g : Nat) (f : Group → Group) : (s.modGroup g f).saved = s.saved := rfl
@[simp] theorem State.modGroup_lastCtx (s : State) (g : Nat) (f : Group → Group) : (s.modGroup g f).lastCtx = s.lastCtx := rfl
@[simp] theorem State.modGroup_asleep (s : State) (g : Nat) (f : Group → Group) : (s.modGroup g f).asleep = s.asleep := rfl
@[simp] theorem State.modGroup_reqs (s : State) (g : Nat) (f : Group → Group) : (s.modGroup g f).reqs = s.reqs := rfl
@[simp] theorem State.modGroup_tsns (s : State) (g : Nat) (f : Group → Group) : (s.modGroup g f).tsns = s.tsns := rfl
@[simp] theorem State.modGroup_filters (s : State) (g : Nat) (f : Group → Group) : (s.modGroup g f).filters = s.filters := rfl
@[simp] theorem State.modGroup_atHome (s : State) (g : Nat) (f : Group → Group) : (s.modGroup g f).atHome = s.atHome := rfl
@[simp] theorem State.modGroup_replies (s : State) (g : Nat) (f : Group → Group) : (s.modGroup g f).replies = s.replies := rfl
@[simp] theorem State.modGroup_laneMods (s : State) (g : Nat) (f : Group → Group) : (s.modGroup g f).laneMods = s.laneMods := rfl
@[simp] theorem State.modGroup_bar2 (s : State) (g : Nat) (f : Group → Group) : (s.modGroup g f).bar2 = s.bar2 := rfl
@[simp] theorem State.modGroup_seq (s : State) (g : Nat) (f : Group → Group) : (s.modGroup g f).seq = s.seq := rfl
@[simp] theorem State.modGroup_cur (s : State) (g : Nat) (f : Group → Group) : (s.modGroup g f).cur = s.cur := rfl
@[simp] theorem State.modGroup_agenda (s : State) (g : Nat) (f : Group → Group) : (s.modGroup g f).agenda = s.agenda := rfl
@[simp] theorem State.modGroup_free (s : State) (g : Nat) (f : Group → Group) : (s.modGroup g f).free = s.free := rfl

/-! ### modTeam -/

@[simp] theorem State.modTeam_cycle (s : State) (t : Nat) (f : Team → Team) : (s.modTeam t f).cycle = s.cycle := rfl
@[simp] theorem State.modTeam_groups (s : State) (t : Nat) (f : Team → Team) : (s.modTeam t f).groups = s.groups := rfl
@[simp] theorem State.modTeam_cores (s : State) (t : Nat) (f : Team → Team) : (s.modTeam t f).cores = s.cores := rfl
@[simp] theorem State.modTeam_scratch (s : State) (t : Nat) (f : Team → Team) : (s.modTeam t f).scratch = s.scratch := rfl
@[simp] theorem State.modTeam_time (s : State) (t : Nat) (f : Team → Team) : (s.modTeam t f).time = s.time := rfl
@[simp] theorem State.modTeam_gtcOff (s : State) (t : Nat) (f : Team → Team) : (s.modTeam t f).gtcOff = s.gtcOff := rfl
@[simp] theorem State.modTeam_mem (s : State) (t : Nat) (f : Team → Team) : (s.modTeam t f).mem = s.mem := rfl
@[simp] theorem State.modTeam_outside (s : State) (t : Nat) (f : Team → Team) : (s.modTeam t f).outside = s.outside := rfl
@[simp] theorem State.modTeam_desc (s : State) (t : Nat) (f : Team → Team) : (s.modTeam t f).desc = s.desc := rfl
@[simp] theorem State.modTeam_faults (s : State) (t : Nat) (f : Team → Team) : (s.modTeam t f).faults = s.faults := rfl
@[simp] theorem State.modTeam_lines (s : State) (t : Nat) (f : Team → Team) : (s.modTeam t f).lines = s.lines := rfl
@[simp] theorem State.modTeam_flat (s : State) (t : Nat) (f : Team → Team) : (s.modTeam t f).flat = s.flat := rfl
@[simp] theorem State.modTeam_sectorWaits (s : State) (t : Nat) (f : Team → Team) : (s.modTeam t f).sectorWaits = s.sectorWaits := rfl
@[simp] theorem State.modTeam_leases (s : State) (t : Nat) (f : Team → Team) : (s.modTeam t f).leases = s.leases := rfl
@[simp] theorem State.modTeam_caches (s : State) (t : Nat) (f : Team → Team) : (s.modTeam t f).caches = s.caches := rfl
@[simp] theorem State.modTeam_tlbs (s : State) (t : Nat) (f : Team → Team) : (s.modTeam t f).tlbs = s.tlbs := rfl
@[simp] theorem State.modTeam_ptrs (s : State) (t : Nat) (f : Team → Team) : (s.modTeam t f).ptrs = s.ptrs := rfl
@[simp] theorem State.modTeam_modules (s : State) (t : Nat) (f : Team → Team) : (s.modTeam t f).modules = s.modules := rfl
@[simp] theorem State.modTeam_dies (s : State) (t : Nat) (f : Team → Team) : (s.modTeam t f).dies = s.dies := rfl
@[simp] theorem State.modTeam_ctxBase (s : State) (t : Nat) (f : Team → Team) : (s.modTeam t f).ctxBase = s.ctxBase := rfl
@[simp] theorem State.modTeam_rwBase (s : State) (t : Nat) (f : Team → Team) : (s.modTeam t f).rwBase = s.rwBase := rfl
@[simp] theorem State.modTeam_rtBase (s : State) (t : Nat) (f : Team → Team) : (s.modTeam t f).rtBase = s.rtBase := rfl
@[simp] theorem State.modTeam_pkg (s : State) (t : Nat) (f : Team → Team) : (s.modTeam t f).pkg = s.pkg := rfl
@[simp] theorem State.modTeam_msixMask (s : State) (t : Nat) (f : Team → Team) : (s.modTeam t f).msixMask = s.msixMask := rfl
@[simp] theorem State.modTeam_msixSent (s : State) (t : Nat) (f : Team → Team) : (s.modTeam t f).msixSent = s.msixSent := rfl
@[simp] theorem State.modTeam_launches (s : State) (t : Nat) (f : Team → Team) : (s.modTeam t f).launches = s.launches := rfl
@[simp] theorem State.modTeam_dones (s : State) (t : Nat) (f : Team → Team) : (s.modTeam t f).dones = s.dones := rfl
@[simp] theorem State.modTeam_ops (s : State) (t : Nat) (f : Team → Team) : (s.modTeam t f).ops = s.ops := rfl
@[simp] theorem State.modTeam_clusters (s : State) (t : Nat) (f : Team → Team) : (s.modTeam t f).clusters = s.clusters := rfl
@[simp] theorem State.modTeam_nmRows (s : State) (t : Nat) (f : Team → Team) : (s.modTeam t f).nmRows = s.nmRows := rfl
@[simp] theorem State.modTeam_nmNotes (s : State) (t : Nat) (f : Team → Team) : (s.modTeam t f).nmNotes = s.nmNotes := rfl
@[simp] theorem State.modTeam_nmDone (s : State) (t : Nat) (f : Team → Team) : (s.modTeam t f).nmDone = s.nmDone := rfl
@[simp] theorem State.modTeam_arSlots (s : State) (t : Nat) (f : Team → Team) : (s.modTeam t f).arSlots = s.arSlots := rfl
@[simp] theorem State.modTeam_control (s : State) (t : Nat) (f : Team → Team) : (s.modTeam t f).control = s.control := rfl
@[simp] theorem State.modTeam_manage (s : State) (t : Nat) (f : Team → Team) : (s.modTeam t f).manage = s.manage := rfl
@[simp] theorem State.modTeam_walks (s : State) (t : Nat) (f : Team → Team) : (s.modTeam t f).walks = s.walks := rfl
@[simp] theorem State.modTeam_saved (s : State) (t : Nat) (f : Team → Team) : (s.modTeam t f).saved = s.saved := rfl
@[simp] theorem State.modTeam_lastCtx (s : State) (t : Nat) (f : Team → Team) : (s.modTeam t f).lastCtx = s.lastCtx := rfl
@[simp] theorem State.modTeam_asleep (s : State) (t : Nat) (f : Team → Team) : (s.modTeam t f).asleep = s.asleep := rfl
@[simp] theorem State.modTeam_reqs (s : State) (t : Nat) (f : Team → Team) : (s.modTeam t f).reqs = s.reqs := rfl
@[simp] theorem State.modTeam_tsns (s : State) (t : Nat) (f : Team → Team) : (s.modTeam t f).tsns = s.tsns := rfl
@[simp] theorem State.modTeam_filters (s : State) (t : Nat) (f : Team → Team) : (s.modTeam t f).filters = s.filters := rfl
@[simp] theorem State.modTeam_atHome (s : State) (t : Nat) (f : Team → Team) : (s.modTeam t f).atHome = s.atHome := rfl
@[simp] theorem State.modTeam_replies (s : State) (t : Nat) (f : Team → Team) : (s.modTeam t f).replies = s.replies := rfl
@[simp] theorem State.modTeam_laneMods (s : State) (t : Nat) (f : Team → Team) : (s.modTeam t f).laneMods = s.laneMods := rfl
@[simp] theorem State.modTeam_bar2 (s : State) (t : Nat) (f : Team → Team) : (s.modTeam t f).bar2 = s.bar2 := rfl
@[simp] theorem State.modTeam_seq (s : State) (t : Nat) (f : Team → Team) : (s.modTeam t f).seq = s.seq := rfl
@[simp] theorem State.modTeam_cur (s : State) (t : Nat) (f : Team → Team) : (s.modTeam t f).cur = s.cur := rfl
@[simp] theorem State.modTeam_agenda (s : State) (t : Nat) (f : Team → Team) : (s.modTeam t f).agenda = s.agenda := rfl
@[simp] theorem State.modTeam_free (s : State) (t : Nat) (f : Team → Team) : (s.modTeam t f).free = s.free := rfl

/-! ### modCore -/

@[simp] theorem State.modCore_cycle (s : State) (k : Nat) (f : Core → Core) : (s.modCore k f).cycle = s.cycle := rfl
@[simp] theorem State.modCore_groups (s : State) (k : Nat) (f : Core → Core) : (s.modCore k f).groups = s.groups := rfl
@[simp] theorem State.modCore_teams (s : State) (k : Nat) (f : Core → Core) : (s.modCore k f).teams = s.teams := rfl
@[simp] theorem State.modCore_scratch (s : State) (k : Nat) (f : Core → Core) : (s.modCore k f).scratch = s.scratch := rfl
@[simp] theorem State.modCore_time (s : State) (k : Nat) (f : Core → Core) : (s.modCore k f).time = s.time := rfl
@[simp] theorem State.modCore_gtcOff (s : State) (k : Nat) (f : Core → Core) : (s.modCore k f).gtcOff = s.gtcOff := rfl
@[simp] theorem State.modCore_mem (s : State) (k : Nat) (f : Core → Core) : (s.modCore k f).mem = s.mem := rfl
@[simp] theorem State.modCore_outside (s : State) (k : Nat) (f : Core → Core) : (s.modCore k f).outside = s.outside := rfl
@[simp] theorem State.modCore_desc (s : State) (k : Nat) (f : Core → Core) : (s.modCore k f).desc = s.desc := rfl
@[simp] theorem State.modCore_faults (s : State) (k : Nat) (f : Core → Core) : (s.modCore k f).faults = s.faults := rfl
@[simp] theorem State.modCore_lines (s : State) (k : Nat) (f : Core → Core) : (s.modCore k f).lines = s.lines := rfl
@[simp] theorem State.modCore_flat (s : State) (k : Nat) (f : Core → Core) : (s.modCore k f).flat = s.flat := rfl
@[simp] theorem State.modCore_sectorWaits (s : State) (k : Nat) (f : Core → Core) : (s.modCore k f).sectorWaits = s.sectorWaits := rfl
@[simp] theorem State.modCore_leases (s : State) (k : Nat) (f : Core → Core) : (s.modCore k f).leases = s.leases := rfl
@[simp] theorem State.modCore_caches (s : State) (k : Nat) (f : Core → Core) : (s.modCore k f).caches = s.caches := rfl
@[simp] theorem State.modCore_tlbs (s : State) (k : Nat) (f : Core → Core) : (s.modCore k f).tlbs = s.tlbs := rfl
@[simp] theorem State.modCore_ptrs (s : State) (k : Nat) (f : Core → Core) : (s.modCore k f).ptrs = s.ptrs := rfl
@[simp] theorem State.modCore_modules (s : State) (k : Nat) (f : Core → Core) : (s.modCore k f).modules = s.modules := rfl
@[simp] theorem State.modCore_dies (s : State) (k : Nat) (f : Core → Core) : (s.modCore k f).dies = s.dies := rfl
@[simp] theorem State.modCore_ctxBase (s : State) (k : Nat) (f : Core → Core) : (s.modCore k f).ctxBase = s.ctxBase := rfl
@[simp] theorem State.modCore_rwBase (s : State) (k : Nat) (f : Core → Core) : (s.modCore k f).rwBase = s.rwBase := rfl
@[simp] theorem State.modCore_rtBase (s : State) (k : Nat) (f : Core → Core) : (s.modCore k f).rtBase = s.rtBase := rfl
@[simp] theorem State.modCore_pkg (s : State) (k : Nat) (f : Core → Core) : (s.modCore k f).pkg = s.pkg := rfl
@[simp] theorem State.modCore_msixMask (s : State) (k : Nat) (f : Core → Core) : (s.modCore k f).msixMask = s.msixMask := rfl
@[simp] theorem State.modCore_msixSent (s : State) (k : Nat) (f : Core → Core) : (s.modCore k f).msixSent = s.msixSent := rfl
@[simp] theorem State.modCore_launches (s : State) (k : Nat) (f : Core → Core) : (s.modCore k f).launches = s.launches := rfl
@[simp] theorem State.modCore_dones (s : State) (k : Nat) (f : Core → Core) : (s.modCore k f).dones = s.dones := rfl
@[simp] theorem State.modCore_ops (s : State) (k : Nat) (f : Core → Core) : (s.modCore k f).ops = s.ops := rfl
@[simp] theorem State.modCore_clusters (s : State) (k : Nat) (f : Core → Core) : (s.modCore k f).clusters = s.clusters := rfl
@[simp] theorem State.modCore_nmRows (s : State) (k : Nat) (f : Core → Core) : (s.modCore k f).nmRows = s.nmRows := rfl
@[simp] theorem State.modCore_nmNotes (s : State) (k : Nat) (f : Core → Core) : (s.modCore k f).nmNotes = s.nmNotes := rfl
@[simp] theorem State.modCore_nmDone (s : State) (k : Nat) (f : Core → Core) : (s.modCore k f).nmDone = s.nmDone := rfl
@[simp] theorem State.modCore_arSlots (s : State) (k : Nat) (f : Core → Core) : (s.modCore k f).arSlots = s.arSlots := rfl
@[simp] theorem State.modCore_control (s : State) (k : Nat) (f : Core → Core) : (s.modCore k f).control = s.control := rfl
@[simp] theorem State.modCore_manage (s : State) (k : Nat) (f : Core → Core) : (s.modCore k f).manage = s.manage := rfl
@[simp] theorem State.modCore_walks (s : State) (k : Nat) (f : Core → Core) : (s.modCore k f).walks = s.walks := rfl
@[simp] theorem State.modCore_saved (s : State) (k : Nat) (f : Core → Core) : (s.modCore k f).saved = s.saved := rfl
@[simp] theorem State.modCore_lastCtx (s : State) (k : Nat) (f : Core → Core) : (s.modCore k f).lastCtx = s.lastCtx := rfl
@[simp] theorem State.modCore_asleep (s : State) (k : Nat) (f : Core → Core) : (s.modCore k f).asleep = s.asleep := rfl
@[simp] theorem State.modCore_reqs (s : State) (k : Nat) (f : Core → Core) : (s.modCore k f).reqs = s.reqs := rfl
@[simp] theorem State.modCore_tsns (s : State) (k : Nat) (f : Core → Core) : (s.modCore k f).tsns = s.tsns := rfl
@[simp] theorem State.modCore_filters (s : State) (k : Nat) (f : Core → Core) : (s.modCore k f).filters = s.filters := rfl
@[simp] theorem State.modCore_atHome (s : State) (k : Nat) (f : Core → Core) : (s.modCore k f).atHome = s.atHome := rfl
@[simp] theorem State.modCore_replies (s : State) (k : Nat) (f : Core → Core) : (s.modCore k f).replies = s.replies := rfl
@[simp] theorem State.modCore_laneMods (s : State) (k : Nat) (f : Core → Core) : (s.modCore k f).laneMods = s.laneMods := rfl
@[simp] theorem State.modCore_bar2 (s : State) (k : Nat) (f : Core → Core) : (s.modCore k f).bar2 = s.bar2 := rfl
@[simp] theorem State.modCore_seq (s : State) (k : Nat) (f : Core → Core) : (s.modCore k f).seq = s.seq := rfl
@[simp] theorem State.modCore_cur (s : State) (k : Nat) (f : Core → Core) : (s.modCore k f).cur = s.cur := rfl
@[simp] theorem State.modCore_agenda (s : State) (k : Nat) (f : Core → Core) : (s.modCore k f).agenda = s.agenda := rfl
@[simp] theorem State.modCore_free (s : State) (k : Nat) (f : Core → Core) : (s.modCore k f).free = s.free := rfl

/-! ### modDie -/

@[simp] theorem State.modDie_cycle (s : State) (d : Nat) (f : Die → Die) : (s.modDie d f).cycle = s.cycle := rfl
@[simp] theorem State.modDie_groups (s : State) (d : Nat) (f : Die → Die) : (s.modDie d f).groups = s.groups := rfl
@[simp] theorem State.modDie_teams (s : State) (d : Nat) (f : Die → Die) : (s.modDie d f).teams = s.teams := rfl
@[simp] theorem State.modDie_cores (s : State) (d : Nat) (f : Die → Die) : (s.modDie d f).cores = s.cores := rfl
@[simp] theorem State.modDie_scratch (s : State) (d : Nat) (f : Die → Die) : (s.modDie d f).scratch = s.scratch := rfl
@[simp] theorem State.modDie_time (s : State) (d : Nat) (f : Die → Die) : (s.modDie d f).time = s.time := rfl
@[simp] theorem State.modDie_gtcOff (s : State) (d : Nat) (f : Die → Die) : (s.modDie d f).gtcOff = s.gtcOff := rfl
@[simp] theorem State.modDie_mem (s : State) (d : Nat) (f : Die → Die) : (s.modDie d f).mem = s.mem := rfl
@[simp] theorem State.modDie_outside (s : State) (d : Nat) (f : Die → Die) : (s.modDie d f).outside = s.outside := rfl
@[simp] theorem State.modDie_desc (s : State) (d : Nat) (f : Die → Die) : (s.modDie d f).desc = s.desc := rfl
@[simp] theorem State.modDie_faults (s : State) (d : Nat) (f : Die → Die) : (s.modDie d f).faults = s.faults := rfl
@[simp] theorem State.modDie_lines (s : State) (d : Nat) (f : Die → Die) : (s.modDie d f).lines = s.lines := rfl
@[simp] theorem State.modDie_flat (s : State) (d : Nat) (f : Die → Die) : (s.modDie d f).flat = s.flat := rfl
@[simp] theorem State.modDie_sectorWaits (s : State) (d : Nat) (f : Die → Die) : (s.modDie d f).sectorWaits = s.sectorWaits := rfl
@[simp] theorem State.modDie_leases (s : State) (d : Nat) (f : Die → Die) : (s.modDie d f).leases = s.leases := rfl
@[simp] theorem State.modDie_caches (s : State) (d : Nat) (f : Die → Die) : (s.modDie d f).caches = s.caches := rfl
@[simp] theorem State.modDie_tlbs (s : State) (d : Nat) (f : Die → Die) : (s.modDie d f).tlbs = s.tlbs := rfl
@[simp] theorem State.modDie_ptrs (s : State) (d : Nat) (f : Die → Die) : (s.modDie d f).ptrs = s.ptrs := rfl
@[simp] theorem State.modDie_modules (s : State) (d : Nat) (f : Die → Die) : (s.modDie d f).modules = s.modules := rfl
@[simp] theorem State.modDie_ctxBase (s : State) (d : Nat) (f : Die → Die) : (s.modDie d f).ctxBase = s.ctxBase := rfl
@[simp] theorem State.modDie_rwBase (s : State) (d : Nat) (f : Die → Die) : (s.modDie d f).rwBase = s.rwBase := rfl
@[simp] theorem State.modDie_rtBase (s : State) (d : Nat) (f : Die → Die) : (s.modDie d f).rtBase = s.rtBase := rfl
@[simp] theorem State.modDie_pkg (s : State) (d : Nat) (f : Die → Die) : (s.modDie d f).pkg = s.pkg := rfl
@[simp] theorem State.modDie_msixMask (s : State) (d : Nat) (f : Die → Die) : (s.modDie d f).msixMask = s.msixMask := rfl
@[simp] theorem State.modDie_msixSent (s : State) (d : Nat) (f : Die → Die) : (s.modDie d f).msixSent = s.msixSent := rfl
@[simp] theorem State.modDie_launches (s : State) (d : Nat) (f : Die → Die) : (s.modDie d f).launches = s.launches := rfl
@[simp] theorem State.modDie_dones (s : State) (d : Nat) (f : Die → Die) : (s.modDie d f).dones = s.dones := rfl
@[simp] theorem State.modDie_ops (s : State) (d : Nat) (f : Die → Die) : (s.modDie d f).ops = s.ops := rfl
@[simp] theorem State.modDie_clusters (s : State) (d : Nat) (f : Die → Die) : (s.modDie d f).clusters = s.clusters := rfl
@[simp] theorem State.modDie_nmRows (s : State) (d : Nat) (f : Die → Die) : (s.modDie d f).nmRows = s.nmRows := rfl
@[simp] theorem State.modDie_nmNotes (s : State) (d : Nat) (f : Die → Die) : (s.modDie d f).nmNotes = s.nmNotes := rfl
@[simp] theorem State.modDie_nmDone (s : State) (d : Nat) (f : Die → Die) : (s.modDie d f).nmDone = s.nmDone := rfl
@[simp] theorem State.modDie_arSlots (s : State) (d : Nat) (f : Die → Die) : (s.modDie d f).arSlots = s.arSlots := rfl
@[simp] theorem State.modDie_control (s : State) (d : Nat) (f : Die → Die) : (s.modDie d f).control = s.control := rfl
@[simp] theorem State.modDie_manage (s : State) (d : Nat) (f : Die → Die) : (s.modDie d f).manage = s.manage := rfl
@[simp] theorem State.modDie_walks (s : State) (d : Nat) (f : Die → Die) : (s.modDie d f).walks = s.walks := rfl
@[simp] theorem State.modDie_saved (s : State) (d : Nat) (f : Die → Die) : (s.modDie d f).saved = s.saved := rfl
@[simp] theorem State.modDie_lastCtx (s : State) (d : Nat) (f : Die → Die) : (s.modDie d f).lastCtx = s.lastCtx := rfl
@[simp] theorem State.modDie_asleep (s : State) (d : Nat) (f : Die → Die) : (s.modDie d f).asleep = s.asleep := rfl
@[simp] theorem State.modDie_reqs (s : State) (d : Nat) (f : Die → Die) : (s.modDie d f).reqs = s.reqs := rfl
@[simp] theorem State.modDie_tsns (s : State) (d : Nat) (f : Die → Die) : (s.modDie d f).tsns = s.tsns := rfl
@[simp] theorem State.modDie_filters (s : State) (d : Nat) (f : Die → Die) : (s.modDie d f).filters = s.filters := rfl
@[simp] theorem State.modDie_atHome (s : State) (d : Nat) (f : Die → Die) : (s.modDie d f).atHome = s.atHome := rfl
@[simp] theorem State.modDie_replies (s : State) (d : Nat) (f : Die → Die) : (s.modDie d f).replies = s.replies := rfl
@[simp] theorem State.modDie_laneMods (s : State) (d : Nat) (f : Die → Die) : (s.modDie d f).laneMods = s.laneMods := rfl
@[simp] theorem State.modDie_bar2 (s : State) (d : Nat) (f : Die → Die) : (s.modDie d f).bar2 = s.bar2 := rfl
@[simp] theorem State.modDie_seq (s : State) (d : Nat) (f : Die → Die) : (s.modDie d f).seq = s.seq := rfl
@[simp] theorem State.modDie_cur (s : State) (d : Nat) (f : Die → Die) : (s.modDie d f).cur = s.cur := rfl
@[simp] theorem State.modDie_agenda (s : State) (d : Nat) (f : Die → Die) : (s.modDie d f).agenda = s.agenda := rfl
@[simp] theorem State.modDie_free (s : State) (d : Nat) (f : Die → Die) : (s.modDie d f).free = s.free := rfl

/-! ### modIss -/

@[simp] theorem State.modIss_cycle (s : State) (f : Issue → Issue) : (s.modIss f).cycle = s.cycle := rfl
@[simp] theorem State.modIss_groups (s : State) (f : Issue → Issue) : (s.modIss f).groups = s.groups := rfl
@[simp] theorem State.modIss_teams (s : State) (f : Issue → Issue) : (s.modIss f).teams = s.teams := rfl
@[simp] theorem State.modIss_cores (s : State) (f : Issue → Issue) : (s.modIss f).cores = s.cores := rfl
@[simp] theorem State.modIss_scratch (s : State) (f : Issue → Issue) : (s.modIss f).scratch = s.scratch := rfl
@[simp] theorem State.modIss_time (s : State) (f : Issue → Issue) : (s.modIss f).time = s.time := rfl
@[simp] theorem State.modIss_gtcOff (s : State) (f : Issue → Issue) : (s.modIss f).gtcOff = s.gtcOff := rfl
@[simp] theorem State.modIss_mem (s : State) (f : Issue → Issue) : (s.modIss f).mem = s.mem := rfl
@[simp] theorem State.modIss_outside (s : State) (f : Issue → Issue) : (s.modIss f).outside = s.outside := rfl
@[simp] theorem State.modIss_desc (s : State) (f : Issue → Issue) : (s.modIss f).desc = s.desc := rfl
@[simp] theorem State.modIss_faults (s : State) (f : Issue → Issue) : (s.modIss f).faults = s.faults := rfl
@[simp] theorem State.modIss_lines (s : State) (f : Issue → Issue) : (s.modIss f).lines = s.lines := rfl
@[simp] theorem State.modIss_flat (s : State) (f : Issue → Issue) : (s.modIss f).flat = s.flat := rfl
@[simp] theorem State.modIss_sectorWaits (s : State) (f : Issue → Issue) : (s.modIss f).sectorWaits = s.sectorWaits := rfl
@[simp] theorem State.modIss_leases (s : State) (f : Issue → Issue) : (s.modIss f).leases = s.leases := rfl
@[simp] theorem State.modIss_caches (s : State) (f : Issue → Issue) : (s.modIss f).caches = s.caches := rfl
@[simp] theorem State.modIss_tlbs (s : State) (f : Issue → Issue) : (s.modIss f).tlbs = s.tlbs := rfl
@[simp] theorem State.modIss_ptrs (s : State) (f : Issue → Issue) : (s.modIss f).ptrs = s.ptrs := rfl
@[simp] theorem State.modIss_modules (s : State) (f : Issue → Issue) : (s.modIss f).modules = s.modules := rfl
@[simp] theorem State.modIss_dies (s : State) (f : Issue → Issue) : (s.modIss f).dies = s.dies := rfl
@[simp] theorem State.modIss_ctxBase (s : State) (f : Issue → Issue) : (s.modIss f).ctxBase = s.ctxBase := rfl
@[simp] theorem State.modIss_rwBase (s : State) (f : Issue → Issue) : (s.modIss f).rwBase = s.rwBase := rfl
@[simp] theorem State.modIss_rtBase (s : State) (f : Issue → Issue) : (s.modIss f).rtBase = s.rtBase := rfl
@[simp] theorem State.modIss_pkg (s : State) (f : Issue → Issue) : (s.modIss f).pkg = s.pkg := rfl
@[simp] theorem State.modIss_msixMask (s : State) (f : Issue → Issue) : (s.modIss f).msixMask = s.msixMask := rfl
@[simp] theorem State.modIss_msixSent (s : State) (f : Issue → Issue) : (s.modIss f).msixSent = s.msixSent := rfl
@[simp] theorem State.modIss_launches (s : State) (f : Issue → Issue) : (s.modIss f).launches = s.launches := rfl
@[simp] theorem State.modIss_dones (s : State) (f : Issue → Issue) : (s.modIss f).dones = s.dones := rfl
@[simp] theorem State.modIss_ops (s : State) (f : Issue → Issue) : (s.modIss f).ops = s.ops := rfl
@[simp] theorem State.modIss_clusters (s : State) (f : Issue → Issue) : (s.modIss f).clusters = s.clusters := rfl
@[simp] theorem State.modIss_nmRows (s : State) (f : Issue → Issue) : (s.modIss f).nmRows = s.nmRows := rfl
@[simp] theorem State.modIss_nmNotes (s : State) (f : Issue → Issue) : (s.modIss f).nmNotes = s.nmNotes := rfl
@[simp] theorem State.modIss_nmDone (s : State) (f : Issue → Issue) : (s.modIss f).nmDone = s.nmDone := rfl
@[simp] theorem State.modIss_arSlots (s : State) (f : Issue → Issue) : (s.modIss f).arSlots = s.arSlots := rfl
@[simp] theorem State.modIss_control (s : State) (f : Issue → Issue) : (s.modIss f).control = s.control := rfl
@[simp] theorem State.modIss_manage (s : State) (f : Issue → Issue) : (s.modIss f).manage = s.manage := rfl
@[simp] theorem State.modIss_walks (s : State) (f : Issue → Issue) : (s.modIss f).walks = s.walks := rfl
@[simp] theorem State.modIss_saved (s : State) (f : Issue → Issue) : (s.modIss f).saved = s.saved := rfl
@[simp] theorem State.modIss_lastCtx (s : State) (f : Issue → Issue) : (s.modIss f).lastCtx = s.lastCtx := rfl
@[simp] theorem State.modIss_asleep (s : State) (f : Issue → Issue) : (s.modIss f).asleep = s.asleep := rfl
@[simp] theorem State.modIss_reqs (s : State) (f : Issue → Issue) : (s.modIss f).reqs = s.reqs := rfl
@[simp] theorem State.modIss_tsns (s : State) (f : Issue → Issue) : (s.modIss f).tsns = s.tsns := rfl
@[simp] theorem State.modIss_filters (s : State) (f : Issue → Issue) : (s.modIss f).filters = s.filters := rfl
@[simp] theorem State.modIss_atHome (s : State) (f : Issue → Issue) : (s.modIss f).atHome = s.atHome := rfl
@[simp] theorem State.modIss_replies (s : State) (f : Issue → Issue) : (s.modIss f).replies = s.replies := rfl
@[simp] theorem State.modIss_laneMods (s : State) (f : Issue → Issue) : (s.modIss f).laneMods = s.laneMods := rfl
@[simp] theorem State.modIss_bar2 (s : State) (f : Issue → Issue) : (s.modIss f).bar2 = s.bar2 := rfl
@[simp] theorem State.modIss_seq (s : State) (f : Issue → Issue) : (s.modIss f).seq = s.seq := rfl
@[simp] theorem State.modIss_agenda (s : State) (f : Issue → Issue) : (s.modIss f).agenda = s.agenda := rfl
@[simp] theorem State.modIss_free (s : State) (f : Issue → Issue) : (s.modIss f).free = s.free := rfl

/-! ### modOp -/

@[simp] theorem State.modOp_cycle (s : State) (k : Nat) (f : Op → Op) : (s.modOp k f).cycle = s.cycle := rfl
@[simp] theorem State.modOp_groups (s : State) (k : Nat) (f : Op → Op) : (s.modOp k f).groups = s.groups := rfl
@[simp] theorem State.modOp_teams (s : State) (k : Nat) (f : Op → Op) : (s.modOp k f).teams = s.teams := rfl
@[simp] theorem State.modOp_cores (s : State) (k : Nat) (f : Op → Op) : (s.modOp k f).cores = s.cores := rfl
@[simp] theorem State.modOp_scratch (s : State) (k : Nat) (f : Op → Op) : (s.modOp k f).scratch = s.scratch := rfl
@[simp] theorem State.modOp_time (s : State) (k : Nat) (f : Op → Op) : (s.modOp k f).time = s.time := rfl
@[simp] theorem State.modOp_gtcOff (s : State) (k : Nat) (f : Op → Op) : (s.modOp k f).gtcOff = s.gtcOff := rfl
@[simp] theorem State.modOp_mem (s : State) (k : Nat) (f : Op → Op) : (s.modOp k f).mem = s.mem := rfl
@[simp] theorem State.modOp_outside (s : State) (k : Nat) (f : Op → Op) : (s.modOp k f).outside = s.outside := rfl
@[simp] theorem State.modOp_desc (s : State) (k : Nat) (f : Op → Op) : (s.modOp k f).desc = s.desc := rfl
@[simp] theorem State.modOp_faults (s : State) (k : Nat) (f : Op → Op) : (s.modOp k f).faults = s.faults := rfl
@[simp] theorem State.modOp_lines (s : State) (k : Nat) (f : Op → Op) : (s.modOp k f).lines = s.lines := rfl
@[simp] theorem State.modOp_flat (s : State) (k : Nat) (f : Op → Op) : (s.modOp k f).flat = s.flat := rfl
@[simp] theorem State.modOp_sectorWaits (s : State) (k : Nat) (f : Op → Op) : (s.modOp k f).sectorWaits = s.sectorWaits := rfl
@[simp] theorem State.modOp_leases (s : State) (k : Nat) (f : Op → Op) : (s.modOp k f).leases = s.leases := rfl
@[simp] theorem State.modOp_caches (s : State) (k : Nat) (f : Op → Op) : (s.modOp k f).caches = s.caches := rfl
@[simp] theorem State.modOp_tlbs (s : State) (k : Nat) (f : Op → Op) : (s.modOp k f).tlbs = s.tlbs := rfl
@[simp] theorem State.modOp_ptrs (s : State) (k : Nat) (f : Op → Op) : (s.modOp k f).ptrs = s.ptrs := rfl
@[simp] theorem State.modOp_modules (s : State) (k : Nat) (f : Op → Op) : (s.modOp k f).modules = s.modules := rfl
@[simp] theorem State.modOp_dies (s : State) (k : Nat) (f : Op → Op) : (s.modOp k f).dies = s.dies := rfl
@[simp] theorem State.modOp_ctxBase (s : State) (k : Nat) (f : Op → Op) : (s.modOp k f).ctxBase = s.ctxBase := rfl
@[simp] theorem State.modOp_rwBase (s : State) (k : Nat) (f : Op → Op) : (s.modOp k f).rwBase = s.rwBase := rfl
@[simp] theorem State.modOp_rtBase (s : State) (k : Nat) (f : Op → Op) : (s.modOp k f).rtBase = s.rtBase := rfl
@[simp] theorem State.modOp_pkg (s : State) (k : Nat) (f : Op → Op) : (s.modOp k f).pkg = s.pkg := rfl
@[simp] theorem State.modOp_msixMask (s : State) (k : Nat) (f : Op → Op) : (s.modOp k f).msixMask = s.msixMask := rfl
@[simp] theorem State.modOp_msixSent (s : State) (k : Nat) (f : Op → Op) : (s.modOp k f).msixSent = s.msixSent := rfl
@[simp] theorem State.modOp_launches (s : State) (k : Nat) (f : Op → Op) : (s.modOp k f).launches = s.launches := rfl
@[simp] theorem State.modOp_dones (s : State) (k : Nat) (f : Op → Op) : (s.modOp k f).dones = s.dones := rfl
@[simp] theorem State.modOp_clusters (s : State) (k : Nat) (f : Op → Op) : (s.modOp k f).clusters = s.clusters := rfl
@[simp] theorem State.modOp_nmRows (s : State) (k : Nat) (f : Op → Op) : (s.modOp k f).nmRows = s.nmRows := rfl
@[simp] theorem State.modOp_nmNotes (s : State) (k : Nat) (f : Op → Op) : (s.modOp k f).nmNotes = s.nmNotes := rfl
@[simp] theorem State.modOp_nmDone (s : State) (k : Nat) (f : Op → Op) : (s.modOp k f).nmDone = s.nmDone := rfl
@[simp] theorem State.modOp_arSlots (s : State) (k : Nat) (f : Op → Op) : (s.modOp k f).arSlots = s.arSlots := rfl
@[simp] theorem State.modOp_control (s : State) (k : Nat) (f : Op → Op) : (s.modOp k f).control = s.control := rfl
@[simp] theorem State.modOp_manage (s : State) (k : Nat) (f : Op → Op) : (s.modOp k f).manage = s.manage := rfl
@[simp] theorem State.modOp_walks (s : State) (k : Nat) (f : Op → Op) : (s.modOp k f).walks = s.walks := rfl
@[simp] theorem State.modOp_saved (s : State) (k : Nat) (f : Op → Op) : (s.modOp k f).saved = s.saved := rfl
@[simp] theorem State.modOp_lastCtx (s : State) (k : Nat) (f : Op → Op) : (s.modOp k f).lastCtx = s.lastCtx := rfl
@[simp] theorem State.modOp_asleep (s : State) (k : Nat) (f : Op → Op) : (s.modOp k f).asleep = s.asleep := rfl
@[simp] theorem State.modOp_reqs (s : State) (k : Nat) (f : Op → Op) : (s.modOp k f).reqs = s.reqs := rfl
@[simp] theorem State.modOp_tsns (s : State) (k : Nat) (f : Op → Op) : (s.modOp k f).tsns = s.tsns := rfl
@[simp] theorem State.modOp_filters (s : State) (k : Nat) (f : Op → Op) : (s.modOp k f).filters = s.filters := rfl
@[simp] theorem State.modOp_atHome (s : State) (k : Nat) (f : Op → Op) : (s.modOp k f).atHome = s.atHome := rfl
@[simp] theorem State.modOp_replies (s : State) (k : Nat) (f : Op → Op) : (s.modOp k f).replies = s.replies := rfl
@[simp] theorem State.modOp_laneMods (s : State) (k : Nat) (f : Op → Op) : (s.modOp k f).laneMods = s.laneMods := rfl
@[simp] theorem State.modOp_bar2 (s : State) (k : Nat) (f : Op → Op) : (s.modOp k f).bar2 = s.bar2 := rfl
@[simp] theorem State.modOp_seq (s : State) (k : Nat) (f : Op → Op) : (s.modOp k f).seq = s.seq := rfl
@[simp] theorem State.modOp_cur (s : State) (k : Nat) (f : Op → Op) : (s.modOp k f).cur = s.cur := rfl
@[simp] theorem State.modOp_agenda (s : State) (k : Nat) (f : Op → Op) : (s.modOp k f).agenda = s.agenda := rfl
@[simp] theorem State.modOp_free (s : State) (k : Nat) (f : Op → Op) : (s.modOp k f).free = s.free := rfl

/-! ### draw -/

@[simp] theorem State.draw_cycle (s : State) : (s.draw).cycle = s.cycle := rfl
@[simp] theorem State.draw_groups (s : State) : (s.draw).groups = s.groups := rfl
@[simp] theorem State.draw_teams (s : State) : (s.draw).teams = s.teams := rfl
@[simp] theorem State.draw_cores (s : State) : (s.draw).cores = s.cores := rfl
@[simp] theorem State.draw_scratch (s : State) : (s.draw).scratch = s.scratch := rfl
@[simp] theorem State.draw_time (s : State) : (s.draw).time = s.time := rfl
@[simp] theorem State.draw_gtcOff (s : State) : (s.draw).gtcOff = s.gtcOff := rfl
@[simp] theorem State.draw_mem (s : State) : (s.draw).mem = s.mem := rfl
@[simp] theorem State.draw_outside (s : State) : (s.draw).outside = s.outside := rfl
@[simp] theorem State.draw_desc (s : State) : (s.draw).desc = s.desc := rfl
@[simp] theorem State.draw_faults (s : State) : (s.draw).faults = s.faults := rfl
@[simp] theorem State.draw_lines (s : State) : (s.draw).lines = s.lines := rfl
@[simp] theorem State.draw_flat (s : State) : (s.draw).flat = s.flat := rfl
@[simp] theorem State.draw_sectorWaits (s : State) : (s.draw).sectorWaits = s.sectorWaits := rfl
@[simp] theorem State.draw_leases (s : State) : (s.draw).leases = s.leases := rfl
@[simp] theorem State.draw_caches (s : State) : (s.draw).caches = s.caches := rfl
@[simp] theorem State.draw_tlbs (s : State) : (s.draw).tlbs = s.tlbs := rfl
@[simp] theorem State.draw_ptrs (s : State) : (s.draw).ptrs = s.ptrs := rfl
@[simp] theorem State.draw_modules (s : State) : (s.draw).modules = s.modules := rfl
@[simp] theorem State.draw_dies (s : State) : (s.draw).dies = s.dies := rfl
@[simp] theorem State.draw_ctxBase (s : State) : (s.draw).ctxBase = s.ctxBase := rfl
@[simp] theorem State.draw_rwBase (s : State) : (s.draw).rwBase = s.rwBase := rfl
@[simp] theorem State.draw_rtBase (s : State) : (s.draw).rtBase = s.rtBase := rfl
@[simp] theorem State.draw_pkg (s : State) : (s.draw).pkg = s.pkg := rfl
@[simp] theorem State.draw_msixMask (s : State) : (s.draw).msixMask = s.msixMask := rfl
@[simp] theorem State.draw_msixSent (s : State) : (s.draw).msixSent = s.msixSent := rfl
@[simp] theorem State.draw_launches (s : State) : (s.draw).launches = s.launches := rfl
@[simp] theorem State.draw_dones (s : State) : (s.draw).dones = s.dones := rfl
@[simp] theorem State.draw_ops (s : State) : (s.draw).ops = s.ops := rfl
@[simp] theorem State.draw_clusters (s : State) : (s.draw).clusters = s.clusters := rfl
@[simp] theorem State.draw_nmRows (s : State) : (s.draw).nmRows = s.nmRows := rfl
@[simp] theorem State.draw_nmNotes (s : State) : (s.draw).nmNotes = s.nmNotes := rfl
@[simp] theorem State.draw_nmDone (s : State) : (s.draw).nmDone = s.nmDone := rfl
@[simp] theorem State.draw_arSlots (s : State) : (s.draw).arSlots = s.arSlots := rfl
@[simp] theorem State.draw_control (s : State) : (s.draw).control = s.control := rfl
@[simp] theorem State.draw_manage (s : State) : (s.draw).manage = s.manage := rfl
@[simp] theorem State.draw_walks (s : State) : (s.draw).walks = s.walks := rfl
@[simp] theorem State.draw_saved (s : State) : (s.draw).saved = s.saved := rfl
@[simp] theorem State.draw_lastCtx (s : State) : (s.draw).lastCtx = s.lastCtx := rfl
@[simp] theorem State.draw_asleep (s : State) : (s.draw).asleep = s.asleep := rfl
@[simp] theorem State.draw_reqs (s : State) : (s.draw).reqs = s.reqs := rfl
@[simp] theorem State.draw_tsns (s : State) : (s.draw).tsns = s.tsns := rfl
@[simp] theorem State.draw_filters (s : State) : (s.draw).filters = s.filters := rfl
@[simp] theorem State.draw_atHome (s : State) : (s.draw).atHome = s.atHome := rfl
@[simp] theorem State.draw_replies (s : State) : (s.draw).replies = s.replies := rfl
@[simp] theorem State.draw_laneMods (s : State) : (s.draw).laneMods = s.laneMods := rfl
@[simp] theorem State.draw_bar2 (s : State) : (s.draw).bar2 = s.bar2 := rfl
@[simp] theorem State.draw_seq (s : State) : (s.draw).seq = s.seq := rfl
@[simp] theorem State.draw_cur (s : State) : (s.draw).cur = s.cur := rfl
@[simp] theorem State.draw_agenda (s : State) : (s.draw).agenda = s.agenda := rfl

/-! ### dropLine -/

@[simp] theorem State.dropLine_cycle (s : State) (k l : Nat) : (s.dropLine k l).cycle = s.cycle := rfl
@[simp] theorem State.dropLine_groups (s : State) (k l : Nat) : (s.dropLine k l).groups = s.groups := rfl
@[simp] theorem State.dropLine_teams (s : State) (k l : Nat) : (s.dropLine k l).teams = s.teams := rfl
@[simp] theorem State.dropLine_cores (s : State) (k l : Nat) : (s.dropLine k l).cores = s.cores := rfl
@[simp] theorem State.dropLine_scratch (s : State) (k l : Nat) : (s.dropLine k l).scratch = s.scratch := rfl
@[simp] theorem State.dropLine_time (s : State) (k l : Nat) : (s.dropLine k l).time = s.time := rfl
@[simp] theorem State.dropLine_gtcOff (s : State) (k l : Nat) : (s.dropLine k l).gtcOff = s.gtcOff := rfl
@[simp] theorem State.dropLine_mem (s : State) (k l : Nat) : (s.dropLine k l).mem = s.mem := rfl
@[simp] theorem State.dropLine_outside (s : State) (k l : Nat) : (s.dropLine k l).outside = s.outside := rfl
@[simp] theorem State.dropLine_desc (s : State) (k l : Nat) : (s.dropLine k l).desc = s.desc := rfl
@[simp] theorem State.dropLine_faults (s : State) (k l : Nat) : (s.dropLine k l).faults = s.faults := rfl
@[simp] theorem State.dropLine_lines (s : State) (k l : Nat) : (s.dropLine k l).lines = s.lines := rfl
@[simp] theorem State.dropLine_flat (s : State) (k l : Nat) : (s.dropLine k l).flat = s.flat := rfl
@[simp] theorem State.dropLine_sectorWaits (s : State) (k l : Nat) : (s.dropLine k l).sectorWaits = s.sectorWaits := rfl
@[simp] theorem State.dropLine_leases (s : State) (k l : Nat) : (s.dropLine k l).leases = s.leases := rfl
@[simp] theorem State.dropLine_tlbs (s : State) (k l : Nat) : (s.dropLine k l).tlbs = s.tlbs := rfl
@[simp] theorem State.dropLine_ptrs (s : State) (k l : Nat) : (s.dropLine k l).ptrs = s.ptrs := rfl
@[simp] theorem State.dropLine_modules (s : State) (k l : Nat) : (s.dropLine k l).modules = s.modules := rfl
@[simp] theorem State.dropLine_dies (s : State) (k l : Nat) : (s.dropLine k l).dies = s.dies := rfl
@[simp] theorem State.dropLine_ctxBase (s : State) (k l : Nat) : (s.dropLine k l).ctxBase = s.ctxBase := rfl
@[simp] theorem State.dropLine_rwBase (s : State) (k l : Nat) : (s.dropLine k l).rwBase = s.rwBase := rfl
@[simp] theorem State.dropLine_rtBase (s : State) (k l : Nat) : (s.dropLine k l).rtBase = s.rtBase := rfl
@[simp] theorem State.dropLine_pkg (s : State) (k l : Nat) : (s.dropLine k l).pkg = s.pkg := rfl
@[simp] theorem State.dropLine_msixMask (s : State) (k l : Nat) : (s.dropLine k l).msixMask = s.msixMask := rfl
@[simp] theorem State.dropLine_msixSent (s : State) (k l : Nat) : (s.dropLine k l).msixSent = s.msixSent := rfl
@[simp] theorem State.dropLine_launches (s : State) (k l : Nat) : (s.dropLine k l).launches = s.launches := rfl
@[simp] theorem State.dropLine_dones (s : State) (k l : Nat) : (s.dropLine k l).dones = s.dones := rfl
@[simp] theorem State.dropLine_ops (s : State) (k l : Nat) : (s.dropLine k l).ops = s.ops := rfl
@[simp] theorem State.dropLine_clusters (s : State) (k l : Nat) : (s.dropLine k l).clusters = s.clusters := rfl
@[simp] theorem State.dropLine_nmRows (s : State) (k l : Nat) : (s.dropLine k l).nmRows = s.nmRows := rfl
@[simp] theorem State.dropLine_nmNotes (s : State) (k l : Nat) : (s.dropLine k l).nmNotes = s.nmNotes := rfl
@[simp] theorem State.dropLine_nmDone (s : State) (k l : Nat) : (s.dropLine k l).nmDone = s.nmDone := rfl
@[simp] theorem State.dropLine_arSlots (s : State) (k l : Nat) : (s.dropLine k l).arSlots = s.arSlots := rfl
@[simp] theorem State.dropLine_control (s : State) (k l : Nat) : (s.dropLine k l).control = s.control := rfl
@[simp] theorem State.dropLine_manage (s : State) (k l : Nat) : (s.dropLine k l).manage = s.manage := rfl
@[simp] theorem State.dropLine_walks (s : State) (k l : Nat) : (s.dropLine k l).walks = s.walks := rfl
@[simp] theorem State.dropLine_saved (s : State) (k l : Nat) : (s.dropLine k l).saved = s.saved := rfl
@[simp] theorem State.dropLine_lastCtx (s : State) (k l : Nat) : (s.dropLine k l).lastCtx = s.lastCtx := rfl
@[simp] theorem State.dropLine_asleep (s : State) (k l : Nat) : (s.dropLine k l).asleep = s.asleep := rfl
@[simp] theorem State.dropLine_reqs (s : State) (k l : Nat) : (s.dropLine k l).reqs = s.reqs := rfl
@[simp] theorem State.dropLine_tsns (s : State) (k l : Nat) : (s.dropLine k l).tsns = s.tsns := rfl
@[simp] theorem State.dropLine_filters (s : State) (k l : Nat) : (s.dropLine k l).filters = s.filters := rfl
@[simp] theorem State.dropLine_atHome (s : State) (k l : Nat) : (s.dropLine k l).atHome = s.atHome := rfl
@[simp] theorem State.dropLine_replies (s : State) (k l : Nat) : (s.dropLine k l).replies = s.replies := rfl
@[simp] theorem State.dropLine_laneMods (s : State) (k l : Nat) : (s.dropLine k l).laneMods = s.laneMods := rfl
@[simp] theorem State.dropLine_bar2 (s : State) (k l : Nat) : (s.dropLine k l).bar2 = s.bar2 := rfl
@[simp] theorem State.dropLine_seq (s : State) (k l : Nat) : (s.dropLine k l).seq = s.seq := rfl
@[simp] theorem State.dropLine_cur (s : State) (k l : Nat) : (s.dropLine k l).cur = s.cur := rfl
@[simp] theorem State.dropLine_agenda (s : State) (k l : Nat) : (s.dropLine k l).agenda = s.agenda := rfl
@[simp] theorem State.dropLine_free (s : State) (k l : Nat) : (s.dropLine k l).free = s.free := rfl

/-! ### setDesc -/

@[simp] theorem State.setDesc_cycle (s : State) (x d : Nat) : (s.setDesc x d).cycle = s.cycle := rfl
@[simp] theorem State.setDesc_groups (s : State) (x d : Nat) : (s.setDesc x d).groups = s.groups := rfl
@[simp] theorem State.setDesc_teams (s : State) (x d : Nat) : (s.setDesc x d).teams = s.teams := rfl
@[simp] theorem State.setDesc_cores (s : State) (x d : Nat) : (s.setDesc x d).cores = s.cores := rfl
@[simp] theorem State.setDesc_scratch (s : State) (x d : Nat) : (s.setDesc x d).scratch = s.scratch := rfl
@[simp] theorem State.setDesc_time (s : State) (x d : Nat) : (s.setDesc x d).time = s.time := rfl
@[simp] theorem State.setDesc_gtcOff (s : State) (x d : Nat) : (s.setDesc x d).gtcOff = s.gtcOff := rfl
@[simp] theorem State.setDesc_mem (s : State) (x d : Nat) : (s.setDesc x d).mem = s.mem := rfl
@[simp] theorem State.setDesc_outside (s : State) (x d : Nat) : (s.setDesc x d).outside = s.outside := rfl
@[simp] theorem State.setDesc_faults (s : State) (x d : Nat) : (s.setDesc x d).faults = s.faults := rfl
@[simp] theorem State.setDesc_lines (s : State) (x d : Nat) : (s.setDesc x d).lines = s.lines := rfl
@[simp] theorem State.setDesc_flat (s : State) (x d : Nat) : (s.setDesc x d).flat = s.flat := rfl
@[simp] theorem State.setDesc_sectorWaits (s : State) (x d : Nat) : (s.setDesc x d).sectorWaits = s.sectorWaits := rfl
@[simp] theorem State.setDesc_leases (s : State) (x d : Nat) : (s.setDesc x d).leases = s.leases := rfl
@[simp] theorem State.setDesc_caches (s : State) (x d : Nat) : (s.setDesc x d).caches = s.caches := rfl
@[simp] theorem State.setDesc_tlbs (s : State) (x d : Nat) : (s.setDesc x d).tlbs = s.tlbs := rfl
@[simp] theorem State.setDesc_ptrs (s : State) (x d : Nat) : (s.setDesc x d).ptrs = s.ptrs := rfl
@[simp] theorem State.setDesc_modules (s : State) (x d : Nat) : (s.setDesc x d).modules = s.modules := rfl
@[simp] theorem State.setDesc_dies (s : State) (x d : Nat) : (s.setDesc x d).dies = s.dies := rfl
@[simp] theorem State.setDesc_ctxBase (s : State) (x d : Nat) : (s.setDesc x d).ctxBase = s.ctxBase := rfl
@[simp] theorem State.setDesc_rwBase (s : State) (x d : Nat) : (s.setDesc x d).rwBase = s.rwBase := rfl
@[simp] theorem State.setDesc_rtBase (s : State) (x d : Nat) : (s.setDesc x d).rtBase = s.rtBase := rfl
@[simp] theorem State.setDesc_pkg (s : State) (x d : Nat) : (s.setDesc x d).pkg = s.pkg := rfl
@[simp] theorem State.setDesc_msixMask (s : State) (x d : Nat) : (s.setDesc x d).msixMask = s.msixMask := rfl
@[simp] theorem State.setDesc_msixSent (s : State) (x d : Nat) : (s.setDesc x d).msixSent = s.msixSent := rfl
@[simp] theorem State.setDesc_launches (s : State) (x d : Nat) : (s.setDesc x d).launches = s.launches := rfl
@[simp] theorem State.setDesc_dones (s : State) (x d : Nat) : (s.setDesc x d).dones = s.dones := rfl
@[simp] theorem State.setDesc_ops (s : State) (x d : Nat) : (s.setDesc x d).ops = s.ops := rfl
@[simp] theorem State.setDesc_clusters (s : State) (x d : Nat) : (s.setDesc x d).clusters = s.clusters := rfl
@[simp] theorem State.setDesc_nmRows (s : State) (x d : Nat) : (s.setDesc x d).nmRows = s.nmRows := rfl
@[simp] theorem State.setDesc_nmNotes (s : State) (x d : Nat) : (s.setDesc x d).nmNotes = s.nmNotes := rfl
@[simp] theorem State.setDesc_nmDone (s : State) (x d : Nat) : (s.setDesc x d).nmDone = s.nmDone := rfl
@[simp] theorem State.setDesc_arSlots (s : State) (x d : Nat) : (s.setDesc x d).arSlots = s.arSlots := rfl
@[simp] theorem State.setDesc_control (s : State) (x d : Nat) : (s.setDesc x d).control = s.control := rfl
@[simp] theorem State.setDesc_manage (s : State) (x d : Nat) : (s.setDesc x d).manage = s.manage := rfl
@[simp] theorem State.setDesc_walks (s : State) (x d : Nat) : (s.setDesc x d).walks = s.walks := rfl
@[simp] theorem State.setDesc_saved (s : State) (x d : Nat) : (s.setDesc x d).saved = s.saved := rfl
@[simp] theorem State.setDesc_lastCtx (s : State) (x d : Nat) : (s.setDesc x d).lastCtx = s.lastCtx := rfl
@[simp] theorem State.setDesc_asleep (s : State) (x d : Nat) : (s.setDesc x d).asleep = s.asleep := rfl
@[simp] theorem State.setDesc_reqs (s : State) (x d : Nat) : (s.setDesc x d).reqs = s.reqs := rfl
@[simp] theorem State.setDesc_tsns (s : State) (x d : Nat) : (s.setDesc x d).tsns = s.tsns := rfl
@[simp] theorem State.setDesc_filters (s : State) (x d : Nat) : (s.setDesc x d).filters = s.filters := rfl
@[simp] theorem State.setDesc_atHome (s : State) (x d : Nat) : (s.setDesc x d).atHome = s.atHome := rfl
@[simp] theorem State.setDesc_replies (s : State) (x d : Nat) : (s.setDesc x d).replies = s.replies := rfl
@[simp] theorem State.setDesc_laneMods (s : State) (x d : Nat) : (s.setDesc x d).laneMods = s.laneMods := rfl
@[simp] theorem State.setDesc_bar2 (s : State) (x d : Nat) : (s.setDesc x d).bar2 = s.bar2 := rfl
@[simp] theorem State.setDesc_seq (s : State) (x d : Nat) : (s.setDesc x d).seq = s.seq := rfl
@[simp] theorem State.setDesc_cur (s : State) (x d : Nat) : (s.setDesc x d).cur = s.cur := rfl
@[simp] theorem State.setDesc_agenda (s : State) (x d : Nat) : (s.setDesc x d).agenda = s.agenda := rfl
@[simp] theorem State.setDesc_free (s : State) (x d : Nat) : (s.setDesc x d).free = s.free := rfl

/-! ### What the updates make of their tables -/

theorem State.group_modGroup (s : State) (g h : Nat) (f : Group → Group) :
    (s.modGroup g f).group h = if h = g ∧ (Tab.get? s.groups g).isSome then f (s.group g) else s.group h :=
  Tab.getD_modify s.groups g h f default
theorem State.group_modGroup_ne (s : State) {g h : Nat} (f : Group → Group) (e : h ≠ g) :
    (s.modGroup g f).group h = s.group h := by simp [State.group_modGroup, e]
theorem State.group_modGroup_self (s : State) {g : Nat} (f : Group → Group) (e : (Tab.get? s.groups g).isSome) :
    (s.modGroup g f).group g = f (s.group g) := by simp [State.group_modGroup, e]
@[simp] theorem State.modGroup_isSome (s : State) (g h : Nat) (f : Group → Group) :
    (Tab.get? (s.modGroup g f).groups h).isSome = (Tab.get? s.groups h).isSome := by
  simp only [State.modGroup, Tab.get?_modify]
  split <;> simp
@[simp] theorem State.modGroup_keys (s : State) (g : Nat) (f : Group → Group) :
    (s.modGroup g f).groups.map Prod.fst = s.groups.map Prod.fst := Tab.keys_modify s.groups g f
theorem State.group_setGroup (s : State) (g h : Nat) (v : Group) :
    (s.setGroup g v).group h = if h = g then v else s.group h := Tab.getD_set s.groups g h v default
theorem State.teamOf_modTeam (s : State) (t u : Nat) (f : Team → Team) :
    (s.modTeam t f).teamOf u = if u = t ∧ (Tab.get? s.teams t).isSome then f (s.teamOf t) else s.teamOf u :=
  Tab.getD_modify s.teams t u f default
theorem State.core_modCore (s : State) (k j : Nat) (f : Core → Core) :
    (s.modCore k f).core j = if j = k then f (s.core k) else s.core j := Tab.getD_set s.cores k j _ _
theorem State.die_modDie (s : State) (d e : Nat) (f : Die → Die) :
    (s.modDie d f).die e = if e = d then f (s.die d) else s.die e := Tab.getD_set s.dies d e _ _
theorem State.op_modOp (s : State) (k j : Nat) (f : Op → Op) :
    (s.modOp k f).op j = if j = k then (s.op j).map f else s.op j := Tab.get?_modify s.ops k j f

@[simp] theorem State.modGroup_teamOf (s : State) (g t : Nat) (f : Group → Group) : (s.modGroup g f).teamOf t = s.teamOf t := rfl
@[simp] theorem State.modGroup_core (s : State) (g k : Nat) (f : Group → Group) : (s.modGroup g f).core k = s.core k := rfl
@[simp] theorem State.modGroup_die (s : State) (g d : Nat) (f : Group → Group) : (s.modGroup g f).die d = s.die d := rfl
@[simp] theorem State.modGroup_iss (s : State) (g : Nat) (f : Group → Group) : (s.modGroup g f).iss = s.iss := rfl
@[simp] theorem State.modTeam_group (s : State) (t g : Nat) (f : Team → Team) : (s.modTeam t f).group g = s.group g := rfl
@[simp] theorem State.modTeam_iss (s : State) (t : Nat) (f : Team → Team) : (s.modTeam t f).iss = s.iss := rfl
@[simp] theorem State.modIss_group (s : State) (g : Nat) (f : Issue → Issue) : (s.modIss f).group g = s.group g := rfl
@[simp] theorem State.modIss_teamOf (s : State) (t : Nat) (f : Issue → Issue) : (s.modIss f).teamOf t = s.teamOf t := rfl
@[simp] theorem State.modCore_group (s : State) (k g : Nat) (f : Core → Core) : (s.modCore k f).group g = s.group g := rfl
@[simp] theorem State.modDie_group (s : State) (d g : Nat) (f : Die → Die) : (s.modDie d f).group g = s.group g := rfl

/-- In an issue, the working record is that issue. -/
theorem State.iss_eq {s : State} {i : Issue} (h : s.cur = some i) : s.iss = i := by simp [State.iss, h]

/-- A meaning runs in an issue, and answers a next state (the operation of every instruction word). -/
theorem issued_eq {s : State} {i : Issue} (h : s.cur = some i) (k : Issue → State) : issued s k = .next (k i) := by
  simp [issued, h]

end Sys2Proof.Machine
end

