-- ==== Sys2Proof/Laws/Operands.lean ====
section
/-! SUPPORT. What writing a lane-register, a scalar or a predicate does to a group, and what a list of such writes does
to the state. -/

namespace Sys2Proof.Machine

/-! ### One group -/

@[simp] theorem Group.modLane_length (gr : Group) (l : Nat) (f : Lane → Lane) : (gr.modLane l f).lanes.length = gr.lanes.length := by
  simp [Group.modLane]
theorem Group.modLane_get (gr : Group) (l j : Nat) (f : Lane → Lane) :
    (gr.modLane l f).lanes[j]? = if l = j then (gr.lanes[j]?).map f else gr.lanes[j]? := by
  simp only [Group.modLane, List.getElem?_modify]
  split <;> simp
@[simp] theorem Group.modLane_scalars (gr : Group) (l : Nat) (f : Lane → Lane) : (gr.modLane l f).scalars = gr.scalars := rfl
@[simp] theorem Group.modLane_scal (gr : Group) (l n : Nat) (f : Lane → Lane) : (gr.modLane l f).scal n = gr.scal n := rfl
@[simp] theorem Group.modLane_ext (gr : Group) (l : Nat) (f : Lane → Lane) : (gr.modLane l f).ext = gr.ext := rfl
@[simp] theorem Group.modLane_shared (gr : Group) (l : Nat) (f : Lane → Lane) : (gr.modLane l f).shared = gr.shared := rfl
@[simp] theorem Group.modLane_unjoined (gr : Group) (l : Nat) (f : Lane → Lane) : (gr.modLane l f).unjoined = gr.unjoined := rfl
@[simp] theorem Group.modLane_team (gr : Group) (l : Nat) (f : Lane → Lane) : (gr.modLane l f).team = gr.team := rfl

@[simp] theorem Group.setReg_unwritten (gr : Group) (l n v j k : Nat) :
    (gr.setReg l n v).unwritten j k = gr.unwritten j k := rfl

/-- A write to a lane-register: that register reads the value's low 32 bits, every other as before. -/
theorem Group.reg_setReg (gr : Group) (l n v j k : Nat) :
    (gr.setReg l n v).reg j k = if l = j ∧ k = n ∧ j < gr.lanes.length then v % 2 ^ 32 else gr.reg j k := by
  by_cases hl : l = j
  · subst hl
    cases hg : gr.lanes[l]? with
    | none =>
      have hn : ¬ l < gr.lanes.length := by
        intro h; rw [List.getElem?_eq_getElem h] at hg; exact absurd hg (by simp)
      simp [Group.reg, Group.setReg, Group.modLane_get, hg, hn]
    | some ln =>
      have hn : l < gr.lanes.length := by
        by_cases h : l < gr.lanes.length
        · exact h
        · rw [List.getElem?_eq_none (by omega)] at hg; exact absurd hg (by simp)
      simp only [Group.reg, Group.setReg, Group.modLane_get, hg, if_true, Option.map_some, Tab.get?_set, hn, and_true, true_and]
      by_cases hk : k = n
      · simp [hk]
      · simp only [hk, if_false, false_and]; rfl
  · simp only [Group.reg, Group.setReg, Group.modLane_get, hl, if_false, false_and]; rfl

@[simp] theorem Group.scal_setReg (gr : Group) (l n v k : Nat) : (gr.setReg l n v).scal k = gr.scal k := rfl
@[simp] theorem Group.setReg_length (gr : Group) (l n v : Nat) : (gr.setReg l n v).lanes.length = gr.lanes.length := by
  simp [Group.setReg]

/-- A write to a scalar. -/
theorem Group.scal_putScal (gr : Group) (n v k : Nat) :
    (gr.putScal n v).scal k = if k = n then v % 2 ^ 64 else gr.scal k := by
  simp only [Group.putScal, Group.setScal, Group.scal, Tab.getD_set]
  split <;> simp
@[simp] theorem Group.putScal_reg (gr : Group) (n v j k : Nat) : (gr.putScal n v).reg j k = gr.reg j k := rfl
@[simp] theorem Group.putScal_lanes (gr : Group) (n v : Nat) : (gr.putScal n v).lanes = gr.lanes := rfl

/-! ### Lists of writes -/

/-- Writes to groups, one after another, give each group its own writes in order. -/
theorem State.group_foldl_modGroup {α : Type} (G : α → Nat) (H : α → Group → Group) (xs : List α) (s : State) (g : Nat)
    (hs : (Tab.get? s.groups g).isSome) :
    (List.foldl (fun t x => t.modGroup (G x) (H x)) s xs).group g =
      List.foldl (fun a x => if G x = g then H x a else a) (s.group g) xs := by
  induction xs generalizing s with
  | nil => rfl
  | cons x r ih =>
    simp only [List.foldl_cons]
    rw [ih _ (by simpa using hs)]
    by_cases h : G x = g
    · subst h; rw [if_pos rfl, State.group_modGroup_self s (H x) hs]
    · rw [if_neg h, State.group_modGroup_ne s (H x) (Ne.symm h)]

/-- They leave everything but the groups alone. -/
theorem State.foldl_modGroup_eq {α : Type} (G : α → Nat) (H : α → Group → Group) (xs : List α) (s : State) :
    List.foldl (fun t x => t.modGroup (G x) (H x)) s xs =
      { s with groups := (List.foldl (fun t x => t.modGroup (G x) (H x)) s xs).groups } := by
  induction xs generalizing s with
  | nil => rfl
  | cons x r ih =>
    simp only [List.foldl_cons]
    rw [ih]
    rfl

theorem State.foldl_modGroup_keys {α : Type} (G : α → Nat) (H : α → Group → Group) (xs : List α) (s : State) :
    (List.foldl (fun t x => t.modGroup (G x) (H x)) s xs).groups.map Prod.fst = s.groups.map Prod.fst := by
  induction xs generalizing s with
  | nil => rfl
  | cons x r ih => simp only [List.foldl_cons]; rw [ih]; simp

theorem State.foldl_modGroup_isSome {α : Type} (G : α → Nat) (H : α → Group → Group) (xs : List α) (s : State) (g : Nat) :
    (Tab.get? (List.foldl (fun t x => t.modGroup (G x) (H x)) s xs).groups g).isSome = (Tab.get? s.groups g).isSome := by
  induction xs generalizing s with
  | nil => rfl
  | cons x r ih => simp only [List.foldl_cons]; rw [ih]; simp

theorem State.group_none {s : State} {g : Nat} (h : (Tab.get? s.groups g).isSome = false) : s.group g = default := by
  unfold State.group Tab.getD
  cases e : Tab.get? s.groups g with
  | none => rfl
  | some v => rw [e] at h; exact absurd h (by simp)

/-- The write that `setD` makes to the group of its slot lane. -/
def Group.writeD (gr : Group) (m : Form) (f : Fields) (w j v : Nat) : Group :=
  if m.isScalar then gr.putScal f.d.toNat (v % 2 ^ w)
  else if w == 64 then (gr.setReg j f.d.toNat (v % 2 ^ 32)).setReg j (f.d.toNat + 1) (v / 2 ^ 32 % 2 ^ 32)
  else gr.setReg j f.d.toNat (v % 2 ^ w)

theorem Tab.modify_modify {α : Type} (t : Tab α) (k : Nat) (f g : α → α) :
    Tab.modify (Tab.modify t k f) k g = Tab.modify t k (fun x => g (f x)) := by
  simp only [Tab.modify, List.map_map]
  apply List.map_congr_left
  intro p _
  simp only [Function.comp]
  by_cases h : (p.1 == k) = true <;> simp [h]

theorem State.setD_eq (s : State) (m : Form) (f : Fields) (w l v : Nat) {g j : Nat} (h : s.iss.at? l = some (g, j)) :
    s.setD m f w l v = s.modGroup g (fun gr => gr.writeD m f w j v) := by
  unfold State.setD Group.writeD
  by_cases hm : m.isScalar
  · simp [hm, State.setS, h]
  · simp only [hm, Bool.false_eq_true, if_false]
    unfold State.setVval
    by_cases hw : (w == 64) = true
    · simp only [hw, if_true, State.setVreg, h, State.modGroup_iss]
      simp [State.modGroup, Tab.modify_modify]
    · simp [hw, State.setVreg, h]

end Sys2Proof.Machine
end

