-- ==== Sys2Proof/Laws/Delivery.lean ====
section
/-! SUPPORT. The shared operation of the register forms: a value computed in each execution, written to D, with sticky flags.
What it does is what `Delivers` says. -/

namespace Sys2Proof.Slice0
open Sys2Proof Sys2Proof.Machine

theorem active_sub (s : State) {i : Issue} (h : s.cur = some i) (g : Guard) : ∀ l ∈ s.active g, l ∈ i.entry := by
  intro l hl
  simp only [State.active, State.iss_eq h, List.mem_filter] at hl
  exact hl.1

theorem scalarUnits_sub (s : State) {i : Issue} (h : s.cur = some i) (g : Guard) : ∀ l ∈ s.scalarUnits g, l ∈ i.entry := by
  intro l hl
  unfold State.scalarUnits at hl
  rw [State.iss_eq h] at hl
  split at hl
  · exact active_sub s h g l hl
  · split at hl
    · simp at hl
    · rename_i e r he
      split at hl
      · simp only [List.mem_singleton] at hl; subst hl; rw [he]; simp
      · simp at hl

theorem execs_sub (s : State) {i : Issue} (h : s.cur = some i) (m : Form) (g : Guard) : ∀ l ∈ s.execs m g, l ∈ i.entry := by
  unfold State.execs
  split
  · exact scalarUnits_sub s h g
  · exact active_sub s h g

theorem active_nodup (s : State) {i : Issue} (h : Sound s i) (g : Guard) : (s.active g).Nodup := by
  unfold State.active; rw [State.iss_eq h.cur]; exact h.nodup.filter _

theorem scalarUnits_nodup (s : State) {i : Issue} (h : Sound s i) (g : Guard) : (s.scalarUnits g).Nodup := by
  unfold State.scalarUnits
  split
  · exact active_nodup s h g
  · split
    · simp
    · split <;> simp

theorem execs_nodup (s : State) {i : Issue} (h : Sound s i) (m : Form) (g : Guard) : (s.execs m g).Nodup := by
  unfold State.execs
  split
  · exact scalarUnits_nodup s h g
  · exact active_nodup s h g

/-- scalar executions: at most one in each group -/
theorem scalarUnits_apart (s : State) {i : Issue} (h : Sound s i) (g : Guard) :
    ∀ l ∈ s.scalarUnits g, ∀ k ∈ s.scalarUnits g, (i.at? l).map Prod.fst = (i.at? k).map Prod.fst → l = k := by
  intro l hl k hk e
  have hl' := scalarUnits_sub s h.cur g l hl
  have hk' := scalarUnits_sub s h.cur g k hk
  cases hst : i.stream with
  | true => exact h.fibres hst l hl' k hk' e
  | false =>
    unfold State.scalarUnits at hl hk
    rw [State.iss_eq h.cur] at hl hk
    simp only [hst, Bool.false_eq_true, if_false] at hl hk
    split at hl
    · simp at hl
    · split at hl
      · rename_i he hg
        rw [he] at hk
        simp only [hg, if_true, List.mem_singleton] at hk hl
        rw [hk, hl]
      · simp at hl

abbrev gidOf (i : Issue) (l : Nat) : Nat := ((i.at? l).getD (0, 0)).1
abbrev laneOf' (i : Issue) (l : Nat) : Nat := ((i.at? l).getD (0, 0)).2

/-- the fold of setD as a fold of group writes -/
theorem foldl_setD (m : Form) (f : Fields) (w : Nat) (op : Nat → Nat) (i : Issue) (ls : List Nat) (s : State)
    (h : s.iss = i) (hs : ∀ l ∈ ls, ∃ g j, i.at? l = some (g, j)) :
    List.foldl (fun t l => t.setD m f w l (op l)) s ls =
      List.foldl (fun t l => t.modGroup (gidOf i l) (fun gr => gr.writeD m f w (laneOf' i l) (op l))) s ls := by
  induction ls generalizing s with
  | nil => rfl
  | cons l r ih =>
    obtain ⟨g, j, e⟩ := hs l List.mem_cons_self
    simp only [List.foldl_cons]
    rw [State.setD_eq s m f w l (op l) (g := g) (j := j) (by rw [h]; exact e)]
    have e1 : gidOf i l = g := by simp [gidOf, e]
    have e2 : laneOf' i l = j := by simp [laneOf', e]
    rw [e1, e2]
    exact ih _ (by simpa using h) (fun k hk => hs k (List.mem_cons_of_mem l hk))


theorem GroupFrame.refl' {w : Wrote} {g : Nat} (a : Group) (h : ∀ n, w.scal g n = false) : GroupFrame w g a a := by
  refine ⟨?_, fun _ _ => rfl, rfl, fun j x y hx hy => ?_⟩
  · have hf : a.badScal.filter (fun e => !w.scal g (e.1 / 2)) = a.badScal := List.filter_eq_self.2 (by simp [h])
    simp only [hf]
    simp [h]
  · rw [hx] at hy; cases hy; exact ⟨rfl, fun _ _ => ⟨rfl, rfl⟩, fun _ _ => rfl⟩

theorem GroupFrame.trans' {w : Wrote} {g : Nat} {a b c : Group} (h1 : GroupFrame w g a b) (h2 : GroupFrame w g b c) :
    GroupFrame w g a c := by
  obtain ⟨e1, s1, l1, f1⟩ := h1
  obtain ⟨e2, s2, l2, f2⟩ := h2
  refine ⟨?_, fun n hn => (s2 n hn).trans (s1 n hn), l2.trans l1, fun j x z hx hz => ?_⟩
  · rw [e2, e1]
    congr 1
    · simp only [List.map_map]
      apply List.map_congr_left
      intro u _
      simp only [Function.comp]
      by_cases hh : w.scal g u.token = true <;> simp [hh]
    · simp [List.filter_filter]
  · have hj : j < b.lanes.length := by
      rw [l1]
      by_cases hlt : j < a.lanes.length
      · exact hlt
      · rw [List.getElem?_eq_none (by omega)] at hx; cases hx
    obtain ⟨p1, p2, p3⟩ := f1 j x _ hx (List.getElem?_eq_getElem hj)
    obtain ⟨q1, q2, q3⟩ := f2 j _ z (List.getElem?_eq_getElem hj) hz
    refine ⟨?_, fun n hn => ⟨(q2 n hn).1.trans (p2 n hn).1, (q2 n hn).2.trans (p2 n hn).2⟩, fun n hn => (q3 n hn).trans (p3 n hn)⟩
    rw [q1, p1]

theorem setReg_frame {w : Wrote} {g : Nat} (a : Group) (j n v : Nat) (hs : ∀ n, w.scal g n = false)
    (hr : w.reg g j n = true) : GroupFrame w g a (a.setReg j n v) := by
  refine ⟨?_, fun _ _ => rfl, by simp, fun k x y hx hy => ?_⟩
  · have hf : a.badScal.filter (fun e => !w.scal g (e.1 / 2)) = a.badScal := List.filter_eq_self.2 (by simp [hs])
    simp only [hf]
    simp [Group.setReg, Group.modLane, hs]
  · by_cases hk : j = k
    · subst hk
      have hy' := hy
      simp only [Group.setReg, Group.modLane_get, if_true, hx, Option.map_some, Option.some.injEq] at hy
      subst hy
      refine ⟨rfl, fun n' hn => ⟨?_, ?_⟩, fun _ _ => rfl⟩
      · rw [Group.reg_setReg, if_neg]
        rintro ⟨-, e, -⟩; subst e; rw [hr] at hn; cases hn
      · have : n' ≠ n := by rintro e; subst e; rw [hr] at hn; cases hn
        simp [Tab.get?_erase, this]
    · simp only [Group.setReg, Group.modLane_get, hk, if_false] at hy
      rw [hx] at hy; cases hy
      refine ⟨rfl, fun n' hn => ⟨?_, rfl⟩, fun _ _ => rfl⟩
      rw [Group.reg_setReg, if_neg]; rintro ⟨e, -⟩; exact hk e

theorem putScal_frame {w : Wrote} {g : Nat} (a : Group) (d v : Nat) (hs : ∀ n, w.scal g n = (n == d)) :
    GroupFrame w g a (a.putScal d v) := by
  refine ⟨?_, fun n hn => ?_, rfl, fun k x y hx hy => ?_⟩
  · simp [Group.putScal, Group.setScal, hs, bne]
  · rw [Group.scal_putScal, if_neg]; intro e; subst e; simp [hs] at hn
  · simp only [Group.putScal_lanes] at hy
    rw [hx] at hy; cases hy
    exact ⟨rfl, fun _ _ => ⟨rfl, rfl⟩, fun _ _ => rfl⟩

theorem foldl_if_unique {α β : Type} (p : α → Prop) [DecidablePred p] (H : α → β → β) (xs : List α) (a : β) (hn : xs.Nodup)
    (hu : ∀ x ∈ xs, ∀ y ∈ xs, p x → p y → x = y) :
    (∀ x ∈ xs, p x → List.foldl (fun a x => if p x then H x a else a) a xs = H x a) ∧
    ((∀ x ∈ xs, ¬ p x) → List.foldl (fun a x => if p x then H x a else a) a xs = a) := by
  induction xs generalizing a with
  | nil => simp
  | cons x r ih =>
    simp only [List.nodup_cons] at hn
    have hur : ∀ x ∈ r, ∀ y ∈ r, p x → p y → x = y := fun x hx y hy => hu x (List.mem_cons_of_mem _ hx) y (List.mem_cons_of_mem _ hy)
    refine ⟨fun y hy hp => ?_, fun h => ?_⟩
    · rw [List.foldl_cons]
      by_cases e : y = x
      · subst e; rw [if_pos hp]
        refine ((ih _ hn.2 hur).2 ?_)
        intro z hz hpz
        have := hu y List.mem_cons_self z (List.mem_cons_of_mem _ hz) hp hpz
        subst this; exact hn.1 hz
      · have hy' : y ∈ r := by
          rcases List.mem_cons.mp hy with h | h
          · exact absurd h e
          · exact h
        have hx : ¬ p x := fun hpx => e (hu y hy x List.mem_cons_self hp hpx)
        rw [if_neg hx]
        exact (ih _ hn.2 hur).1 y hy' hp
    · rw [List.foldl_cons, if_neg (h x List.mem_cons_self)]
      exact (ih _ hn.2 hur).2 (fun z hz => h z (List.mem_cons_of_mem _ hz))

/-- group level frame of the writes -/
theorem writes_frame {s : State} {i : Issue} (hS : Sound s i) (m : Form) (f : Fields) (w : Nat) (op : Nat → Nat) (ls : List Nat) (fl : Bool)
    (hsub : ∀ l ∈ ls, l ∈ i.entry) (hnd : ls.Nodup)
    (hap : m.isScalar = true → ∀ l ∈ ls, ∀ k ∈ ls, (i.at? l).map Prod.fst = (i.at? k).map Prod.fst → l = k) (g : Nat) (a : Group) :
    GroupFrame (wroteD s i m f w ls fl) g a
      (List.foldl (fun a l => if gidOf i l = g then a.writeD m f w (laneOf' i l) (op l) else a) a ls) := by
  have hat : ∀ l ∈ ls, ∃ g j, i.at? l = some (g, j) := fun l hl => by
    obtain ⟨g, j, e, -⟩ := hS.seated l (hsub l hl); exact ⟨g, j, e⟩
  have hcar : ∀ l ∈ ls, ∀ p : Nat → Nat → Bool, p (gidOf i l) (laneOf' i l) = true → carries i ls p = true := by
    intro l hl p hp
    obtain ⟨g, j, e⟩ := hat l hl
    simp only [carries, List.any_eq_true]
    refine ⟨l, hl, ?_⟩
    rw [e]
    simpa [gidOf, laneOf', e] using hp
  cases hm : m.isScalar with
  | true =>
    have hu : ∀ x ∈ ls, ∀ y ∈ ls, gidOf i x = g → gidOf i y = g → x = y := by
      intro x hx y hy ex ey
      apply hap hm x hx y hy
      obtain ⟨g1, j1, e1⟩ := hat x hx
      obtain ⟨g2, j2, e2⟩ := hat y hy
      simp [gidOf, e1] at ex; simp [gidOf, e2] at ey
      simp [e1, e2, ex, ey]
    obtain ⟨h1, h2⟩ := foldl_if_unique (fun l => gidOf i l = g) (fun l a => a.writeD m f w (laneOf' i l) (op l)) ls a hnd hu
    by_cases hex : ∃ x ∈ ls, gidOf i x = g
    · obtain ⟨x, hx, ex⟩ := hex
      rw [h1 x hx ex]
      simp only [Group.writeD, hm, if_true]
      apply putScal_frame
      intro n
      have : carries i ls (fun h _ => h == g) = true := hcar x hx _ (by simp [ex])
      simp [wroteD, hm, this]
    · rw [h2 (fun x hx e => hex ⟨x, hx, e⟩)]
      apply GroupFrame.refl'
      intro n
      have : carries i ls (fun h _ => h == g) = false := by
        rw [Bool.eq_false_iff]
        intro hc
        simp only [carries, List.any_eq_true] at hc
        obtain ⟨l, hl, hp⟩ := hc
        obtain ⟨g', j, e⟩ := hat l hl
        rw [e] at hp
        exact hex ⟨l, hl, by simpa [gidOf, e] using hp⟩
      simp [wroteD, this]
  | false =>
    have hsc : ∀ n, (wroteD s i m f w ls fl).scal g n = false := by intro n; simp [wroteD, hm]
    have : ∀ xs a, (∀ x ∈ xs, x ∈ ls) → GroupFrame (wroteD s i m f w ls fl) g a
        (List.foldl (fun a l => if gidOf i l = g then a.writeD m f w (laneOf' i l) (op l) else a) a xs) := by
      intro xs
      induction xs with
      | nil => intro a _; exact GroupFrame.refl' a hsc
      | cons x r ih =>
        intro a hx
        rw [List.foldl_cons]
        refine GroupFrame.trans' ?_ (ih _ (fun y hy => hx y (by simp [hy])))
        split
        · rename_i hg
          have hxl : x ∈ ls := hx x (by simp)
          have hc : carries i ls (fun h k => h == g && k == laneOf' i x) = true := hcar x hxl _ (by simp [hg])
          simp only [Group.writeD, hm, Bool.false_eq_true, if_false]
          split
          · rename_i hw
            refine GroupFrame.trans' (setReg_frame _ _ _ _ hsc ?_) (setReg_frame _ _ _ _ hsc ?_)
            · simp [wroteD, hm, inD, hc]
            · simp [wroteD, hm, inD, hc, hw]
          · apply setReg_frame _ _ _ _ hsc
            simp [wroteD, hm, inD, hc]
        · exact GroupFrame.refl' _ hsc
    exact this ls a (fun _ h => h)

/-- group level result of the writes -/
theorem writes_result {i : Issue} (m : Form) (f : Fields) (w : Nat) (op : Nat → Nat) (hw : w ≤ 32 ∨ w = 64) (g : Nat) :
    ∀ (ls : List Nat) (a : Group), (∀ l ∈ ls, ∃ g j, i.at? l = some (g, j)) → ls.Nodup →
    (∀ l ∈ ls, ∀ k ∈ ls, i.at? l = i.at? k → l = k) →
    (m.isScalar = true → ∀ l ∈ ls, ∀ k ∈ ls, (i.at? l).map Prod.fst = (i.at? k).map Prod.fst → l = k) →
    ∀ l ∈ ls, ∀ j, i.at? l = some (g, j) → j < a.lanes.length →
    let b := List.foldl (fun a l => if gidOf i l = g then a.writeD m f w (laneOf' i l) (op l) else a) a ls
    if m.isScalar then b.scal f.d.toNat = op l % 2 ^ w
    else if w = 64 then b.reg j f.d.toNat = op l % 2 ^ 32 ∧ b.reg j (f.d.toNat + 1) = op l / 2 ^ 32 % 2 ^ 32
    else b.reg j f.d.toNat = op l % 2 ^ w := by
  intro ls
  -- from the right: the last write to the lane
  have key : ∀ (xs : List Nat) (a : Group) (l j : Nat), (∀ x ∈ xs, ∃ g j, i.at? x = some (g, j)) →
      (∀ x ∈ xs, x ≠ l ∧ (i.at? x ≠ i.at? l) ∧ (m.isScalar = true → (i.at? x).map Prod.fst ≠ (i.at? l).map Prod.fst)) → i.at? l = some (g, j) →
      let b := List.foldl (fun a l => if gidOf i l = g then a.writeD m f w (laneOf' i l) (op l) else a) a xs
      (m.isScalar = true → b.scal f.d.toNat = a.scal f.d.toNat) ∧
      (m.isScalar = false → ∀ n, b.reg j n = a.reg j n) := by
    intro xs
    induction xs with
    | nil => intros; exact ⟨fun _ => rfl, fun _ _ => rfl⟩
    | cons x r ih =>
      intro a l j hat hne hl
      simp only [List.foldl_cons]
      obtain ⟨i1, i2⟩ := ih (if gidOf i x = g then a.writeD m f w (laneOf' i x) (op x) else a) l j
        (fun y hy => hat y (List.mem_cons_of_mem _ hy)) (fun y hy => hne y (List.mem_cons_of_mem _ hy)) hl
      obtain ⟨gx, jx, ex⟩ := hat x List.mem_cons_self
      obtain ⟨n1, n2, n3⟩ := hne x List.mem_cons_self
      refine ⟨fun hm => (i1 hm).trans ?_, fun hm n => (i2 hm n).trans ?_⟩
      · have : gidOf i x ≠ g := by
          intro e; apply n3 hm; rw [ex, hl]; simp [gidOf, ex] at e; simp [e]
        rw [if_neg this]
      · split
        · rename_i e
          have hj : laneOf' i x ≠ j := by
            intro e2; apply n2; rw [ex, hl]
            simp [gidOf, ex] at e; simp [laneOf', ex] at e2; simp [e, e2]
          simp only [Group.writeD, hm, Bool.false_eq_true, if_false]
          split <;> simp [Group.reg_setReg, hj]
        · rfl
  induction ls with
  | nil => intro a _ _ _ _ l hl; simp at hl
  | cons x r ih =>
    intro a hat hnd hap haps l hl j e hj
    simp only [List.foldl_cons]
    rw [List.nodup_cons] at hnd
    rcases List.mem_cons.mp hl with h | h
    · subst h
      have eg : gidOf i l = g := by simp [gidOf, e]
      have ej : laneOf' i l = j := by simp [laneOf', e]
      rw [if_pos eg, ej]
      obtain ⟨k1, k2⟩ := key r (a.writeD m f w j (op l)) l j (fun y hy => hat y (List.mem_cons_of_mem _ hy))
        (fun y hy => ⟨fun h => hnd.1 (h ▸ hy), fun h => hnd.1 ((hap y (List.mem_cons_of_mem _ hy) l List.mem_cons_self h) ▸ hy),
          fun hm h => hnd.1 ((haps hm y (List.mem_cons_of_mem _ hy) l List.mem_cons_self h) ▸ hy)⟩) e
      cases hm : m.isScalar with
      | true =>
        simp only [if_true]
        rw [k1 hm]
        simp only [Group.writeD, hm, if_true, Group.scal_putScal]
        rcases hw with hw | hw
        · exact Nat.mod_eq_of_lt (Nat.lt_of_lt_of_le (Nat.mod_lt _ (Nat.two_pow_pos w)) (Nat.pow_le_pow_right (by decide) (by omega)))
        · subst hw; exact Nat.mod_mod _ _
      | false =>
        simp only [Bool.false_eq_true, if_false]
        split
        · rename_i hw'
          subst hw'
          rw [k2 hm, k2 hm]
          simp [Group.writeD, hm, Group.reg_setReg, hj]
        · rename_i hw'
          have hw2 : w ≤ 32 := by omega
          rw [k2 hm]
          simp only [Group.writeD, hm, Bool.false_eq_true, if_false, beq_iff_eq, hw', Group.reg_setReg, hj, and_self, if_true]
          exact Nat.mod_eq_of_lt (Nat.lt_of_lt_of_le (Nat.mod_lt _ (Nat.two_pow_pos w)) (Nat.pow_le_pow_right (by decide) hw2))
    · have := ih (if gidOf i x = g then a.writeD m f w (laneOf' i x) (op x) else a) (fun y hy => hat y (List.mem_cons_of_mem _ hy)) hnd.2
        (fun y hy z hz => hap y (List.mem_cons_of_mem _ hy) z (List.mem_cons_of_mem _ hz))
        (fun hm y hy z hz => haps hm y (List.mem_cons_of_mem _ hy) z (List.mem_cons_of_mem _ hz)) l h j e (by
          split
          · simp only [Group.writeD]; split
            · simpa using hj
            · split <;> simpa using hj
          · exact hj)
      exact this

theorem orFlagsOf_same (s : State) (g : Nat) (fl : Flags) : s.orFlagsOf g fl =
    if (s.teamOf (s.group g).team).stream then s.modTeam (s.group g).team (fun tm => { tm with shared := { tm.shared with flags := tm.shared.flags ||| fl } })
    else s.modGroup g (fun gr => { gr with shared := { gr.shared with flags := gr.shared.flags ||| fl } }) := rfl

theorem team_present {s : State} {k : Nat} (h : (s.teamOf k).stream = true) : (Tab.get? s.teams k).isSome := by
  unfold State.teamOf Tab.getD at h
  cases e : Tab.get? s.teams k with
  | none => rw [e] at h; exact absurd h (by decide)
  | some v => rfl

theorem execs_apart (s : State) {i : Issue} (h : Sound s i) (m : Form) (g : Guard) (hm : m.isScalar = true) :
    ∀ l ∈ s.execs m g, ∀ k ∈ s.execs m g, (i.at? l).map Prod.fst = (i.at? k).map Prod.fst → l = k := by
  unfold State.execs; rw [hm]; exact scalarUnits_apart s h g

theorem carries_mem {i : Issue} {ls : List Nat} {l g j : Nat} {p : Nat → Nat → Bool} (hl : l ∈ ls) (e : i.at? l = some (g, j)) (hp : p g j = true) :
    carries i ls p = true := by
  simp only [carries, List.any_eq_true]; exact ⟨l, hl, by rw [e]; exact hp⟩

/-- The shared operation `forLanes` with `setD` delivers. -/
theorem forLanes_delivers (s : State) (i : Issue) (hS : Sound s i) (m : Form) (g : Guard) (f : Fields) (w : Nat)
    (hw : w ≤ 32 ∨ w = 64) (op : Nat → Nat × Flags) :
    let t := s.forLanes (s.execs m g) op (fun u l v => u.setD m f w l v)
    (∀ l ∈ s.execs m g, Result t i m f w l (op l).1) ∧
    (∀ l ∈ s.execs m g, ∀ h j, i.at? l = some (h, j) →
      (t.sharedOf h).flags = (s.sharedOf h).flags ||| orFlags (s.execs m g) fun l => (op l).2) ∧
    Frame (wroteD s i m f w (s.execs m g) (orFlags (s.execs m g) (fun l => (op l).2) != 0)) s t := by
  generalize hls : s.execs m g = ls
  have hsub : ∀ l ∈ ls, l ∈ i.entry := hls ▸ execs_sub s hS.cur m g
  have hnd : ls.Nodup := hls ▸ execs_nodup s hS m g
  have hap : m.isScalar = true → ∀ l ∈ ls, ∀ k ∈ ls, (i.at? l).map Prod.fst = (i.at? k).map Prod.fst → l = k := fun hm => hls ▸ execs_apart s hS m g hm
  have hat : ∀ l ∈ ls, ∃ g j, i.at? l = some (g, j) := fun l hl => by
    obtain ⟨g, j, e, -⟩ := hS.seated l (hsub l hl); exact ⟨g, j, e⟩
  generalize hflv : orFlags ls (fun l => (op l).2) = fl
  -- the writes
  have hF := foldl_setD m f w (fun l => (op l).1) i ls s (State.iss_eq hS.cur) hat
  generalize hu : List.foldl (fun t l => t.setD m f w l (op l).1) s ls = u at *
  have hgrp : ∀ h, (Tab.get? s.groups h).isSome → u.group h = List.foldl (fun a l => if gidOf i l = h then a.writeD m f w (laneOf' i l) (op l).1 else a) (s.group h) ls := by
    intro h hh; rw [hF]
    exact State.group_foldl_modGroup (gidOf i) (fun l gr => gr.writeD m f w (laneOf' i l) (op l).1) ls s h hh
  have hueq : u = { s with groups := u.groups } := by rw [hF]; exact State.foldl_modGroup_eq (gidOf i) (fun l gr => gr.writeD m f w (laneOf' i l) (op l).1) ls s
  have hkeys : u.groups.map Prod.fst = s.groups.map Prod.fst := by rw [hF]; exact State.foldl_modGroup_keys (gidOf i) (fun l gr => gr.writeD m f w (laneOf' i l) (op l).1) ls s
  have hsome : ∀ h, (Tab.get? u.groups h).isSome = (Tab.get? s.groups h).isSome := by
    intro h; rw [hF]
    exact State.foldl_modGroup_isSome (gidOf i) (fun l gr => gr.writeD m f w (laneOf' i l) (op l).1) ls s h
  have hpres : ∀ l ∈ ls, ∀ h j, i.at? l = some (h, j) → (Tab.get? s.groups h).isSome ∧ j < (s.group h).lanes.length ∧ (s.group h).team = i.team := by
    intro l hl h j e
    obtain ⟨h', j', e', p1, p2, p3⟩ := hS.seated l (hsub l hl)
    rw [e] at e'; cases e'
    obtain ⟨ln, hln, -⟩ := p3
    refine ⟨p1, ?_, p2⟩
    by_cases hj : j < (s.group h).lanes.length
    · exact hj
    · rw [List.getElem?_eq_none (by omega)] at hln; cases hln
  have hframe : ∀ b h, GroupFrame (wroteD s i m f w ls b) h (s.group h) (u.group h) := by
    intro b h
    cases hh : (Tab.get? s.groups h).isSome with
    | true => rw [hgrp h hh]; exact writes_frame hS m f w _ ls b hsub hnd hap h _
    | false =>
      rw [State.group_none hh, State.group_none ((hsome h).trans hh)]
      apply GroupFrame.refl'
      intro n
      have : carries i ls (fun k _ => k == h) = false := by
        rw [Bool.eq_false_iff]; intro hc
        simp only [carries, List.any_eq_true] at hc
        obtain ⟨l, hl, hp⟩ := hc
        obtain ⟨g', j, e⟩ := hat l hl
        rw [e] at hp
        have := (hpres l hl g' j e).1
        simp at hp; subst hp; rw [hh] at this; cases this
      simp [wroteD, this]
  have hres : ∀ l ∈ ls, Result u i m f w l (op l).1 := by
    intro l hl h j e
    obtain ⟨p1, p2, p3⟩ := hpres l hl h j e
    have := writes_result (i := i) m f w (fun l => (op l).1) hw h ls (s.group h) hat hnd
      (fun a ha b hb => hS.apart a (hsub a ha) b (hsub b hb)) hap l hl j e p2
    rw [hgrp h p1]; exact this
  have huteam : ∀ k, u.teamOf k = s.teamOf k := by intro k; rw [hueq]; rfl
  have hush : ∀ h, (u.group h).shared = (s.group h).shared ∧ (u.group h).team = (s.group h).team := by
    intro h
    obtain ⟨e, -⟩ := hframe false h
    have h2 : (u.group h).team = (s.group h).team := by rw [e]
    refine ⟨?_, h2⟩
    cases hh : (Tab.get? s.groups h).isSome with
    | false => rw [State.group_none hh, State.group_none ((hsome h).trans hh)]
    | true =>
      rw [hgrp h hh]
      have : ∀ (xs : List Nat) (a : Group), (List.foldl (fun a l => if gidOf i l = h then a.writeD m f w (laneOf' i l) (op l).1 else a) a xs).shared = a.shared := by
        intro xs
        induction xs with
        | nil => intro a; rfl
        | cons x r ih =>
          intro a; rw [List.foldl_cons, ih]
          split
          · unfold Group.writeD; split
            · rfl
            · split <;> rfl
          · rfl
      exact this ls _
  have husof : ∀ h, u.sharedOf h = s.sharedOf h := by
    intro h; simp only [State.sharedOf, huteam, (hush h).1, (hush h).2]
  have hfl0 : fl = 0 → ∀ x : Flags, x = x ||| fl := by intro e x; subst e; simp
  have huiss : u.iss = i := by rw [hueq]; exact State.iss_eq hS.cur
  simp only [State.forLanes, hu]
  have hflv' : List.foldl (fun a l => a ||| (op l).2) (0 : Flags) ls = fl := hflv
  rw [hflv']
  -- without flags
  have plain : fl = 0 → (∀ l ∈ ls, Result u i m f w l (op l).1) ∧
    (∀ l ∈ ls, ∀ h j, i.at? l = some (h, j) → (u.sharedOf h).flags = (s.sharedOf h).flags ||| fl) ∧
    Frame (wroteD s i m f w ls (fl != 0)) s u := by
    intro e
    refine ⟨hres, fun l hl h j _ => ?_, ?_, hkeys, fun k => ?_, fun h _ => ?_, hframe _, fun pa => ?_, fun k a => ?_⟩
    · rw [husof, e]; simp
    · rw [hueq]
    · rw [huteam]
    · rw [husof]
    · rw [hueq]; rfl
    · rw [hueq]; rfl
  cases ls with
  | nil => exact plain (by rw [← hflv]; rfl)
  | cons l0 r =>
    by_cases e0 : fl = 0
    · have : (fl == 0) = true := by simp [e0]
      simp only [this, if_true]
      exact plain e0
    have : (fl == 0) = false := by simpa using e0
    simp only [this, Bool.false_eq_true, if_false]
    obtain ⟨h0, j0, ee⟩ := hat l0 List.mem_cons_self
    obtain ⟨p1, p2, p3⟩ := hpres l0 List.mem_cons_self h0 j0 ee
    have hne : (fl != 0) = true := by simpa using e0
    rw [hne]
    simp only [State.orFlags, huiss, ee, orFlagsOf_same, (hush h0).2, p3, huteam, hS.kind]
    cases hst : i.stream with
    | true =>
      have hpt : (Tab.get? u.teams i.team).isSome := by
        have h0 := team_present (s := s) (k := i.team) (by rw [hS.kind]; exact hst)
        rw [hueq]; exact h0
      simp only [if_true]
      refine ⟨fun l hl => ?_, fun l hl h j e => ?_, ?_, hkeys, fun k => ?_, fun h hh => ?_, fun h => ?_, fun pa => ?_, fun k a => ?_⟩
      · exact hres l hl
      · obtain ⟨q1, q2, q3⟩ := hpres l hl h j e
        simp only [State.sharedOf, State.modTeam_group, State.teamOf_modTeam, (hush h).2, q3, hpt, and_self, if_true, huteam, hS.kind, hst]
      · rw [hueq]; rfl
      · rw [State.teamOf_modTeam]
        split
        · rename_i hk; rw [hk.1, huteam]
        · rw [huteam]
      · simp only [State.sharedOf, State.modTeam_group, State.teamOf_modTeam, (hush h).2]
        have : ¬ (s.group h).team = i.team := by
          intro e; simp [wroteD, flagged, hst, e] at hh
        simp [this, huteam, (hush h).1]
      · exact hframe _ h
      · rw [hueq]; rfl
      · rw [hueq]; rfl
    | false =>
      simp only [Bool.false_eq_true, if_false]
      have hp0 : (Tab.get? u.groups h0).isSome := by rw [hsome]; exact p1
      have hgl : ∀ l ∈ l0 :: r, ∀ h j, i.at? l = some (h, j) → h = h0 := by
        intro l hl h j e
        have := hS.grouped hst l (hsub l hl) l0 (hsub l0 List.mem_cons_self)
        rw [e, ee] at this; simpa using this
      refine ⟨fun l hl => ?_, fun l hl h j e => ?_, ?_, ?_, fun k => ?_, fun h hh => ?_, fun h => ?_, fun pa => ?_, fun k a => ?_⟩
      · intro h j e
        have := hres l hl h j e
        have e1 := hgl l hl h j e
        subst e1
        rw [State.group_modGroup_self u _ hp0]
        exact this
      · have e1 := hgl l hl h j e
        subst e1
        simp only [State.sharedOf, State.group_modGroup_self u _ hp0, State.modGroup_teamOf, (hush h).2, p3, huteam, hS.kind, hst, Bool.false_eq_true, if_false, (hush h).1]
      · rw [hueq]; rfl
      · rw [State.modGroup_keys]; exact hkeys
      · rw [State.modGroup_teamOf, huteam]
      · by_cases e1 : h = h0
        · subst e1
          have : carries i (l0 :: r) (fun k _ => k == h) = true := carries_mem List.mem_cons_self ee (by simp)
          simp [wroteD, flagged, this] at hh
        · simp only [State.sharedOf, State.group_modGroup_ne u _ e1, State.modGroup_teamOf, (hush h).1, (hush h).2, huteam]
      · by_cases e1 : h = h0
        · subst e1
          rw [State.group_modGroup_self u _ hp0]
          obtain ⟨f1, f2, f3, f4⟩ := hframe true h
          refine ⟨?_, f2, f3, f4⟩
          conv => lhs; rw [f1]
        · rw [State.group_modGroup_ne u _ e1]; exact hframe _ h
      · rw [hueq]; rfl
      · rw [hueq]; rfl

theorem ty_width (t : Ty) : tyWidth t ≤ 32 ∨ tyWidth t = 64 := by cases t <;> decide

theorem intExec_delivers (ins : Instr) (m : Form) (g : Guard) (f : Fields) (ws : List Nat) (ctl : Bool) (w : Nat)
    (hw : w ≤ 32 ∨ w = 64) (op : List Nat → Nat × Flags)
    (he : ∀ s, exec ins s = intExec m g f ws ctl w op s) :
    Delivers ins m g f w fun s l => op (ws.mapIdx fun k sw => s.src m f (formTyD m f) ws.length k sw (ctl && k + 1 == ws.length) l) := by
  intro s i hS
  refine ⟨_, ?_, forLanes_delivers s i hS m g f w hw _⟩
  rw [he, intExec, issued_eq hS.cur]

end Sys2Proof.Slice0
end

