-- ==== Sys2Proof/Laws/Memory.lean ====
section
/-! SUPPORT. Cells: a read after a write, and the canonical form; every memory operation keeps the form, and the memory
of reset has it. -/

namespace Sys2Proof.Machine

/-! ### One list of cells -/

theorem cellRead_below (m : List Host.Cell) (lo a : Nat) (h : cellsFrom lo m = true) (ha : a < lo) : cellRead m a = 0 := by
  cases m with
  | nil => rfl
  | cons p r =>
    obtain ⟨b, v⟩ := p
    simp only [cellsFrom, Bool.and_eq_true, decide_eq_true_eq] at h
    have h1 : ¬ b = a := by omega
    have h2 : a < b := by omega
    simp [cellRead, h1, h2]

theorem cellsFrom_mono (m : List Host.Cell) (lo lo' : Nat) (hl : lo' ≤ lo) (h : cellsFrom lo m = true) :
    cellsFrom lo' m = true := by
  cases m with
  | nil => rfl
  | cons p r =>
    obtain ⟨b, v⟩ := p
    simp only [cellsFrom, Bool.and_eq_true, decide_eq_true_eq] at h ⊢
    exact ⟨⟨Nat.le_trans hl h.1.1, h.1.2⟩, h.2⟩

/-- A write keeps the form, from its own address on or any lower one. -/
theorem cellsFrom_cellWrite (m : List Host.Cell) (lo a : Nat) (v : Byte) (h : cellsFrom lo m = true) (ha : lo ≤ a) :
    cellsFrom lo (cellWrite m a v) = true := by
  induction m generalizing lo with
  | nil =>
    unfold cellWrite
    split
    · rfl
    · next hv => simp [cellsFrom, ha] at hv ⊢; exact hv
  | cons p r ih =>
    obtain ⟨b, w⟩ := p
    simp only [cellsFrom, Bool.and_eq_true, decide_eq_true_eq] at h
    obtain ⟨⟨hb, hw⟩, hr⟩ := h
    unfold cellWrite
    split
    · next e =>
      have e : b = a := by simpa using e
      subst e
      split
      · exact cellsFrom_mono r (b + 1) lo (by omega) hr
      · next hv => simp [cellsFrom, ha, hr] at hv ⊢; exact hv
    · next hne =>
      have hne : ¬ b = a := by simpa using hne
      split
      · next hlt =>
        have h1 : a + 1 ≤ b := hlt
        split
        · simp only [cellsFrom, Bool.and_eq_true, decide_eq_true_eq]; exact ⟨⟨hb, hw⟩, hr⟩
        · next hv =>
          simp only [cellsFrom, Bool.and_eq_true, decide_eq_true_eq, ha, h1, hw, hr, true_and, and_true]
          simpa using hv
      · next hge =>
        simp only [cellsFrom, Bool.and_eq_true, decide_eq_true_eq]
        exact ⟨⟨hb, hw⟩, ih (b + 1) hr (by omega)⟩

theorem cellsWf_cellWrite {m : List Host.Cell} (a : Nat) (v : Byte) (h : cellsWf m = true) :
    cellsWf (cellWrite m a v) = true := cellsFrom_cellWrite m 0 a v h (Nat.zero_le a)

/-- A read after a write: the byte written there, every other byte as before. -/
theorem cellRead_cellWrite (m : List Host.Cell) (lo a b : Nat) (v : Byte) (h : cellsFrom lo m = true) :
    cellRead (cellWrite m a v) b = if b = a then v else cellRead m b := by
  induction m generalizing lo with
  | nil =>
    unfold cellWrite
    by_cases hv : v = 0#8
    · subst hv; simp [cellRead]
    · by_cases hb : b = a
      · subst hb; simp [cellRead, hv]
      · simp [cellRead, hv, hb, Ne.symm hb]
  | cons p r ih =>
    obtain ⟨c, w⟩ := p
    simp only [cellsFrom, Bool.and_eq_true, decide_eq_true_eq] at h
    obtain ⟨⟨hc, hw⟩, hr⟩ := h
    unfold cellWrite
    by_cases e : c = a
    · subst e
      by_cases hv : v = 0#8
      · subst hv
        by_cases hb : b = c
        · subst hb; simp [cellRead_below r (b + 1) b hr (by omega)]
        · have hb' : ¬ c = b := fun x => hb x.symm
          by_cases hlt : b < c
          · simp [cellRead, hb, hb', hlt, cellRead_below r (c + 1) b hr (by omega)]
          · simp [cellRead, hb, hb', hlt]
      · by_cases hb : b = c
        · subst hb; simp [cellRead, hv]
        · have hb' : ¬ c = b := fun x => hb x.symm
          simp [cellRead, hv, hb, hb']
    · by_cases hlt : a < c
      · by_cases hv : v = 0#8
        · subst hv
          by_cases hb : b = a
          · subst hb; simp [e, hlt, cellRead]
          · simp [e, hlt, hb]
        · by_cases hb : b = a
          · subst hb; simp [e, hlt, hv, cellRead]
          · have hb' : ¬ a = b := fun x => hb x.symm
            by_cases hba : b < a
            · have hbc : ¬ c = b := by omega
              have hbl : b < c := by omega
              simp [e, hlt, hv, cellRead, hb, hb', hba, hbc, hbl]
            · simp [e, hlt, hv, cellRead, hb, hb', hba]
      · simp only [beq_iff_eq, e, if_false, hlt, cellRead]
        by_cases hb : c = b
        · subst hb; simp [e]
        · by_cases hbl : b < c
          · have : ¬ b = a := by omega
            simp [hb, hbl, this]
          · simp only [hb, if_false, hbl]; exact ih (c + 1) hr

theorem cellsWf_cellStore {m : List Host.Cell} (n a v : Nat) (h : cellsWf m = true) : cellsWf (cellStore m a v n) = true := by
  induction n generalizing m a v with
  | zero => exact h
  | succ n ih => exact ih _ _ (cellsWf_cellWrite a _ h)

theorem cellsFrom_filter (m : List Host.Cell) (lo : Nat) (p : Host.Cell → Bool) (h : cellsFrom lo m = true) :
    cellsFrom lo (m.filter p) = true := by
  induction m generalizing lo with
  | nil => rfl
  | cons q r ih =>
    obtain ⟨b, w⟩ := q
    simp only [cellsFrom, Bool.and_eq_true, decide_eq_true_eq] at h
    obtain ⟨⟨hb, hw⟩, hr⟩ := h
    rw [List.filter_cons]
    split
    · simp only [cellsFrom, Bool.and_eq_true, decide_eq_true_eq]; exact ⟨⟨hb, hw⟩, ih _ hr⟩
    · exact cellsFrom_mono _ (b + 1) lo (by omega) (ih _ hr)

theorem cellsWf_filter {m : List Host.Cell} (p : Host.Cell → Bool) (h : cellsWf m = true) :
    cellsWf (m.filter p) = true := cellsFrom_filter m 0 p h

/-- Cells written one after another. -/
theorem cellsWf_foldl {α : Type} (xs : List α) (at' : α → Nat) (val : α → Byte) (m : List Host.Cell) (h : cellsWf m = true) :
    cellsWf (List.foldl (fun m x => cellWrite m (at' x) (val x)) m xs) = true :=
  foldl_keeps (fun m => cellsWf m = true) _ xs m (fun m x _ hm => cellsWf_cellWrite (at' x) (val x) hm) h

/-- The cells of a core in a table whose every list has the form. -/
theorem cellsWf_getD {t : Tab (List Host.Cell)} (k : Nat) (h : (t.all fun p => cellsWf p.2) = true) :
    cellsWf (Tab.getD t k []) = true := by
  unfold Tab.getD
  induction t with
  | nil => rfl
  | cons p r ih =>
    obtain ⟨j, m⟩ := p
    simp only [List.all_cons, Bool.and_eq_true] at h
    by_cases e : j = k
    · subst e; simpa [Tab.get?_cons] using h.1
    · simpa [Tab.get?_cons, e] using ih h.2

theorem all_set {t : Tab (List Host.Cell)} (k : Nat) (m : List Host.Cell)
    (h : (t.all fun p => cellsWf p.2) = true) (hm : cellsWf m = true) :
    ((Tab.set t k m).all fun p => cellsWf p.2) = true := by
  induction t with
  | nil => simp [Tab.set, hm]
  | cons p r ih =>
    obtain ⟨j, w⟩ := p
    simp only [List.all_cons, Bool.and_eq_true] at h
    unfold Tab.set
    split
    · simp [hm, h.2]
    · split
      · simp [hm, h.1, h.2]
      · simp only [List.all_cons, Bool.and_eq_true]; exact ⟨h.1, ih h.2⟩

theorem all_modify {t : Tab (List Host.Cell)} (k : Nat) (f : List Host.Cell → List Host.Cell)
    (hf : ∀ m, cellsWf m = true → cellsWf (f m) = true) (h : (t.all fun p => cellsWf p.2) = true) :
    ((Tab.modify t k f).all fun p => cellsWf p.2) = true := by
  rw [List.all_eq_true] at h ⊢
  intro p hp
  unfold Tab.modify at hp
  obtain ⟨q, hq, rfl⟩ := List.mem_map.1 hp
  split
  · exact hf _ (h q hq)
  · exact h q hq

/-! ### The machine's memories -/

theorem wf_iff (s : State) : Memory.wf s = true ↔ cellsWf s.mem = true ∧ (s.scratch.all fun p => cellsWf p.2) = true := by
  simp [Memory.wf]

/-- The form concerns local memory and the scratchpads alone. -/
theorem wf_congr {s t : State} (hm : t.mem = s.mem) (hs : t.scratch = s.scratch) : Memory.wf t = Memory.wf s := by
  simp [Memory.wf, hm, hs]

@[simp] theorem State.stepped_mem (s : State) (g : Nat) : (s.stepped g).mem = s.mem := by
  unfold State.stepped; split <;> (try split) <;> rfl
@[simp] theorem State.stepped_scratch (s : State) (g : Nat) : (s.stepped g).scratch = s.scratch := by
  unfold State.stepped; split <;> (try split) <;> rfl
@[simp] theorem State.resume_mem (s : State) (g : Nat) : (s.resume g).mem = s.mem := by simp [State.resume]
@[simp] theorem State.resume_scratch (s : State) (g : Nat) : (s.resume g).scratch = s.scratch := by simp [State.resume]
@[simp] theorem State.wake_mem (s : State) (g d v : Nat) : (s.wake g d v).mem = s.mem := by simp [State.wake]
@[simp] theorem State.wake_scratch (s : State) (g d v : Nat) : (s.wake g d v).scratch = s.scratch := by simp [State.wake]

@[simp] theorem State.trigger_mem (s : State) (g : Nat) (w : Watch) : (s.trigger g w).mem = s.mem := by
  unfold State.trigger; split <;> simp
@[simp] theorem State.trigger_scratch (s : State) (g : Nat) (w : Watch) : (s.trigger g w).scratch = s.scratch := by
  unfold State.trigger; split <;> simp

theorem State.triggerIf_same (s : State) (hit : Watch → Bool) :
    (s.triggerIf hit).mem = s.mem ∧ (s.triggerIf hit).scratch = s.scratch := by
  unfold State.triggerIf
  apply foldl_keeps (fun t : State => t.mem = s.mem ∧ t.scratch = s.scratch) _ _ s _ ⟨rfl, rfl⟩
  intro t p _ ht
  split
  · split
    · simpa using ht
    · exact ht
  · exact ht

@[simp] theorem State.triggerIf_mem (s : State) (hit : Watch → Bool) : (s.triggerIf hit).mem = s.mem :=
  (State.triggerIf_same s hit).1
@[simp] theorem State.triggerIf_scratch (s : State) (hit : Watch → Bool) : (s.triggerIf hit).scratch = s.scratch :=
  (State.triggerIf_same s hit).2

@[simp] theorem State.triggerScratch_mem (s : State) (k a n : Nat) : (s.triggerScratch k a n).mem = s.mem := by
  simp [State.triggerScratch]
@[simp] theorem State.triggerScratch_scratch (s : State) (k a n : Nat) : (s.triggerScratch k a n).scratch = s.scratch := by
  simp [State.triggerScratch]

@[simp] theorem State.countMiss_mem (s : State) (d src cls : Nat) (dl : Option Nat) : (s.countMiss d src cls dl).mem = s.mem := by
  unfold State.countMiss; split <;> (try split) <;> rfl
@[simp] theorem State.countMiss_scratch (s : State) (d src cls : Nat) (dl : Option Nat) :
    (s.countMiss d src cls dl).scratch = s.scratch := by unfold State.countMiss; split <;> (try split) <;> rfl
@[simp] theorem State.serveWait_mem (s : State) (d g : Nat) : (s.serveWait d g).mem = s.mem := by
  unfold State.serveWait; dsimp only; split <;> simp
@[simp] theorem State.serveWait_scratch (s : State) (d g : Nat) : (s.serveWait d g).scratch = s.scratch := by
  unfold State.serveWait; dsimp only; split <;> simp
@[simp] theorem State.stopParked_mem (s : State) (g c sub ea : Nat) : (s.stopParked g c sub ea).mem = s.mem := by
  unfold State.stopParked; split <;> rfl
@[simp] theorem State.stopParked_scratch (s : State) (g c sub ea : Nat) : (s.stopParked g c sub ea).scratch = s.scratch := by
  unfold State.stopParked; split <;> rfl

theorem State.triggerDevice_same (s : State) (pa : Nat) :
    (s.triggerDevice pa).mem = s.mem ∧ (s.triggerDevice pa).scratch = s.scratch := by
  unfold State.triggerDevice
  refine foldl_keeps (fun t : State => t.mem = s.mem ∧ t.scratch = s.scratch) _ _ _ ?_ ⟨by simp, by simp⟩
  intro t p _ ht
  split
  · repeat' split
    all_goals simpa using ht
  · exact ht

@[simp] theorem State.triggerDevice_mem (s : State) (pa : Nat) : (s.triggerDevice pa).mem = s.mem :=
  (State.triggerDevice_same s pa).1
@[simp] theorem State.triggerDevice_scratch (s : State) (pa : Nat) : (s.triggerDevice pa).scratch = s.scratch :=
  (State.triggerDevice_same s pa).2

@[simp] theorem State.setPaByte_scratch (s : State) (pa : Nat) (v : Byte) : (s.setPaByte pa v).scratch = s.scratch := by
  unfold State.setPaByte; split <;> rfl

/-- Memory after a byte is stored: local memory takes it, memory outside leaves local memory as it was. -/
theorem State.setPaByte_mem (s : State) (pa : Nat) (v : Byte) :
    (s.setPaByte pa v).mem = if paRegion pa = 0 then cellWrite s.mem (paLa pa) v else s.mem := by
  unfold State.setPaByte
  by_cases h : paRegion pa = 0 <;> simp [h]

theorem wf_setPaByte {s : State} (pa : Nat) (v : Byte) (h : Memory.wf s = true) : Memory.wf (s.setPaByte pa v) = true := by
  rw [wf_iff] at h ⊢
  refine ⟨?_, by simpa using h.2⟩
  rw [State.setPaByte_mem]
  split
  · exact cellsWf_cellWrite _ _ h.1
  · exact h.1

@[simp] theorem State.setPaBytes_scratch (s : State) (pa v n : Nat) : (s.setPaBytes pa v n).scratch = s.scratch := by
  induction n generalizing s pa v with
  | zero => rfl
  | succ n ih => simp [State.setPaBytes, ih]

theorem wf_setPaBytes {s : State} (pa v n : Nat) (h : Memory.wf s = true) : Memory.wf (s.setPaBytes pa v n) = true := by
  induction n generalizing s pa v with
  | zero => exact h
  | succ n ih => exact ih _ _ (wf_setPaByte pa _ h)

theorem some_of_ite {α : Type} {c : Prop} [Decidable c] {a b : α} (h : (if c then none else some a) = some b) : a = b := by
  split at h <;> simp_all

/-- Backing a line changes no byte: it takes sectors of its die. -/
theorem State.backLine_same {s t : State} {line : Nat} (h : s.backLine line = some t) :
    t.mem = s.mem ∧ t.scratch = s.scratch := by
  unfold State.backLine at h
  rw [← some_of_ite h]
  exact ⟨rfl, rfl⟩

theorem wf_backLine {s t : State} {line : Nat} (hb : s.backLine line = some t) (h : Memory.wf s = true) :
    Memory.wf t = true := (wf_congr (State.backLine_same hb).1 (State.backLine_same hb).2).trans h

/-! ### The event log's ring -/

theorem wf_endWait {s : State} (k : SectorWait) (h : Memory.wf s = true) : Memory.wf (s.endWait k) = true := by
  unfold State.endWait; split <;> exact h

@[simp] theorem wf_modDie (s : State) (d : Nat) (f : Die → Die) : Memory.wf (s.modDie d f) = Memory.wf s := rfl

theorem wf_pushRecord {s : State} (d src kind stamp : Nat) (p : List (Nat × Nat)) (h : Memory.wf s = true) :
    Memory.wf (s.pushRecord d src kind stamp p) = true := by
  unfold State.pushRecord; split <;> exact h

theorem wf_pushCapacity {s : State} (d e : Nat) (h : Memory.wf s = true) : Memory.wf (s.pushCapacity d e) = true :=
  wf_pushRecord _ _ _ _ _ h

theorem wf_pushPress {s : State} (d : Nat) (h : Memory.wf s = true) : Memory.wf (s.pushPress d) = true := by
  unfold State.pushPress; dsimp only; split
  · exact h
  · exact wf_pushCapacity _ _ h

theorem wf_pushWait {s : State} (k : SectorWait) (d : Nat) (h : Memory.wf s = true) : Memory.wf (s.pushWait k d) = true := by
  unfold State.pushWait; split
  · exact h
  · dsimp only; split
    · exact h
    · exact wf_pushCapacity _ _ h

theorem wf_pushCorrected {s : State} (pa : Nat) (b : Bool) (h : Memory.wf s = true) :
    Memory.wf (s.pushCorrected pa b) = true := by
  unfold State.pushCorrected; split
  · exact wf_pushRecord (s := { s with faults := _ }) _ _ _ _ _ h
  · exact h

/-- What becomes of the control command and of the vectors as a record is stored leaves memory as it was. -/
theorem State.sendMsix_same (s : State) (d r : Nat) : (s.sendMsix d r).mem = s.mem ∧ (s.sendMsix d r).scratch = s.scratch := by
  unfold State.sendMsix; split <;> exact ⟨rfl, rfl⟩
theorem State.recordWritten_same (s : State) (d : Nat) :
    (s.recordWritten d).mem = s.mem ∧ (s.recordWritten d).scratch = s.scratch := by
  unfold State.recordWritten; repeat' split
  all_goals exact ⟨rfl, rfl⟩

theorem wf_storeRecord {s t : State} {d r : Nat} (ht : s.storeRecord d r = some t) (h : Memory.wf s = true) :
    Memory.wf t = true := by
  unfold State.storeRecord at ht
  dsimp only at ht
  split at ht
  · cases ht; exact h
  · split at ht
    · cases ht
    · next u hu =>
      cases ht
      rw [wf_modDie, wf_congr (State.triggerDevice_mem _ _) (State.triggerDevice_scratch _ _)]
      have hw := wf_backLine hu (wf_pushCorrected _ _ h)
      exact wf_setPaBytes _ _ _ ((wf_congr (u.sendMsix_same d r).1 (u.sendMsix_same d r).2).trans hw)

theorem wf_storeRecords {s : State} (d n : Nat) (h : Memory.wf s = true) : Memory.wf (s.storeRecords d n) = true := by
  induction n generalizing s with
  | zero => exact h
  | succ n ih =>
    unfold State.storeRecords
    split
    · exact wf_endWait _ h
    · split
      · exact wf_pushWait _ _ h
      · next hu =>
        have hw := wf_storeRecord hu h
        exact ih (wf_pushPress _ ((wf_congr (State.recordWritten_same _ _).1 (State.recordWritten_same _ _).2).trans hw))

theorem wf_storeLogs {s : State} (h : Memory.wf s = true) : Memory.wf s.storeLogs = true := by
  unfold State.storeLogs
  refine foldl_keeps (fun s : State => Memory.wf s = true) _ _ _ (fun s d _ hs => ?_) h
  split
  · exact hs
  · exact wf_storeRecords _ _ hs

theorem wf_logAt {s : State} (d src kind stamp : Nat) (p : List (Nat × Nat)) (h : Memory.wf s = true) :
    Memory.wf (s.logAt d src kind stamp p) = true := wf_storeLogs (wf_pushRecord d src kind stamp p h)

theorem wf_log {s : State} (d src kind : Nat) (p : List (Nat × Nat)) (h : Memory.wf s = true) :
    Memory.wf (s.log d src kind p) = true := wf_logAt d src kind _ p h

theorem wf_notePress {s : State} (d : Nat) (h : Memory.wf s = true) : Memory.wf (s.notePress d) = true :=
  wf_storeLogs (wf_pushPress d h)
theorem wf_noteWait {s : State} (k : SectorWait) (d : Nat) (h : Memory.wf s = true) : Memory.wf (s.noteWait k d) = true :=
  wf_storeLogs (wf_pushWait k d h)

theorem wf_noteCorrected {s : State} (pa : Nat) (b : Bool) (h : Memory.wf s = true) :
    Memory.wf (s.noteCorrected pa b) = true := by
  unfold State.noteCorrected
  split
  · exact wf_storeLogs (wf_pushCorrected pa b h)
  · exact h

theorem wf_makeFlat {s : State} (frame : Nat) (h : Memory.wf s = true) : Memory.wf (s.makeFlat frame) = true := by
  unfold State.makeFlat; dsimp only; split
  · exact h
  · exact wf_notePress _ h

theorem wf_putSector {s t : State} {d pa v : Nat} (ht : s.putSector d pa v = some t) (h : Memory.wf s = true) :
    Memory.wf t = true := by
  unfold State.putSector at ht
  split at ht
  · cases ht; exact h
  · obtain ⟨u, hu, rfl⟩ := Option.map_eq_some_iff.1 ht
    apply wf_notePress
    rw [wf_congr (State.triggerDevice_mem _ _) (State.triggerDevice_scratch _ _)]
    have hw := wf_backLine hu h
    exact wf_setPaBytes _ _ _ hw

/-- A table update of the scratchpads and an update of local memory that keep the form. -/
theorem wf_set_scratch {s : State} (k : Nat) (m : List Host.Cell) (h : Memory.wf s = true) (hm : cellsWf m = true) :
    Memory.wf { s with scratch := Tab.set s.scratch k m } = true := by
  rw [wf_iff] at h ⊢
  exact ⟨h.1, all_set k m h.2 hm⟩

theorem wf_modify_scratch {s : State} (k : Nat) (f : List Host.Cell → List Host.Cell) (h : Memory.wf s = true)
    (hf : ∀ m, cellsWf m = true → cellsWf (f m) = true) :
    Memory.wf { s with scratch := Tab.modify s.scratch k f } = true := by
  rw [wf_iff] at h ⊢
  exact ⟨h.1, all_modify k f hf h.2⟩

theorem wf_scrStore {s : State} (k a v n : Nat) (h : Memory.wf s = true) : Memory.wf (s.scrStore k a v n) = true := by
  unfold State.scrStore
  rw [wf_congr (State.triggerScratch_mem _ _ _ _) (State.triggerScratch_scratch _ _ _ _)]
  rw [wf_iff] at h
  exact wf_set_scratch k _ ((wf_iff s).2 h) (cellsWf_cellStore n a v (cellsWf_getD k h.2))

theorem wf_mendWords (s : State) (k a z : Nat) : Memory.wf (s.mendWords k a z) = Memory.wf s := by
  unfold State.mendWords; dsimp only; split <;> rfl

theorem wf_storeScr {s : State} (k a v z : Nat) (h : Memory.wf s = true) : Memory.wf (s.storeScr k a v z) = true :=
  wf_scrStore k a v z ((wf_mendWords s k a z).trans h)

theorem wf_placeStore {s : State} (p : Place) (v z : Nat) (h : Memory.wf s = true) :
    Memory.wf (s.placeStore p v z) = true := by
  cases p with
  | scr k a => exact wf_storeScr k a v z h
  | reg g j n off => exact h

/-- Local memory alone changed, to another canonical one. -/
theorem wf_of_mem {s : State} (t : State) (hm : cellsWf t.mem = true) (hs : t.scratch = s.scratch) (h : Memory.wf s = true) :
    Memory.wf t = true := (wf_iff t).2 ⟨hm, hs ▸ ((wf_iff s).1 h).2⟩

theorem wf_copyLine {s : State} (src dst : Nat) (h : Memory.wf s = true) : Memory.wf (s.copyLine src dst) = true := by
  unfold State.copyLine
  have h := foldl_keeps (fun s : State => Memory.wf s = true) (fun (s : State) j => s.noteCorrected (64 * (8 * src + j)) false)
    (List.range 8) s (fun s j _ hs => wf_noteCorrected _ _ hs) h
  generalize List.foldl (fun (s : State) j => s.noteCorrected (64 * (8 * src + j)) false) s (List.range 8) = u at h ⊢
  dsimp only
  split
  · exact h
  · refine foldl_keeps (fun s : State => Memory.wf s = true) _ _ _ (fun s j _ hs =>
      (wf_congr (State.triggerDevice_mem _ _) (State.triggerDevice_scratch _ _)).trans hs) ?_
    exact wf_of_mem (s := u) _ (cellsWf_foldl _ _ _ _ ((wf_iff _).1 h).1) rfl h

theorem wf_enterRows {s : State} (k ctx base size : Nat) (run : Nat × Nat) (h : Memory.wf s = true) :
    Memory.wf (s.enterRows k ctx base size run) = true := by
  unfold State.enterRows
  apply foldl_keeps (fun s : State => Memory.wf s = true) _ _ _ _ h
  intro s r _ hs
  have key : ∀ (u : State) y, Memory.wf u = true → Memory.wf { u with lastCtx := y } = true := fun _ _ hu => hu
  apply key
  split
  · exact (wf_mendWords _ _ _ _).trans (wf_modify_scratch k _ hs fun m => cellsWf_filter _)
  · exact hs

/-- An upset changes what is known of stored bits, never a byte of memory or of a scratchpad. -/
theorem State.upset_same (s : State) (u : Upset) : (s.upset u).mem = s.mem ∧ (s.upset u).scratch = s.scratch := by
  unfold State.upset
  cases u <;> dsimp only <;> (try split) <;> exact ⟨rfl, rfl⟩

theorem wf_upset {s : State} (u : Upset) (h : Memory.wf s = true) : Memory.wf (s.upset u) = true :=
  (wf_congr (s.upset_same u).1 (s.upset_same u).2).trans h

/-- The memory of reset has the form. -/
theorem wf_reset : Memory.wf State.reset = true := by decide

theorem wf_withFetchWord {s : State} (nbits w : Nat) (h : Memory.wf s = true) : Memory.wf (s.withFetchWord nbits w) = true := by
  rw [wf_iff] at h ⊢
  have hm : (s.withFetchWord nbits w).mem = cellStore [] 0x10000 (probeLine w) 64 := by rw [State.withFetchWord]
  have hs : (s.withFetchWord nbits w).scratch = s.scratch := rfl
  rw [hm, hs]
  exact ⟨cellsWf_cellStore 64 0x10000 (probeLine w) (m := []) (by decide), h.2⟩

end Sys2Proof.Machine
end

