-- ==== Sys2Proof/Tests/Slice0.lean ====
section
/-! SUPPORT. The model's own tests: words and refusals, single steps with the manual's own numbers, and for each statement of
the certificate a state that meets its hypotheses. -/

namespace Sys2Proof.Tests
set_option Elab.async false
open Sys2Proof Sys2Proof.Machine Sys2Proof.Slice0

/-! ### Small states -/

/-- One group of eight fibres issues at PC 0x10000; every lane holds v1, v2, v3 as given. -/
def eight : Issue :=
  { core := 0, team := 0, width := 8, slots := (List.range 8).map fun j => some (0, j), entry := List.range 8
    pc := 0x10000, stopPc := 0x10000, next := 0x1000C }
def rig (a b c : Nat) : State :=
  { (State.reset.withFetchWord 96 0).modGroup 0 (fun gr => { gr with
      lanes := List.replicate 8 { regs := [(1, BitVec.ofNat 32 a), (2, BitVec.ofNat 32 b), (3, BitVec.ofNat 32 c)] } }) with
    agenda := [], cur := some eight }

/-- Two free fibres of a stream team issue together. -/
def pair : Issue :=
  { core := 0, team := 0, stream := true, width := 8, slots := [some (0, 0), some (1, 0)], entry := [0, 1]
    pc := 0x10000, stopPc := 0x10000, next := 0x1000C }
def fibre (n : Nat) : Group := { team := 0, width := 1, slot0 := n, lanes := [{}], frontier := [{ pc := 0x10000, lanes := [0] }] }
def streamRig : State :=
  { (State.reset.withFetchWord 96 0).modTeam 0 (fun t => { t with stream := true }) with
    groups := [(0, fibre 0), (1, fibre 1)], agenda := [], cur := some pair }

/-- What a step or an instruction answers, read from its next state. -/
def read {α : Type} (r : Res) (get : State → α) : Option α :=
  match r with | .next t => some (get t) | _ => none
def out (i : Instr) (s : State) : Option (Nat × Nat) := read (exec i s) fun t => ((t.group 0).reg 0 4, (t.sharedOf 0).flags.toNat)
def scal (i : Instr) (s : State) (n : Nat) : Option Nat := read (exec i s) fun t => (t.group 0).scal n
def preds (i : Instr) (s : State) (n : Nat) : Option (List Bool) :=
  read (exec i s) fun t => (List.range 8).map fun j => ((t.group 0).pred j).getLsbD n
def lanesOf (i : Instr) (s : State) (n : Nat) : Option (List Nat) := read (exec i s) fun t => (List.range 8).map fun j => (t.group 0).reg j n
def cause (r : Res) : Option Nat := read r fun t => (t.group 0).cause.toNat % 2 ^ 16
def set (s : State) (n v : Nat) : State := s.modGroup 0 fun gr => gr.setScal n v
/-- Lane `j` of register `n` holds the `j`-th value. -/
def spread (s : State) (n : Nat) (vs : List Nat) : State :=
  s.modGroup 0 fun gr => (List.range 8).foldl (fun gr j => gr.setReg j n (vs.getD j 0)) gr

def fields (d a ap b bp c cp x : Nat) : Fields :=
  { d := BitVec.ofNat 8 d, a := BitVec.ofNat 8 a, ap := BitVec.ofNat 4 ap, b := BitVec.ofNat 8 b, bp := BitVec.ofNat 4 bp
    c := BitVec.ofNat 8 c, cp := BitVec.ofNat 4 cp, x := BitVec.ofNat 32 x }
/-- D = 4, A = 1, B = 2, C = 3. -/
def abc (x : Nat) : Fields := fields 4 1 0 2 0 3 0 x
def ab (x : Nat) : Fields := fields 4 1 0 2 0 0 0 x
def a1 (x : Nat) : Fields := fields 4 1 0 0 0 0 0 x

/-! ### `Sound` is a finite question -/

def seatedB (s : State) (i : Issue) (l : Nat) : Bool :=
  match i.at? l with
  | some (g, j) => (Tab.get? s.groups g).isSome && (s.group g).team == i.team &&
      match (s.group g).lanes[j]? with | some ln => ln.live | none => false
  | none => false

def soundB (s : State) (i : Issue) : Bool :=
  decide i.entry.Nodup && i.entry.all (seatedB s i) && (i.entry.all fun l => i.entry.all fun k => i.at? l != i.at? k || l == k) &&
  (Tab.get? s.teams i.team).isSome && (s.teamOf i.team).stream == i.stream &&
  (i.entry.all fun l => i.entry.all fun k => if i.stream then (i.at? l).map Prod.fst != (i.at? k).map Prod.fst || l == k
    else (i.at? l).map Prod.fst == (i.at? k).map Prod.fst) &&
  decide (s.groups.map Prod.fst).Nodup && (s.groups.all fun p => !(s.teamOf p.2.team).stream || p.2.lanes.length == 1) && Memory.wf s

theorem sound_of {s : State} {i : Issue} (hc : s.cur = some i) (h : soundB s i = true) : Sound s i := by
  simp only [soundB, Bool.and_eq_true, List.all_eq_true, decide_eq_true_eq, beq_iff_eq, bne_iff_ne, Bool.or_eq_true,
    Bool.not_eq_true'] at h
  obtain ⟨⟨⟨⟨⟨⟨⟨⟨h1, h2⟩, h3⟩, h4⟩, h5⟩, h6⟩, h7⟩, h8⟩, h9⟩ := h
  refine ⟨hc, h1, fun l hl => ?_, fun l hl k hk e => ?_, h4, h5, fun hs l hl k hk e => ?_, fun hs l hl k hk => ?_, h7,
    fun p hp hs => ?_, h9⟩
  · have := h2 l hl
    unfold seatedB at this
    split at this
    · rename_i g j e
      simp only [Bool.and_eq_true, beq_iff_eq] at this
      obtain ⟨⟨x, y⟩, z⟩ := this
      split at z
      · exact ⟨g, j, e, x, y, _, by assumption, z⟩
      · cases z
    · cases this
  · rcases h3 l hl k hk with x | x
    · exact absurd e x
    · exact x
  · have := h6 l hl k hk
    rw [if_pos hs] at this
    simp only [Bool.or_eq_true, bne_iff_ne, beq_iff_eq] at this
    rcases this with x | x
    · exact absurd e x
    · exact x
  · have := h6 l hl k hk
    rw [if_neg (by simp [hs])] at this
    simpa using this
  · rcases h8 p hp with x | x
    · rw [hs] at x; cases x
    · exact x

theorem rig_sound : Sound (rig 0 0 0) eight := sound_of rfl (by decide +kernel)
theorem streamRig_sound : Sound streamRig pair := sound_of rfl (by decide +kernel)

/-! ### Ill-formed instructions, one for each check (03 R66-R71, 06 R167) -/

theorem test_refused_by_well_formedness : ([
    -- GE = 0 with GP named
    .iadd .vr { ge := false, gi := false, gp := 1 } (ab 3),
    -- GE = 0 with GI
    .iadd .vr { ge := false, gi := true, gp := 0 } (ab 3),
    -- a field the instruction does not name
    .iadd .vr plainWord (fields 4 1 0 2 0 3 0 3),
    -- a pattern on an unused field
    .iabs .vr plainWord (fields 4 1 0 0 1 0 0 3),
    -- a type outside the table: IADD of f32
    .iadd .vr plainWord (ab 9),
    -- a code that names no type
    .iadd .vr plainWord (ab 0x3F),
    -- a reserved bit of X
    .iadd .vr plainWord (ab (3 + 2 ^ 20)),
    -- a form that the mnemonic does not have
    .idiv .vi plainWord (fields 4 1 0 0 0 3 0 7),
    -- BSWAP of w = 8
    .bswap .vr plainWord (a1 1),
    -- scale bits of ALEA above X[14:12]
    .alea .vr plainWord (fields 4 2 0 6 0 0 0 (3 + 2 ^ 15)),
    -- VSPK keeping none
    .vspk plainWord (a1 9),
    -- a condition of BRC that Table 5.7 does not name
    .brc plainWord (fields 10 0 0 1 0 2 0 0),
    -- PCRD at slot 5
    .pcrd plainWord (fields 4 0 0 0 0 0 0 (5 * 2 ^ 27)),
    -- an illegal-instruction word whose OP is not 0xFF
    .illegalInstruction 0,
    -- units that do not exist
    .xacqGrant 512, .clusterConfigWrite 64 true, .launchQueueDoorbell 0 1024 0, .graphStart 4 0, .flitReceive 0 2 0 true,
    .allreduceGenerationComplete 16, .gtcSync 4, .hostAccess true 1 0 0, .nodeTeamLaunch 0 0 256, .teamPlacement 0 0 256]
      : List Instr).all (fun i => !i.wf) = true := by decide +kernel

theorem test_refused_by_decode :
    decode 0x8000000000000000 = .error .reserved ∧ decode 0x900 = .error .unassigned ∧ decode 0x2000 = .ok (.nop { ge := false, gi := true, gp := 0 }
      (plainFields 0 0 0 0 0)) ∧
    decodeTableWord 97 0 = none := ⟨rfl, rfl, rfl, rfl⟩

/-! ### Words written out from the manual's encodings: one or more of each family -/

theorem test_decode_words :
    decode 0x002430070002008008180067 =
      .ok (.vcmpx plainWord { d := 3, a := 1, ap := 0, b := 1, bp := 4, c := 0, cp := 0, x := 0x00243007 }) ∧
    decode 0x000000630000000000000810 = .ok (.bar plainWord (plainFields 0 0 0 0 0x63)) ∧
    decode 0x000000120000000048000813 = .ok (.psendCmt plainWord (plainFields 0 9 0 0 0x12)) ∧
    decode 0x000007010080000000600521 = .ok (.hgath plainWord (plainFields 12 0 0 16 0x701)) ∧
    decode 0x000000060000000030A00540 = .ok (.nmadd plainWord (plainFields 20 6 0 0 6)) ∧
    decode 0x000000060000000000A80544 = .ok (.nmfence plainWord (plainFields 21 0 0 0 6)) ∧
    decode 0x000000220000000030A00550 = .ok (.ared plainWord (plainFields 20 6 0 0 0x22)) ∧
    decode 0x000002020000000020800504 = .ok (.cpa plainWord (plainFields 16 4 0 0 0x202)) ∧
    decode 0x0000000C000000002048081D = .ok (.vacq plainWord (plainFields 9 4 0 0 0xC)) ∧
    decode 0x00000006000000000000081F = .ok (.fence plainWord (plainFields 0 0 0 0 6)) :=
  ⟨rfl, rfl, rfl, rfl, rfl, rfl, rfl, rfl, rfl, rfl⟩

/-- The word comes back, and is the instruction. -/
def good (i : Instr) : Bool :=
  i.wf && match encode i with
    | some w => match decode w with | .ok j => decide (j = i) | .error _ => false
    | none => false

def forms0 : List Instr :=
  [.nop plainWord (fields 0 0 0 0 0 0 0 0),
   .mov .vr plainWord (fields 8 4 0 0 0 0 0 1),
   .mov .vi plainWord (fields 8 0 0 0 0 3 0 0),
   .mov .sr plainWord (fields 8 4 0 0 0 0 0 1),
   .mov .si plainWord (fields 8 0 0 0 0 3 0 0),
   .isel .vr plainWord (fields 8 4 0 12 0 0 0 1),
   .isel .sr plainWord (fields 8 4 0 12 0 0 0 1),
   .ppack plainWord (fields 8 0 0 0 0 0 0 0),
   .punpk plainWord (fields 0 4 0 0 0 0 0 0),
   .pset plainWord (fields 8 0 0 0 0 0 0 0),
   .pmov .vr plainWord (fields 8 0 0 0 0 0 0 34),
   .pmov .sr plainWord (fields 8 0 0 0 0 0 0 34),
   .icmp .vr plainWord (fields 8 4 0 12 0 0 0 1),
   .icmp .vi plainWord (fields 8 4 0 0 0 3 0 0),
   .icmp .sr plainWord (fields 8 4 0 12 0 0 0 1),
   .icmp .si plainWord (fields 8 4 0 0 0 3 0 0)]

def forms1 : List Instr :=
  [.aadd .vr plainWord (fields 8 4 0 12 0 0 0 3),
   .aadd .vi plainWord (fields 8 4 0 0 0 3 0 0),
   .aadd .sr plainWord (fields 8 4 0 12 0 0 0 3),
   .aadd .si plainWord (fields 8 4 0 0 0 3 0 0),
   .alea .vr plainWord (fields 8 4 0 12 0 0 0 3),
   .alea .sr plainWord (fields 8 4 0 12 0 0 0 3),
   .achk .vr plainWord (fields 8 4 0 12 0 16 0 8),
   .achk .sr plainWord (fields 8 4 0 12 0 16 0 8),
   .iadd .vr plainWord (fields 8 4 0 12 0 0 0 1),
   .iadd .vi plainWord (fields 8 4 0 0 0 3 0 0),
   .iadd .sr plainWord (fields 8 4 0 12 0 0 0 1),
   .iadd .si plainWord (fields 8 4 0 0 0 3 0 0),
   .isub .vr plainWord (fields 8 4 0 12 0 0 0 1),
   .isub .vi plainWord (fields 8 4 0 0 0 3 0 0),
   .isub .sr plainWord (fields 8 4 0 12 0 0 0 1),
   .isub .si plainWord (fields 8 4 0 0 0 3 0 0)]

def forms2 : List Instr :=
  [.imul .vr plainWord (fields 8 4 0 12 0 0 0 1),
   .imul .vi plainWord (fields 8 4 0 0 0 3 0 0),
   .imul .sr plainWord (fields 8 4 0 12 0 0 0 1),
   .imul .si plainWord (fields 8 4 0 0 0 3 0 0),
   .imulh .vr plainWord (fields 8 4 0 12 0 0 0 1),
   .imulh .sr plainWord (fields 8 4 0 12 0 0 0 1),
   .imulw .vr plainWord (fields 8 4 0 12 0 0 0 1),
   .imulw .sr plainWord (fields 8 4 0 12 0 0 0 1),
   .imad .vr plainWord (fields 8 4 0 12 0 16 0 1),
   .imad .sr plainWord (fields 8 4 0 12 0 16 0 1),
   .idiv .vr plainWord (fields 8 4 0 12 0 0 0 1),
   .idiv .sr plainWord (fields 8 4 0 12 0 0 0 1),
   .irem .vr plainWord (fields 8 4 0 12 0 0 0 1),
   .irem .sr plainWord (fields 8 4 0 12 0 0 0 1),
   .imin .vr plainWord (fields 8 4 0 12 0 0 0 1),
   .imin .vi plainWord (fields 8 4 0 0 0 3 0 0)]

def forms3 : List Instr :=
  [.imin .sr plainWord (fields 8 4 0 12 0 0 0 1),
   .imin .si plainWord (fields 8 4 0 0 0 3 0 0),
   .imax .vr plainWord (fields 8 4 0 12 0 0 0 1),
   .imax .vi plainWord (fields 8 4 0 0 0 3 0 0),
   .imax .sr plainWord (fields 8 4 0 12 0 0 0 1),
   .imax .si plainWord (fields 8 4 0 0 0 3 0 0),
   .iabs .vr plainWord (fields 8 4 0 0 0 0 0 1),
   .iabs .sr plainWord (fields 8 4 0 0 0 0 0 1),
   .ineg .vr plainWord (fields 8 4 0 0 0 0 0 1),
   .ineg .sr plainWord (fields 8 4 0 0 0 0 0 1),
   .iadds .vr plainWord (fields 8 4 0 12 0 0 0 1),
   .iadds .vi plainWord (fields 8 4 0 0 0 3 0 0),
   .iadds .sr plainWord (fields 8 4 0 12 0 0 0 1),
   .iadds .si plainWord (fields 8 4 0 0 0 3 0 0),
   .isubs .vr plainWord (fields 8 4 0 12 0 0 0 1),
   .isubs .vi plainWord (fields 8 4 0 0 0 3 0 0)]

def forms4 : List Instr :=
  [.isubs .sr plainWord (fields 8 4 0 12 0 0 0 1),
   .isubs .si plainWord (fields 8 4 0 0 0 3 0 0),
   .isad .vr plainWord (fields 8 4 0 12 0 16 0 1),
   .isad .sr plainWord (fields 8 4 0 12 0 16 0 1),
   .idot4 plainWord (fields 8 4 0 12 0 16 0 3),
   .and_ .vr plainWord (fields 8 4 0 12 0 0 0 1),
   .and_ .vi plainWord (fields 8 4 0 0 0 3 0 0),
   .and_ .sr plainWord (fields 8 4 0 12 0 0 0 1),
   .and_ .si plainWord (fields 8 4 0 0 0 3 0 0),
   .or_ .vr plainWord (fields 8 4 0 12 0 0 0 1),
   .or_ .vi plainWord (fields 8 4 0 0 0 3 0 0),
   .or_ .sr plainWord (fields 8 4 0 12 0 0 0 1),
   .or_ .si plainWord (fields 8 4 0 0 0 3 0 0),
   .xor_ .vr plainWord (fields 8 4 0 12 0 0 0 1),
   .xor_ .vi plainWord (fields 8 4 0 0 0 3 0 0),
   .xor_ .sr plainWord (fields 8 4 0 12 0 0 0 1)]

def forms5 : List Instr :=
  [.xor_ .si plainWord (fields 8 4 0 0 0 3 0 0),
   .not_ .vr plainWord (fields 8 4 0 0 0 0 0 1),
   .not_ .sr plainWord (fields 8 4 0 0 0 0 0 1),
   .andn .vr plainWord (fields 8 4 0 12 0 0 0 1),
   .andn .vi plainWord (fields 8 4 0 0 0 3 0 0),
   .andn .sr plainWord (fields 8 4 0 12 0 0 0 1),
   .andn .si plainWord (fields 8 4 0 0 0 3 0 0),
   .shl .vr plainWord (fields 8 4 0 12 0 0 0 1),
   .shl .vi plainWord (fields 8 4 0 0 0 3 0 0),
   .shl .sr plainWord (fields 8 4 0 12 0 0 0 1),
   .shl .si plainWord (fields 8 4 0 0 0 3 0 0),
   .shr .vr plainWord (fields 8 4 0 12 0 0 0 1),
   .shr .vi plainWord (fields 8 4 0 0 0 3 0 0),
   .shr .sr plainWord (fields 8 4 0 12 0 0 0 1),
   .shr .si plainWord (fields 8 4 0 0 0 3 0 0),
   .sar .vr plainWord (fields 8 4 0 12 0 0 0 1)]

def forms6 : List Instr :=
  [.sar .vi plainWord (fields 8 4 0 0 0 3 0 0),
   .sar .sr plainWord (fields 8 4 0 12 0 0 0 1),
   .sar .si plainWord (fields 8 4 0 0 0 3 0 0),
   .rot .vr plainWord (fields 8 4 0 12 0 0 0 1),
   .rot .vi plainWord (fields 8 4 0 0 0 3 0 0),
   .rot .sr plainWord (fields 8 4 0 12 0 0 0 1),
   .rot .si plainWord (fields 8 4 0 0 0 3 0 0),
   .bfx .vr plainWord (fields 8 4 0 12 0 0 0 1),
   .bfx .vi plainWord (fields 8 4 0 0 0 3 0 0),
   .bfx .sr plainWord (fields 8 4 0 12 0 0 0 1),
   .bfx .si plainWord (fields 8 4 0 0 0 3 0 0),
   .bfi .vr plainWord (fields 8 4 0 12 0 16 0 1),
   .bfi .vi plainWord (fields 8 4 0 12 0 3 0 0),
   .bfi .sr plainWord (fields 8 4 0 12 0 16 0 1),
   .bfi .si plainWord (fields 8 4 0 12 0 3 0 0),
   .popc .vr plainWord (fields 8 4 0 0 0 0 0 1)]

def forms7 : List Instr :=
  [.popc .sr plainWord (fields 8 4 0 0 0 0 0 1),
   .clz .vr plainWord (fields 8 4 0 0 0 0 0 1),
   .clz .sr plainWord (fields 8 4 0 0 0 0 0 1),
   .ctz .vr plainWord (fields 8 4 0 0 0 0 0 1),
   .ctz .sr plainWord (fields 8 4 0 0 0 0 0 1),
   .brev .vr plainWord (fields 8 4 0 0 0 0 0 1),
   .brev .sr plainWord (fields 8 4 0 0 0 0 0 1),
   .bswap .vr plainWord (fields 8 4 0 0 0 0 0 2),
   .bswap .sr plainWord (fields 8 4 0 0 0 0 0 2),
   .fadd .vr plainWord (fields 8 4 0 12 0 0 0 9),
   .fadd .vi plainWord (fields 8 4 0 0 0 9 0 0),
   .fsub .vr plainWord (fields 8 4 0 12 0 0 0 9),
   .fsub .vi plainWord (fields 8 4 0 0 0 9 0 0),
   .fmul .vr plainWord (fields 8 4 0 12 0 0 0 9),
   .fmul .vi plainWord (fields 8 4 0 0 0 9 0 0),
   .ffma .vr plainWord (fields 8 4 0 12 0 16 0 9)]

def forms8 : List Instr :=
  [.ffma .vi plainWord (fields 8 4 0 12 0 9 0 0),
   .ffms .vr plainWord (fields 8 4 0 12 0 16 0 9),
   .ffms .vi plainWord (fields 8 4 0 12 0 9 0 0),
   .fnma .vr plainWord (fields 8 4 0 12 0 16 0 9),
   .fnma .vi plainWord (fields 8 4 0 12 0 9 0 0),
   .fmin .vr plainWord (fields 8 4 0 12 0 0 0 9),
   .fmin .vi plainWord (fields 8 4 0 0 0 9 0 0),
   .fmax .vr plainWord (fields 8 4 0 12 0 0 0 9),
   .fmax .vi plainWord (fields 8 4 0 0 0 9 0 0),
   .fabs plainWord (fields 8 4 0 0 0 0 0 9),
   .fneg plainWord (fields 8 4 0 0 0 0 0 9),
   .fcpys plainWord (fields 8 4 0 12 0 0 0 9),
   .fcmp .vr plainWord (fields 8 4 0 12 0 0 0 9),
   .fcmp .vi plainWord (fields 8 4 0 0 0 9 0 0),
   .fclass plainWord (fields 8 4 0 0 0 0 0 9),
   .frnd plainWord (fields 8 4 0 0 0 0 0 9)]

def forms9 : List Instr :=
  [.ffrac plainWord (fields 8 4 0 0 0 0 0 9),
   .fscale .vr plainWord (fields 8 4 0 12 0 0 0 9),
   .fscale .vi plainWord (fields 8 4 0 0 0 9 0 0),
   .fdiv plainWord (fields 8 4 0 12 0 0 0 9),
   .fsqrt plainWord (fields 8 4 0 0 0 0 0 9),
   .frcp plainWord (fields 8 4 0 0 0 0 0 9),
   .frsq plainWord (fields 8 4 0 0 0 0 0 9),
   .fexp2 plainWord (fields 8 4 0 0 0 0 0 9),
   .flog2 plainWord (fields 8 4 0 0 0 0 0 9),
   .fsin plainWord (fields 8 4 0 0 0 0 0 9),
   .fcos plainWord (fields 8 4 0 0 0 0 0 9),
   .ftanh plainWord (fields 8 4 0 0 0 0 0 9),
   .fsigm plainWord (fields 8 4 0 0 0 0 0 9),
   .frelu plainWord (fields 8 4 0 0 0 0 0 9),
   .fclmp .vr plainWord (fields 8 4 0 12 0 16 0 9),
   .fclmp .vi plainWord (fields 8 4 0 12 0 9 0 0)]

def forms10 : List Instr :=
  [.fmaxa plainWord (fields 8 4 0 12 0 0 0 9),
   .flerp plainWord (fields 8 4 0 12 0 16 0 9),
   .fdot2 plainWord (fields 8 4 0 12 0 16 0 649),
   .fgete plainWord (fields 8 4 0 0 0 0 0 9),
   .fgetm plainWord (fields 8 4 0 0 0 0 0 9),
   .fcvt plainWord (fields 8 4 0 0 0 0 0 73),
   .icvt plainWord (fields 8 4 0 0 0 0 0 66),
   .qnt plainWord (fields 8 4 0 0 0 0 0 594),
   .dqnt plainWord (fields 8 4 0 0 0 0 0 1161),
   .shfl plainWord (fields 8 4 0 12 0 0 0 34),
   .shfli .vr plainWord (fields 8 4 0 0 0 0 0 34),
   .shfli .vi plainWord (fields 8 4 0 0 0 34 0 0),
   .vred plainWord (fields 8 4 0 0 0 0 0 1),
   .vscan plainWord (fields 8 4 0 0 0 0 0 1),
   .vsegs plainWord (fields 8 4 0 0 0 0 0 1),
   .vbal plainWord (fields 8 0 0 0 0 0 0 0)]

def forms11 : List Instr :=
  [.vvote plainWord (fields 8 0 0 0 0 0 0 0),
   .vmatch plainWord (fields 8 4 0 0 0 0 0 34),
   .vcomp plainWord (fields 8 4 0 0 0 0 0 34),
   .xacq .sr plainWord (fields 0 4 0 0 0 0 0 0),
   .xrel .sr plainWord (fields 0 4 0 0 0 0 0 0),
   .winset .sr plainWord (fields 8 4 0 0 0 0 0 0),
   .xqry plainWord (fields 8 0 0 0 0 0 0 0),
   .lds plainWord (fields 8 4 0 0 0 0 0 1048576),
   .sts plainWord (fields 0 4 0 0 0 16 0 1048576),
   .ats plainWord (fields 8 4 0 0 0 16 0 3145728),
   .ldsb plainWord (fields 8 4 15 0 0 0 0 35651584),
   .ldss plainWord (fields 8 4 15 0 0 0 0 1048576),
   .stss plainWord (fields 0 4 15 0 0 16 15 1048576),
   .ldsl plainWord (fields 8 4 15 0 0 0 0 35651584),
   .stsl plainWord (fields 0 4 15 0 0 16 0 35651584),
   .lda plainWord (fields 8 4 0 0 0 0 0 1048576)]

def forms12 : List Instr :=
  [.sta plainWord (fields 0 4 0 0 0 16 0 1048576),
   .ata plainWord (fields 8 4 0 0 0 16 0 3145728),
   .ldc plainWord (fields 8 4 0 0 0 0 0 1048576),
   .stc plainWord (fields 0 4 0 0 0 16 0 1048576),
   .atc plainWord (fields 8 4 0 0 0 16 0 3145728),
   .mzro plainWord (fields 0 0 0 0 0 0 0 0),
   .mldb plainWord (fields 0 4 0 12 0 0 0 11),
   .mma plainWord (fields 0 4 0 12 0 0 0 11),
   .mmat plainWord (fields 0 4 0 12 0 0 0 12),
   .mdrn plainWord (fields 0 4 0 0 0 0 0 9),
   .mxpose plainWord (fields 0 4 0 12 0 0 0 585),
   .mqef plainWord (fields 0 4 0 12 0 0 0 12),
   .mldsh plainWord (fields 0 4 0 0 0 16 0 2147483648),
   .mrda plainWord (fields 0 4 0 0 0 0 0 0),
   .mwra plainWord (fields 0 4 0 0 0 0 0 0),
   .mseq plainWord (fields 8 0 0 0 0 0 0 0)]

def forms13 : List Instr :=
  [.maddt plainWord (fields 0 4 0 4 0 0 0 0),
   .mscl plainWord (fields 0 4 0 12 0 0 0 0),
   .cpg plainWord (fields 8 4 0 0 0 0 0 0),
   .cps plainWord (fields 8 4 0 0 0 0 0 0),
   .cpt plainWord (fields 8 4 0 0 0 0 0 0),
   .cpr plainWord (fields 8 4 0 0 0 0 0 0),
   .cpa plainWord (fields 8 4 0 0 0 0 0 195),
   .cpq plainWord (fields 8 4 0 0 0 0 0 0),
   .cpf plainWord (fields 8 4 0 0 0 0 0 0),
   .cpgx plainWord (fields 8 4 0 0 0 0 0 0),
   .cpsx plainWord (fields 8 4 0 0 0 0 0 0),
   .cpm plainWord (fields 8 4 0 0 0 0 0 0),
   .tex plainWord (fields 8 4 0 12 0 16 0 0),
   .texn plainWord (fields 8 4 0 12 0 16 0 0),
   .txq plainWord (fields 8 4 0 12 0 16 0 0),
   .texg plainWord (fields 8 4 0 12 0 16 0 0)]

def forms14 : List Instr :=
  [.rbox plainWord (fields 8 4 0 12 0 16 0 0),
   .rtri plainWord (fields 8 4 0 12 0 16 0 0),
   .rpush plainWord (fields 8 4 0 12 0 16 0 0),
   .rpop plainWord (fields 8 0 0 12 0 16 0 0),
   .hcfg plainWord (fields 8 4 0 0 0 0 0 0),
   .hgath plainWord (fields 8 4 0 0 0 16 0 0),
   .hscat plainWord (fields 8 4 0 12 0 0 0 0),
   .tspawn plainWord (fields 8 4 0 0 0 0 0 0),
   .trange plainWord (fields 8 4 0 0 0 0 0 0),
   .tsend plainWord (fields 8 4 0 0 0 0 0 0),
   .tdone plainWord (fields 8 0 0 0 0 0 0 0),
   .trecv plainWord (fields 8 4 0 0 0 0 0 0),
   .tqry plainWord (fields 8 0 0 0 0 0 0 0),
   .tclose plainWord (fields 8 0 0 0 0 0 0 0),
   .tgrain plainWord (fields 8 0 0 12 0 16 0 0),
   .nmadd plainWord (fields 8 4 0 0 0 0 0 0)]

def forms15 : List Instr :=
  [.nmred plainWord (fields 8 4 0 0 0 0 0 0),
   .nmscl plainWord (fields 8 4 0 0 0 0 0 0),
   .nmopt plainWord (fields 8 4 0 0 0 0 0 0),
   .nmfence plainWord (fields 8 4 0 12 0 0 0 0),
   .nmq plainWord (fields 8 0 0 0 0 0 0 0),
   .ared plainWord (fields 8 4 0 0 0 0 0 0),
   .arwait plainWord (fields 8 0 0 12 0 0 0 0),
   .arcfg plainWord (fields 8 4 0 0 0 0 0 0),
   .arqry plainWord (fields 8 0 0 0 0 0 0 0),
   .bra plainWord (fields 0 0 0 0 0 0 0 0),
   .brc plainWord (fields 8 0 0 12 0 16 0 0),
   .brany plainWord (fields 0 0 0 12 0 0 0 0),
   .brall plainWord (fields 0 0 0 12 0 0 0 0),
   .brnone plainWord (fields 0 0 0 12 0 0 0 0),
   .brz plainWord (fields 0 0 0 12 0 0 0 0),
   .brnz plainWord (fields 0 0 0 12 0 0 0 0)]

def forms16 : List Instr :=
  [.loop plainWord (fields 0 0 0 12 0 0 0 0),
   .jmp plainWord (fields 0 4 0 0 0 0 0 0),
   .jmpt plainWord (fields 0 0 0 12 0 16 0 0),
   .call plainWord (fields 8 0 0 0 0 0 0 0),
   .callr plainWord (fields 8 4 0 0 0 0 0 0),
   .ret plainWord (fields 0 4 0 0 0 0 0 0),
   .enter plainWord (fields 0 0 0 0 0 0 0 0),
   .leave plainWord (fields 0 0 0 0 0 0 0 0),
   .fspawn plainWord (fields 8 0 0 0 0 0 0 0),
   .fspawnr plainWord (fields 8 4 0 0 0 0 0 0),
   .fend plainWord (fields 0 0 0 0 0 0 0 0),
   .yield plainWord (fields 0 0 0 0 0 0 0 0),
   .waitc plainWord (fields 0 0 0 0 0 0 0 0),
   .pcrd plainWord (fields 8 0 0 0 0 0 0 0),
   .srrd plainWord (fields 8 0 0 0 0 0 0 0),
   .srwr plainWord (fields 0 4 0 0 0 0 0 0)]

def forms17 : List Instr :=
  [.gtcrd plainWord (fields 8 0 0 0 0 0 0 0),
   .trapi plainWord (fields 0 0 0 0 0 0 0 0),
   .eret plainWord (fields 0 0 0 0 0 0 0 0),
   .emret plainWord (fields 0 0 0 0 0 0 0 0),
   .bkpt plainWord (fields 0 0 0 0 0 0 0 0),
   .ifence plainWord (fields 0 0 0 0 0 0 0 0),
   .evlog plainWord (fields 0 4 0 0 0 0 0 0),
   .cflsh plainWord (fields 0 0 0 0 0 0 0 0),
   .cinv plainWord (fields 0 4 0 12 0 0 0 0),
   .ctxrd plainWord (fields 8 0 0 0 0 0 0 0),
   .bar plainWord (fields 0 0 0 0 0 0 0 0),
   .arrive plainWord (fields 8 0 0 0 0 0 0 0),
   .waitb plainWord (fields 0 0 0 0 0 0 0 0),
   .psendRsv plainWord (fields 8 0 0 0 0 0 0 0),
   .psendCmt plainWord (fields 0 4 0 0 0 0 0 16),
   .precv plainWord (fields 8 0 0 0 0 0 0 0)]

def forms18 : List Instr :=
  [.pfree plainWord (fields 0 4 0 0 0 0 0 0),
   .pqry plainWord (fields 8 0 0 0 0 0 0 0),
   .mon plainWord (fields 0 4 0 0 0 0 0 0),
   .mwait plainWord (fields 8 4 0 0 0 0 0 0),
   .trdy plainWord (fields 0 4 0 12 0 0 0 0),
   .twait plainWord (fields 8 4 0 12 0 16 0 0),
   .tclr plainWord (fields 0 4 0 0 0 0 0 0),
   .vpub plainWord (fields 0 4 0 12 0 0 0 0),
   .vacq plainWord (fields 8 4 0 0 0 0 0 0),
   .vrel plainWord (fields 8 4 0 12 0 0 0 0),
   .fence plainWord (fields 0 0 0 0 0 0 0 0),
   .vspk plainWord (fields 4 1 0 0 0 0 0 16393),
   .vcmpx plainWord (fields 3 1 0 1 4 0 0 2371591),
   .xacq .si plainWord (fields 0 0 0 0 0 0 0 2),
   .xrel .si plainWord (fields 0 0 0 0 0 0 0 2),
   .winset .si plainWord (fields 4 0 0 0 0 0 0 2)]

def forms19 : List Instr :=
  [.mstsh plainWord (fields 0 1 0 0 0 0 0 2147483712)]

/-- Every encoded instruction has, in each of its register forms, a well-formed word, and that word decodes to it. -/
theorem test_every_form_is_well_formed :
    (forms0.all good && forms1.all good && forms2.all good && forms3.all good && forms4.all good && forms5.all good && forms6.all good && forms7.all good && forms8.all good && forms9.all good && forms10.all good && forms11.all good && forms12.all good && forms13.all good && forms14.all good && forms15.all good && forms16.all good && forms17.all good && forms18.all good && forms19.all good) = true := by decide +kernel
/-! ### Single instructions, with the manual's numbers -/

/-- Table 5.4. -/
theorem test_boundary_results :
    [out (.iadds .vr plainWord (ab 1)) (rig 100 100 0), out (.isubs .vr plainWord (ab 5)) (rig 3 5 0),
     out (.idiv .vr plainWord (ab 1)) (rig 0x80 0xFF 0), out (.idiv .vr plainWord (ab 3)) (rig 7 0 0),
     out (.irem .vr plainWord (ab 3)) (rig 7 0 0), out (.irem .vr plainWord (ab 3)) (rig 0xFFFFFFF9 2 0),
     out (.imulh .vr plainWord (ab 1)) (rig 0x80 127 0), out (.imulw .vr plainWord (ab 6)) (rig 0xFFFF 0xFFFF 0),
     out (.isad .vr plainWord (abc 5)) (rig 3 250 10), out (.idot4 plainWord (abc 3)) (rig 0xFF0203FE 0x04100205 100),
     out (.idot4 plainWord (abc 7)) (rig 0xFF0203FE 0x04100205 100)] =
    [some (0x7F, 32), some (0, 32), some (0x80, 0), some (0, 2), some (7, 2), some (0xFFFFFFFF, 0), some (0xC0, 0),
     some (0xFFFE0001, 0), some (1, 0), some (0x7C, 0), some (0x97C, 0)] := by decide +kernel

/-- The two examples of R124. -/
theorem test_bit_fields :
    out (.bfx .vr plainWord (ab 3)) (rig 0xF50 0x404 0) = some (5, 0) ∧
    out (.bfi .vr plainWord (abc 0x22)) (rig 0xFF 0x12345678 0x81C) = some (0xF2345678, 0) := by decide +kernel

theorem test_shifts :
    out (.shl .vr plainWord (ab 0x22)) (rig 1 32 0) = some (0, 0) ∧ out (.sar .vr plainWord (ab 0x22)) (rig 0x80000000 255 0) = some (0xFFFFFFFF, 0) ∧
    out (.shr .vr plainWord (ab 0x22)) (rig 0x80000000 0x11F 0) = some (1, 0) ∧ out (.rot .vr plainWord (ab 0x20)) (rig 0x81 9 0) = some (3, 0) ∧
    out (.clz .vr plainWord (a1 0x22)) (rig 0 0 0) = some (32, 0) ∧ out (.bswap .vr plainWord (a1 0x22)) (rig 0x12345678 0 0) = some (0x78563412, 0) := by
  decide +kernel

/-- Table 6.7. -/
theorem test_conversions :
    [out (.fcvt plainWord (a1 (9 * 64 + 1))) (rig 0x40200000 0 0), out (.fcvt plainWord (a1 (9 * 64 + 2))) (rig 0x40200000 0 0),
     out (.fcvt plainWord (a1 (2 * 4096 + 9 * 64 + 3))) (rig 0xC0200000 0 0), out (.fcvt plainWord (a1 (9 * 64 + 1))) (rig 0xC3480000 0 0),
     out (.fcvt plainWord (a1 (9 * 64 + 5))) (rig 0xBECCCCCD 0 0), out (.fcvt plainWord (a1 (9 * 64 + 5))) (rig 0xBF19999A 0 0),
     out (.fcvt plainWord (a1 (9 * 64 + 3))) (rig 0x7FC00000 0 0), out (.fcvt plainWord (a1 (3 * 64 + 10))) (rig 70000 0 0),
     out (.fcvt plainWord (a1 (9 * 64 + 12))) (rig 0x43FA0000 0 0), out (.fcvt plainWord (a1 (9 * 64 + 12))) (rig 0x3FA80000 0 0),
     out (.icvt plainWord (a1 (3 * 64 + 1))) (rig 300 0 0), out (.icvt plainWord (a1 (3 * 64 + 6))) (rig 0xFFFFFFFB 0 0)] =
    [some (0x03, 16), some (0x0002, 16), some (0xFFFFFFFD, 16), some (0x80, 48), some (0, 16), some (0, 48), some (0, 1),
     some (0x7C00, 20), some (0x7E, 48), some (0x3B, 16), some (0x7F, 32), some (0, 32)] := by decide +kernel

/-- R106's four conversions: the results, and that the third alone is exact. -/
theorem test_rounding :
    out (.fcvt plainWord (a1 (9 * 64 + 11))) (rig 0x3F808000 0 0) = some (0x3F80, 16) ∧
    out (.fcvt plainWord (a1 (9 * 64 + 11))) (rig 0x3F818000 0 0) = some (0x3F82, 16) ∧
    out (.fcvt plainWord (a1 (9 * 64 + 11))) (rig 0x3FA80000 0 0) = some (0x3FA8, 0) ∧
    out (.fcvt plainWord (a1 (9 * 64 + 12))) (rig 0x3FA80000 0 0) = some (0x3B, 16) := by decide +kernel

theorem test_float_arithmetic :
    (out (.fadd .vr plainWord (ab 9)) (rig 0x3F800000 0x40000000 0)).map Prod.fst = some 0x40400000 ∧
    (out (.ffma .vr plainWord (abc 9)) (rig 0x40000000 0x40400000 0x3F800000)).map Prod.fst = some 0x40E00000 ∧
    (out (.fdiv plainWord (ab 9)) (rig 0x3F800000 0 0)).map Prod.fst = some 0x7F800000 ∧
    (out (.fsqrt plainWord (a1 9)) (rig 0x40800000 0 0)).map Prod.fst = some 0x40000000 ∧
    (out (.fadd .vr plainWord (ab 9)) (rig 0x7F800001 0 0)) = some (0x7FC00000, 0) := by decide +kernel

/-- The example after R167: a VSPK of two in four, spread and compact. -/
theorem test_structured_sparsity :
    let s := spread (rig 0 0 0) 2 [0, 0xFFC00001, 0x40400000, 0xC0400000, 0x80000000, 0, 0, 0x3F800000]
    let i := fun (cmp : Nat) => Instr.vspk plainWord (fields 6 2 0 0 0 0 0 (9 + 2 * 2 ^ 14 + cmp * 2 ^ 19 + 9 * 2 ^ 20))
    preds (i 0) s 9 = some [false, true, true, false, true, false, false, true] ∧
    lanesOf (i 0) s 6 = some [0, 0xFFC00001, 0x40400000, 0, 0x80000000, 0, 0, 0x3F800000] ∧
    lanesOf (i 1) s 6 = some [0xFFC00001, 0x40400000, 0, 0, 0x80000000, 0x3F800000, 0, 0] := by decide +kernel

theorem test_across_lanes :
    let s := spread (rig 0 0 0) 1 [10, 11, 12, 13, 14, 15, 16, 17]
    lanesOf (.shfli .vr plainWord (a1 (0x22 + 3 * 2 ^ 12 + 1 * 2 ^ 14))) s 4 = some [11, 10, 13, 12, 15, 14, 17, 16] ∧
    lanesOf (.vscan plainWord (a1 3)) s 4 = some [10, 21, 33, 46, 60, 75, 91, 108] := by decide +kernel

/-- A comparison writes its predicate in lanes of active alone (R68, R115). -/
theorem test_guarded_compare :
    let s := (spread (rig 0 0 0) 1 [0, 1, 2, 3, 4, 5, 6, 7]).modGroup 0 fun gr => gr.setPred 0 (8#32)
    preds (.icmp .vr { ge := true, gi := true, gp := 3 } (fields (2 * 32 + 5) 1 0 2 0 0 0 3)) (spread s 2 [5, 5, 5, 5, 5, 5, 5, 5]) 5 =
      some [false, true, true, true, true, false, false, false] := by decide +kernel

/-- The example after R138, of width 8 and so of half its slots' bytes: `enter 24` from 0x4000, twice, with LIMIT 0x3C00. -/
theorem test_enter :
    let s := (set (rig 0 0 0) 62 0x4000).modGroup 0 fun gr => { gr with shared := { gr.shared with stklim := 0x3C00 } }
    let i := Instr.enter plainWord (fields 0 0 0 0 0 0 0 24)
    scal i s 62 = some 0x3D00 ∧ cause (exec i (set s 62 0x3D00)) = some 0x41 ∧ scal i (set s 62 0x3D00) 62 = some 0x3D00 ∧
    cause (exec i (set s 62 0x3D02)) = some 0x40 := by decide +kernel

/-- The example after R289: the first stop of a CALL at level 4,095, and its walk to team level. -/
theorem test_walk :
    let s := (rig 0 0 0).modGroup 0 fun gr => { gr with
      frontier := [{ pc := 0x5A0C, level := 4095, lanes := List.range 8 }]
      shared := { gr.shared with cpol := 0x00000008001000C0 } }
    let s := { s with cur := some { eight with pc := 0x5A0C, stopPc := 0x5A0C, level := 4095 } }
    (match exec (.call plainWord (fields 63 0 0 0 0 0 0 0)) s with
      | .next t => read (exec (.containmentWalk 0) { t with cur := none }) fun u =>
          ((u.group 0).cause.toNat, (u.group 0).epc.toNat, (u.group 0).stop.isNone)
      | _ => none) = some (0x00540043, 0x5A0C, true) := by decide +kernel

/-- A store and the load that follows it, and R198's misalignment (cause 0x24, SUB 1). -/
theorem test_scratchpad :
    let s := set (spread (rig 0 0 0) 3 [0x11223344, 1, 2, 3, 4, 5, 6, 7]) 4 64
    let a := fields 0 4 15 0 0 3 0 0x02200000
    (match exec (.sts plainWord a) s with
      | .next t => read (exec (.lds plainWord (fields 6 4 15 0 0 0 0 0x02200000)) { t with cur := some eight }) fun u => (u.group 0).reg 0 6
      | _ => none) = some 7 ∧
    cause (exec (.sts plainWord a) (set s 4 66)) = some 0x124 := by decide +kernel

/-- Word and step: the word of `iadd.i64 s4, s4, s5` runs as the first instruction, and its fibres go on at the next slot. -/
theorem test_first_step :
    read (step ((set (set (State.reset.withFetchWord 96 0x000000040000028020200210) 4 (2 ^ 64 - 1)) 5 3)))
      (fun t => ((t.group 0).scal 4, (t.group 0).frontier.map fun e => e.pc.toNat)) = some (2, [0x1000C]) := by decide +kernel

/-- An unassigned word takes the emulation trap, and without a handler raises 0x11 (R75, R76). -/
theorem test_unassigned_word : cause (step (State.reset.withFetchWord 96 0x900)) = some 0x11 ∧
    cause (step (State.reset.withFetchWord 96 0xFF)) = some 0x10 := by decide +kernel

/-- R61, R132: a branch to its own line's slot 0, which is marked as a target, and to slot 1, which is not. -/
theorem test_branch :
    read (exec (.bra plainWord (fields 0 0 0 0 0 0 0 0)) (rig 0 0 0)) (fun t => t.iss.moves.map fun m => (m.lane, m.pc.toNat)) =
      some ((List.range 8).map fun l => (l, 0x10000)) ∧
    cause (exec (.bra plainWord (fields 0 0 0 0 0 0 0 (2 ^ 27))) (rig 0 0 0)) = some 0x12 := by decide +kernel

/-- `bar 3,6` of a team of one group completes at once when its target is 1, and waits with target 6 (R333). -/
theorem test_barrier :
    read (exec (.bar plainWord (fields 0 0 0 0 0 0 0 0x13)) (rig 0 0 0)) (fun t => ((t.group 0).parked.isSome, ((t.teamOf 0).barriers.map fun b => b.2.ph))) =
      some (false, [true]) ∧
    read (exec (.bar plainWord (fields 0 0 0 0 0 0 0 0x63)) (rig 0 0 0)) (fun t => ((t.group 0).parked.isSome, ((t.teamOf 0).barriers.map fun b => b.2.cnt))) =
      some (true, [1]) := by decide +kernel

/-- A register reads what SRWR wrote: the flags keep seven bits, sr.cpol the 14 of the group's own policies (Table 11.6). -/
theorem test_special_registers :
    let s := set (rig 0 0 0) 5 (2 ^ 64 - 1)
    read (exec (.srwr plainWord (fields 0 5 0 0 0 0 0 1)) s) (fun t => (t.sharedOf 0).flags.toNat) = some 0x7F ∧
    read (exec (.srwr plainWord (fields 0 5 0 0 0 0 0 15)) s) (fun t => (t.sharedOf 0).cpol.toNat) = some 0x3FFF := by decide +kernel

/-! ### Witnesses: each statement's hypotheses are met, each clause by a case of its own -/

def wfAll (is : List Instr) : Bool := is.all Instr.wf

theorem witness_NopChangesNothing : (rig 0 0 0).cur = some eight := rfl

/-- The register forms: a grouped issue and a stream batch, with executions in every form. -/
theorem witness_IntegerArithmeticDelivers : Sound (rig 7 0 0) eight ∧ Sound streamRig pair ∧
    (wfAll [.iadd .vr plainWord (ab 3), .iadd .vi plainWord (fields 4 1 0 0 0 3 0 7), .iadd .sr plainWord (ab 4), .iadds .vr plainWord (ab 1),
      .isubs .sr plainWord (ab 5), .idiv .vr plainWord (ab 3), .irem .sr plainWord (ab 8)] = true ∧
     (rig 7 0 0).execs .vr plainWord = List.range 8 ∧ (rig 7 0 0).execs .sr plainWord = [0] ∧ streamRig.execs .sr plainWord = [0, 1] ∧
     intSrc (rig 7 0 0) .vr (ab 3) 2 1 5 = 0 ∧ intSrc (rig 7 2 0) .vr (ab 3) 2 1 5 = 2 ∧
     clamped .i8 127 = (127, 0) ∧ (clamped .i8 128).1 = 127 ∧ (clamped .i8 (-129)).1 = 128) :=
  ⟨sound_of rfl (by decide +kernel), streamRig_sound, by decide +kernel⟩

theorem witness_BitwiseResultsDeliver : Sound (rig 1 32 0) eight ∧
    (wfAll [.and_ .vr plainWord (ab 0x22), .not_ .sr plainWord (a1 0x23), .bswap .vr plainWord (a1 0x21), .shl .vi plainWord (fields 4 1 0 0 0 0x22 0 32),
      .bfi .vr plainWord (abc 0x22)] = true ∧ ctlSrc (rig 1 32 0) .vr (ab 0x22) 2 7 = 32) := ⟨sound_of rfl (by decide +kernel), by decide +kernel⟩

theorem witness_WideAndMixedResultsDeliver : Sound (rig 1 2 3) eight ∧
    wfAll [.imulw .vr plainWord (ab 6), .imulw .vr plainWord (ab 7), .idot4 plainWord (abc 3), .aadd .vr plainWord (fields 4 2 0 6 0 0 0 3),
      .alea .sr plainWord (fields 4 1 0 2 0 0 0 (3 + 7 * 2 ^ 12)), .isel .vr plainWord (ab (0x22 + 31 * 2 ^ 12)), .ppack plainWord (fields 4 0 0 0 0 0 0 (3 * 2 ^ 17))] = true :=
  ⟨sound_of rfl (by decide +kernel), by decide +kernel⟩

theorem witness_PredicateResultsAreDecided : Sound (rig 1 2 3) eight ∧ Sound streamRig pair ∧
    (wfAll [.icmp .vr plainWord (fields (7 * 32 + 31) 1 0 2 0 0 0 3), .achk .vr plainWord (fields 31 2 0 4 0 6 0 8), .pset plainWord (fields 31 0 0 0 0 0 0 0),
      .fcmp .vr plainWord (fields (7 * 32) 1 0 2 0 0 0 9), .fclass plainWord (fields 3 1 0 0 0 0 0 9), .vvote plainWord (fields 3 1 0 0 0 0 0 (0x22 + 3 * 2 ^ 12)),
      .punpk plainWord (fields 0 1 0 0 0 0 0 (24 * 2 ^ 12)), .pmov .vr plainWord (fields 0 1 0 0 0 0 0 (0x22 + 2 ^ 12)), .pmov .sr plainWord (fields 4 0 0 0 0 0 0 0x22)] = true ∧
     predLanes .sr (rig 1 2 3) 0 = List.range 8 ∧ predLanes .vr (rig 1 2 3) 5 = [5] ∧ predLanes .sr streamRig 1 = [1]) :=
  ⟨sound_of rfl (by decide +kernel), streamRig_sound, by decide +kernel⟩

theorem witness_FloatResultsDeliver : Sound (rig 0x7FC00000 0x3F800000 0) eight ∧
    (wfAll [.fadd .vr plainWord (ab 9), .ffma .vi plainWord (fields 4 1 0 2 0 9 0 0), .fdiv plainWord (ab 10), .flerp plainWord (abc 11), .fmin .vr plainWord (ab 9),
      .fscale .vr plainWord (ab 9), .fdot2 plainWord (abc (9 + 10 * 64)), .ffrac plainWord (a1 9), .frnd plainWord (a1 9), .fgete plainWord (a1 9)] = true ∧
     (numSrcs (rig 0x7FC00000 0x3F800000 0) .vr (ab 9) 2 3).any Machine.Num.isNan = true ∧ (numSrcs (rig 1 0x3F800000 0) .vr (ab 9) 2 3).any Machine.Num.isNan = false) :=
  ⟨sound_of rfl (by decide +kernel), by decide +kernel⟩

theorem witness_ApproximationsStayInBounds : Sound (rig 0 0 0) eight ∧
    ((approxRows.all fun r => (r.1 plainWord (a1 9)).wf) = true ∧ (approxListed 0x44 .f32 .nan).isSome = true ∧ (approxListed 0x44 .f32 (.fin false 1 3)).isSome = false) :=
  ⟨rig_sound, by decide +kernel⟩

theorem witness_ConversionsDeliver : Sound (rig 0 0 0) eight ∧
    wfAll [.fcvt plainWord (a1 (9 * 64 + 1)), .fcvt plainWord (a1 (3 * 64 + 10)), .fcvt plainWord (a1 (9 * 64 + 12)), .icvt plainWord (a1 (3 * 64 + 1))] = true :=
  ⟨rig_sound, by decide +kernel⟩

theorem witness_BlocksQuantiseAndReturn : Sound (rig 0 0 0) eight ∧
    (wfAll [.qnt plainWord (fields 32 2 0 0 0 0 0 (0x18 + 9 * 64 + 5 * 2 ^ 12)), .dqnt plainWord (fields 32 2 0 0 0 0 0 (9 + 0x18 * 64 + 5 * 2 ^ 12))] = true ∧
     eight.width ≠ 0 ∧ ((rig 0 0 0).active plainWord).contains (15 % eight.width) = true) := ⟨rig_sound, by decide +kernel⟩

theorem witness_RankingAndMatchingDeliver : Sound (rig 0 0 0) eight ∧
    wfAll [.vspk plainWord (a1 (9 + 4 * 2 ^ 14)), .vspk plainWord (a1 (9 + 2 ^ 12 + 8 * 2 ^ 14 + 2 ^ 19)),
      .vcmpx plainWord { d := 3, a := 1, ap := 0, b := 1, bp := 4, c := 0, cp := 0, x := 0x00243007 }, .vmatch plainWord (a1 0x22), .vcomp plainWord (a1 0x22)] = true :=
  ⟨rig_sound, by decide +kernel⟩

theorem witness_ShufflesAndBallotsDeliver : Sound (rig 0 0 0) eight ∧
    (wfAll [.shfl plainWord (ab 0x22), .shfl plainWord (ab (0x22 + 3 * 2 ^ 12)), .shfli .vr plainWord (a1 0x22), .shfli .vi plainWord (fields 4 1 0 0 0 0x22 0 (2 ^ 12)),
      .vbal plainWord (fields 4 0 0 0 0 0 0 0), .vbal plainWord (fields 4 0 0 0 0 0 0 (2 * 2 ^ 12))] = true ∧ ∀ l ∈ eight.entry, l < 64) :=
  ⟨rig_sound, by decide +kernel⟩

theorem witness_CombiningFollowsTheTree : Sound (rig 0 0 0) eight ∧
    wfAll [.vred plainWord (a1 9), .vred plainWord (a1 (3 + 2 ^ 16)), .vscan plainWord (a1 (3 + 2 ^ 17)), .vsegs plainWord (a1 9)] = true :=
  ⟨rig_sound, by decide +kernel⟩

/-- A place on the chip that exists: the register aperture's byte for a lane-register is one; a store of four bytes at
window byte 64 another. -/
def placedB (s : State) (kind : MsKind) (f : Fields) (n : Nat) (ls : List Nat) (reads : Bool) : Bool :=
  !ls.isEmpty && match s.msPlaces kind f (msBytes f) n ls with
    | .ok ps => ps.length == ls.length * max n 1 && (!reads || (s.readPieces ps).2)
    | .error _ => false

def b32 : Nat := 0x22 * 2 ^ 20

theorem witness_LoadsDeliverTheBytes : Sound (set (rig 0 0 0) 4 64) eight ∧
    (wfAll [.lds plainWord (fields 6 4 15 0 0 0 0 b32), .ldsl plainWord (fields 6 4 15 0 0 0 0 b32), .ldss plainWord (fields 6 4 15 0 0 0 0 b32),
      .lda plainWord (fields 6 2 0 0 0 0 0 b32), .ldc plainWord (fields 6 2 0 0 0 0 0 b32)] = true ∧
     placedB (set (rig 0 0 0) 4 64) .window (fields 6 4 15 0 0 0 0 b32) 0 (List.range 8) true = true ∧
     placedB (set (rig 0 0 0) 4 4092) .window (fields 6 4 15 0 0 0 0 b32) 0 (List.range 8) true = true ∧
     placedB (set (rig 0 0 0) 4 64) .slot (fields 6 4 15 0 0 0 0 b32) 0 (List.range 8) true = true) := ⟨sound_of rfl (by decide +kernel), by decide +kernel⟩

theorem witness_StoresWriteOnlyTheirPlaces : Sound (set (rig 0 0 0) 4 64) eight ∧
    (wfAll [.sts plainWord (fields 0 4 15 0 0 3 0 b32), .stsl plainWord (fields 0 4 15 0 0 3 0 b32), .stss plainWord (fields 0 4 15 0 0 5 15 b32),
      .sta plainWord (fields 0 2 0 0 0 3 0 b32), .stc plainWord (fields 0 2 0 0 0 3 0 b32)] = true ∧
     placedB (set (rig 0 0 0) 4 64) .window (fields 0 4 15 0 0 3 0 b32) 0 (List.range 8) false = true ∧
     placedB (set (rig 0 0 0) 4 4092) .window (fields 0 4 15 0 0 3 0 b32) 0 (List.range 8) false = true) := ⟨sound_of rfl (by decide +kernel), by decide +kernel⟩

theorem witness_AtomicsChainOverLanes : Sound (set (rig 0 0 0) 4 64) eight ∧
    (wfAll [.ats plainWord (fields 6 4 15 0 0 3 0 3145728), .ata plainWord (fields 6 2 0 0 0 3 0 3145728), .atc plainWord (fields 6 2 0 0 0 3 0 3145728)] = true ∧
     placedB (set (rig 0 0 0) 4 64) .window (fields 6 4 15 0 0 3 0 3145728) 0 (List.range 8) true = true ∧
     ((set (rig 0 0 0) 4 64).group 0).watch = none) := ⟨sound_of rfl (by decide +kernel), by decide +kernel⟩

/-- Each check of Table 8.2 has a lane that fails it and none before; a word lost in the scratchpad, and one in a register. -/
theorem witness_LocalChecksRaiseInOrder :
    let f := fields 6 4 15 0 0 0 0 b32
    let bad := fun (s : State) (p : MsAcc → Bool) => ((List.range 8).find? fun l => p (s.msAcc .window f 4 0 l)).isSome
    let at_ := fun (n : Nat) => set (rig 0 0 0) 4 n
    let lost := (at_ 64).modCore 0 fun c => { c with badWords := [(16, .uncorrectable)] }
    Sound (at_ 66) eight ∧ Sound lost eight ∧
    (bad (at_ 66) (fun a => a.base % 4 != 0) = true ∧ bad (at_ 64) (fun a => a.base % 4 != 0) = false ∧
     bad (at_ 4096) (fun a => a.base % 4 != 0) = false ∧ bad (at_ 4096) ((at_ 4096).msOutside .window) = true ∧
     bad (at_ 4092) ((at_ 4092).msOutside .window) = false ∧
     ((rig 0 0 0).active { ge := true, gi := false, gp := 3 }) = [] ∧
     (match lost.msPlaces .window f 4 0 (List.range 8) with
      | .ok ps => (ps.find? fun p => lost.placeLost p.place p.z).isSome
      | .error _ => false) = true ∧
     cause (exec (.lda plainWord (fields 6 4 15 0 0 0 0 b32)) (at_ 0)) = some 0x126) :=
  ⟨sound_of rfl (by decide +kernel), sound_of rfl (by decide +kernel), by decide +kernel⟩

/-- The group holds six blocks; it may keep all, three or none, and with three it may ask for more. -/
def holds (n pool : Nat) : State :=
  ((rig 0 0 0).modGroup 0 fun gr => { gr with ext := List.replicate n (0, false) }).modCore 0 fun c => { c with pool := pool }

theorem witness_ReleasedBlocksGoBack : Sound (holds 6 0) eight ∧
    ((holds 6 0).scalarUnits plainWord = [0] ∧ wfAll [.xrel .si plainWord (fields 0 0 0 0 0 0 0 2), .winset .si plainWord (fields 4 0 0 0 0 0 0 2)] = true ∧
     (holds 6 0).blockCount .si (fields 0 0 0 0 0 0 0 2) 0 = 2 ∧ ((holds 6 0).group 0).h = 6 ∧ (holds 6 0).blockPending 0 2 = false ∧
     (holds 6 0).blockCount .si (fields 0 0 0 0 0 0 0 6) 0 = 6 ∧ 6 ≤ ((holds 6 0).roleOf 0).extmax ∧ eight.out = .done) :=
  ⟨sound_of rfl (by decide +kernel), by decide +kernel⟩

theorem witness_GrantedBlocksArrive :
    let parked : Parked := { wait := .xacq 3 0, pc := 0x10000, level := 0, moves := [] }
    let wait := fun (pool : Nat) => { (holds 2 pool).modGroup 0 fun gr => { gr with parked := some parked } with cur := none }
    let two := (wait 0).groups ++ [(1, { (wait 0).group 0 with ext := [] })]
    let held := { wait 0 with groups := [(0, { (wait 0).group 0 with holder := true })] ++ [(1, { (wait 0).group 0 with ext := [] })] }
    Sound (holds 2 256) eight ∧
    ((holds 2 256).scalarUnits plainWord = [0] ∧ wfAll [.xacq .si plainWord (fields 0 0 0 0 0 0 0 3), .winset .si plainWord (fields 4 0 0 0 0 0 0 3)] = true ∧
     (holds 2 256).blockCount .si (fields 0 0 0 0 0 0 0 3) 0 = 3 ∧ ((holds 2 256).waiters 0).isEmpty = true ∧
     ((holds 2 256).grantFrom 0 3 false true).isSome = true ∧ ((holds 2 255).grantFrom 0 3 false true).isSome = false ∧
     ((wait 256).waiters 0).map Waiter.gid = [0] ∧ ((wait 256).group 0).blocks 1 ≤ ((wait 256).core 0).pool ∧ ((wait 0).core 0).pool < ((wait 0).group 0).blocks 1 ∧
     two.length = 2 ∧ (held.waiters 0).map Waiter.gid = [0, 1] ∧ held.grantFrom 0 3 false true = none ∧ (held.group 1).holder = false ∧ held.reserveHeld 1 = true) :=
  ⟨sound_of rfl (by decide +kernel), by decide +kernel⟩

theorem witness_BranchesTakeTheirTargets : Sound (rig 0 0 0) eight ∧ eight.moves = [] ∧
    (wfAll [.bra plainWord (fields 0 0 0 0 0 0 0 0), .brc plainWord (fields 9 0 0 1 0 2 0 0), .brz plainWord (fields 0 0 0 1 0 0 0 0), .loop plainWord (fields 0 0 0 5 0 0 0 0),
      .jmp plainWord (fields 0 2 0 0 0 0 0 0), .jmpt plainWord (fields 0 0 0 1 0 255 0 0), .brany plainWord (fields 0 0 0 31 0 0 0 0)] = true ∧
     (∀ r ∈ branchRows, (r.ins plainWord (fields 0 0 0 0 0 0 0 0) == .bra plainWord (fields 0 0 0 0 0 0 0 0)) = false ∨
        r.target (rig 0 0 0) (fields 0 0 0 0 0 0 0 0) 0 = 0x10000) ∧
     ((rig 0 0 0).checkTargets 0 0 [0x10000]).2 = none ∧ ((rig 0 0 0).checkTargets 0 0 []).2 = none ∧
     ((rig 0 0 0).checkTargets 0 0 [0x1000C]).2 = some (0x12, 0, 0) ∧ validPc 0x10030 = true ∧ validPc 0x1003C = false ∧ validPc 0x10001 = false ∧
     (((rig 0 0 0).fetchLine 0 0 0x10000).2.isOk = true) ∧ ((rig 0 0 0).fetchLine 0 0 0x20000).2.isOk = false ∧
     cond57 9 5 5 = true ∧ cond57 2 (2 ^ 64 - 1) 0 = true ∧ cond57 6 (2 ^ 64 - 1) 0 = false) := ⟨rig_sound, rfl, by decide +kernel⟩

theorem witness_CallsAndFramesNest : Sound (rig 0 0 0) eight ∧ Sound streamRig pair ∧
    Sound { rig 0 0 0 with cur := some { eight with level := 4095 } } { eight with level := 4095 } ∧
    ((rig 0 0 0).active plainWord ≠ [] ∧ wfAll [.call plainWord (fields 63 0 0 0 0 0 0 0), .callr plainWord (fields 63 2 0 0 0 0 0 0), .ret plainWord (fields 0 63 0 0 0 0 0 0),
      .enter plainWord (fields 0 0 0 0 0 0 0 65535), .leave plainWord (fields 0 0 0 0 0 0 0 0)] = true ∧
     eight.level = 0 ∧ pair.stream = true ∧ ((rig 0 0 0).checkTargets 0 0 (distinct [targetOf (rig 0 0 0) (fields 63 0 0 0 0 0 0 0) 0])).2 = none ∧
     (set (rig 0 0 0) 62 64).sreg 0 62 % 32 = 0 ∧ (set (rig 0 0 0) 62 66).sreg 0 62 % 32 ≠ 0 ∧ ((64 : Int) - (3 * 32 : Nat) < (set (rig 0 0 0) 62 64).spLimit 0) ∧
     (set (rig 0 0 0) 62 64).spLimit 0 ≤ (64 : Int) - (2 * 32 : Nat)) := ⟨rig_sound, streamRig_sound, sound_of rfl (by decide +kernel), by decide +kernel⟩

/-- Four of eight lanes are vacant. -/
def halfFull : State := (rig 0 0 0).modGroup 0 fun gr => { gr with
  lanes := (List.replicate 4 {}) ++ List.replicate 4 { live := false }, frontier := [{ pc := 0x10000, lanes := List.range 4 }] }
def four : Issue := { eight with entry := List.range 4 }

theorem witness_FibresBeginAndEnd : Sound { halfFull with cur := some four } four ∧
    (four.children = [] ∧ (∀ p ∈ four.groups, (halfFull.group p.1).hact = false) ∧
     wfAll [.fspawn plainWord (fields 31 0 0 0 0 0 0 0), .fspawnr plainWord (fields 31 2 0 0 0 0 0 0)] = true ∧
     halfFull.vacant 0 = [4, 5, 6, 7] ∧ ({ halfFull with cur := some four }.active plainWord) = [0, 1, 2, 3] ∧
     ((rig 0 0 0).vacant 0) = []) := ⟨sound_of rfl (by decide +kernel), by decide +kernel⟩

theorem witness_WaitsEndWhenTheirConditionHolds : Sound (rig 0 0 0) eight ∧
    (let counted := (rig 0 0 0).modGroup 0 fun gr => { gr with shared := { gr.shared with cp := 3 }, accessBy := 9 }
     Sound counted eight ∧ (rig 0 0 0).active plainWord ≠ [] ∧ (counted.sharedOf 0).cp = 3 ∧ (counted.group 0).accessBy = 9 ∧ counted.cycle = 0 ∧
     (∀ p ∈ (rig 0 0 0).groups, p.2.unjoined = [])) := ⟨rig_sound, sound_of rfl (by decide +kernel), by decide +kernel⟩

theorem witness_ReadsDeliver : Sound (rig 0 0 0) eight ∧ wfAll [.pcrd plainWord (fields 4 0 0 0 0 0 0 (4 * 2 ^ 27)), .gtcrd plainWord (fields 4 0 0 0 0 0 0 0),
    .ctxrd plainWord (fields 4 0 0 0 0 0 0 2), .xqry plainWord (fields 4 0 0 0 0 0 0 0), .srrd plainWord (fields 4 0 0 0 0 0 0 0x10),
    .srrd plainWord (fields 4 0 0 0 0 0 0 0x11), .srrd plainWord (fields 4 0 0 0 0 0 0 0x23)] = true := ⟨rig_sound, by decide +kernel⟩

/-- Of two free fibres one has halted, and the other's SRWR of sr.dbg sends it on. -/
theorem witness_SpecialRegistersAreWritten :
    let halted := (streamRig.modGroup 1 fun gr => { gr with
      halt := true, stop := some { code := 0x50, pc := 0x10000, lanes := [0], halted := true } }).modGroup 0 fun gr => gr.setScal 53 128
    let one : Issue := { pair with entry := [0] }
    Sound (rig 0 0 0) eight ∧ Sound { halted with cur := some one } one ∧ ((rig 0 0 0).onceUnits plainWord = [0] ∧
    (srWritten.all fun r => (Instr.srwr plainWord (fields 0 5 0 0 0 0 0 r.1)).wf) = true ∧
    ({ halted with cur := some one }.sreg 0 53).testBit 7 = true ∧ { halted with cur := some one }.onceUnits plainWord = [0] ∧
    ((halted.group 1).stop.map Stop.halted) = some true ∧ (halted.group 1).team = one.team ∧ (Tab.get? halted.groups 1).isSome = true ∧
    (Instr.srwr plainWord (fields 0 53 0 0 0 0 0 0x00B)).wf = true ∧
    read (exec (.srwr plainWord (fields 0 53 0 0 0 0 0 0x00B)) { halted with cur := some one }) (fun t => ((t.group 1).halt, (t.group 1).resumed)) =
      some (false, true)) := ⟨rig_sound, sound_of rfl (by decide +kernel), by decide +kernel⟩

theorem witness_CausesStopTheirGroups : Sound (rig 0 0 0) eight ∧ Sound streamRig pair ∧
    ((rig 0 0 0).active plainWord ≠ [] ∧ (rig 0 0 0).active { ge := true, gi := false, gp := 3 } = []) := ⟨rig_sound, streamRig_sound, by decide +kernel⟩

theorem witness_HandlersAreEnteredAndLeft :
    let emu := (rig 0 0 0).modGroup 0 fun gr => { gr with uemu := 0x10000 }
    let inside := (rig 0 0 0).modGroup 0 fun gr => { gr with emop := 0x80000000, emret := 0x1000C }
    let gone : Stop := { code := 0x20, pc := 0x10000, lanes := [0] }
    let fault := (rig 0 0 0).modGroup 0 fun gr => { gr with cause := 2 ^ 26, shadow := some { frontier := [], preds := [(0, 1)], stop := gone } }
    Sound emu eight ∧ Sound inside eight ∧ Sound fault eight ∧ eight.moves = [] ∧ eight.entry ≠ [] ∧
    ((emu.group 0).uemu ≠ 0 ∧ (emu.group 0).emop.getLsbD 31 = false ∧ (emu.checkTargets 0 emu.curCtx [0x10000]).2 = none ∧
     (inside.group 0).emop.getLsbD 31 = true ∧ (∀ e ∈ (inside.group 0).frontier, e.level = eight.level → e.pc = eight.stopPc) ∧ validPc 0x1000C = true ∧
     (fault.group 0).cause.getLsbD 26 = true ∧ lanesIn eight 0 = List.range 8 ∧ lanesIn eight 1 = [] ∧
     ((fault.group 0).shadow.map fun x => (x.preds.map Prod.fst)) = some [0] ∧ (rig 0 0 0).active plainWord ≠ []) :=
  ⟨sound_of rfl (by decide +kernel), sound_of rfl (by decide +kernel), sound_of rfl (by decide +kernel), rfl, by decide, by decide +kernel⟩

theorem witness_SystemCommandsAct :
    let logs := (rig 0 0 0).modDie 0 fun di => { di with logEn := true, logBase := 0x4000, logN := 4 }
    Sound logs eight ∧ (logs.active plainWord ≠ [] ∧ logs.onceUnits plainWord = [0] ∧ eight.at? 0 = some (0, 0) ∧
      wfAll [.cinv plainWord (fields 0 4 0 5 0 0 0 0), .evlog plainWord (fields 0 4 0 0 0 0 0 65535)] = true ∧ (logs.die 0).logEn = true ∧ logs.msixMask = [] ∧
      (logs.die 0).logBase.toNat + 32 * 2 ^ (logs.die 0).logN ≤ 2 ^ 40 ∧
      (∀ p ∈ logs.groups, p.2.watch = none ∧ p.2.parked = none) ∧ logs.sectorWaits = [] ∧ (∀ d ∈ logs.dies, d.2.logWait = []) ∧
      (logs.die 0).soft = 0 ∧ (logs.die 0).pressed = false ∧ 8 ≤ (logs.die 0).freeSectors ∧ logs.sectorStatus 0x4000 = 0 ∧
      ((logs.die 0).logHead + 2 ^ 32 - (logs.die 0).logTail) % 2 ^ 32 < 2 ^ (logs.die 0).logN ∧ ((rig 0 0 0).die 0).logEn = false) :=
  ⟨sound_of rfl (by decide +kernel), by decide +kernel⟩

def podded (x : SlotState) : State := (rig 0 0 0).modTeam 0 fun t => { t with
  pods := [{ count := 2, bytes := 64, home := 0, base := 0, slots := [x, .free], fph := [false, false] }] }

theorem witness_BarriersSynchroniseGroups :
    let at1 := (rig 0 0 0).modTeam 0 fun t => { t with barriers := [(3, { ph := false, cnt := 1, tgt := 6 })] }
    let busy := (rig 0 0 0).modGroup 0 fun gr => { gr with accessBy := 5 }
    -- an operation of a later slot is performed in this cycle; and a barrier is in error
    let later := at1.modTeam 0 fun t => { t with lastSync := (0, 0, 9) }
    let hurt := at1.modTeam 0 fun t => { t with syncBad := [(3, .uncorrectable)] }
    let w : Parked := { wait := .syncOp (.bar plainWord (fields 0 0 0 0 0 0 0 0x63)) 0, pc := 0x10000, level := 0, moves := [] }
    let waits := { (rig 0 0 0).modGroup 0 fun gr => { gr with parked := some w } with cur := none }
    Sound at1 eight ∧ Sound busy eight ∧ Sound later eight ∧ Sound hurt eight ∧ eight.stream = false ∧
    ((at1.group 0).parked = none ∧ at1.active plainWord ≠ [] ∧ Tab.get? (at1.teamOf 0).syncBad 3 = none ∧
     at1.syncPast 0 = false ∧ later.syncPast 0 = true ∧ hurt.syncPast 0 = false ∧ Tab.get? (hurt.teamOf 0).syncBad 3 = some .uncorrectable ∧
     (hurt.group 0).accessBy ≤ hurt.cycle ∧ (∀ x ∈ hurt.groups, x.2.parked = none) ∧ (later.group 0).parked = none ∧
     (at1.group 0).accessBy ≤ at1.cycle ∧ busy.cycle < (busy.group 0).accessBy ∧ arrival at1 0 3 5 = none ∧ (arrival at1 0 3 6).isSome = true ∧
     ((arrival at1 0 3 6).map fun a => a.2.ph != a.1) = some false ∧ ((arrival (rig 0 0 0) 0 3 1).map fun a => a.2.ph != a.1) = some true ∧
     ((arrival (rig 0 0 0) 0 3 0).map fun a => a.2.ph != a.1) = some true ∧
     (waits.groups.map Prod.fst).Nodup ∧ (Tab.get? waits.groups 0).isSome = true ∧ (waits.group 0).accessBy ≤ waits.cycle ∧ (Tab.get? waits.teams 0).isSome = true ∧
     (waits.teamOf 0).out = false ∧ waits.syncPast 0 = false ∧ (waits.modTeam 0 fun t => { t with lastSync := (0, 0, 9) }).syncPast 0 = true ∧
     (waits.modTeam 0 fun t => { t with out := true }).syncPast 0 = false ∧ ((waits.modTeam 0 fun t => { t with out := true }).teamOf 0).out = true ∧
     Tab.get? (waits.teamOf 0).syncBad 3 = none ∧ (arrival waits 0 3 6).isSome = true) :=
  ⟨sound_of rfl (by decide +kernel), sound_of rfl (by decide +kernel), sound_of rfl (by decide +kernel), sound_of rfl (by decide +kernel), rfl, by decide +kernel⟩

theorem witness_PodsPassSlots :
    let later := (podded .free).modTeam 0 fun t => { t with lastSync := (0, 0, 9) }
    let hurt := (podded .free).modTeam 0 fun t => { t with syncBad := [(16, .uncorrectable)] }
    let busy := (podded .free).modGroup 0 fun gr => { gr with accessBy := 5 }
    Sound later eight ∧ Sound hurt eight ∧ Sound busy eight ∧ Sound (podded .free) eight ∧ Sound (podded .full) eight ∧ Sound (podded .reserved) eight ∧ Sound (podded .held) eight ∧
    ((podded .free).onceUnits plainWord = [0] ∧ ((podded .free).teamOf 0).pods.length = 1 ∧ ((rig 0 0 0).teamOf 0).pods.length ≤ 0 ∧
     ((podded .free).group 0).accessBy ≤ (podded .free).cycle ∧ Tab.get? ((podded .free).teamOf 0).syncBad 16 = none ∧
     (podded .free).syncPast 0 = false ∧ ((podded .free).group 0).parked = none ∧ later.syncPast 0 = true ∧ hurt.syncPast 0 = false ∧
     Tab.get? (hurt.teamOf 0).syncBad 16 = some .uncorrectable ∧ (∀ x ∈ hurt.groups, x.2.parked = none) ∧
     busy.cycle < (busy.group 0).accessBy ∧ ((podded .reserved).podOf 0 0).waiting = [] ∧
     (podded .full).podOf 0 0 = { count := 2, bytes := 64, home := 0, base := 0, slots := [.full, .free], fph := [false, false] } ∧
     wfAll [.psendRsv plainWord (fields 4 0 0 0 0 0 0 0), .precv plainWord (fields 4 0 0 0 0 0 0 0), .psendCmt plainWord (fields 0 9 0 0 0 0 0 16),
       .pfree plainWord (fields 0 9 0 0 0 0 0 0), .pqry plainWord (fields 4 0 0 0 0 0 0 0)] = true ∧ (podded .free).sreg 0 9 / 2 ^ 22 % 64 = 0 ∧
     (set (podded .free) 9 (2 * 2 ^ 22)).sreg 0 9 / 2 ^ 22 % 64 = 2) :=
  ⟨sound_of rfl (by decide +kernel), sound_of rfl (by decide +kernel), sound_of rfl (by decide +kernel), sound_of rfl (by decide +kernel), sound_of rfl (by decide +kernel), sound_of rfl (by decide +kernel), sound_of rfl (by decide +kernel), by decide +kernel⟩

def mwaits (dl : Nat) : State := { (rig 0 0 0).modGroup 0 (fun gr => { gr with
  watch := some { core := none, span := 0x400 }, parked := some { wait := .mwait dl 9, pc := 0x10000, level := 0, moves := [] } }) with cur := none, time := 7 }

theorem witness_WatchesEndWaits :
    let own := set (rig 0 0 0) 5 (0xFFFF * 2 ^ 41)
    let dev := set (rig 0 0 0) 5 0x10000
    let watched := fun (t : Option Nat) => (rig 0 0 0).modGroup 0 fun gr => { gr with watch := some { core := none, span := 0x400, triggered := t } }
    let late := { watched none with time := 1 }
    Sound own eight ∧ Sound dev eight ∧ Sound (watched (some 3)) eight ∧ Sound (watched none) eight ∧ Sound late eight ∧
    (wfAll [.mon plainWord (fields 0 5 0 0 0 0 0 0), .mwait plainWord (fields 9 6 0 0 0 0 0 0)] = true ∧ own.onceUnits plainWord = [0] ∧
     own.inWindow own.curCtx 0 0 1 = true ∧ own.inWindow own.curCtx 0 4096 1 = false ∧ (dev.access 0 dev.curCtx 0x10000 .read).2.isOk = true ∧
     dev.reaches 0 0x10000 = true ∧ (rig 0 0 0).gtc 0 ≤ (rig 0 0 0).sreg 0 6 ∧ late.sreg 0 6 < late.gtc 0 ∧
     (Tab.get? (mwaits 6).groups 0).isSome = true ∧ ((mwaits 6).teamOf ((mwaits 6).group 0).team).out = false ∧ 6 < (mwaits 6).gtc 0 ∧ (mwaits 7).gtc 0 ≤ 7 ∧
     ((mwaits 6).group 0).stepping = false) :=
  ⟨sound_of rfl (by decide +kernel), sound_of rfl (by decide +kernel), sound_of rfl (by decide +kernel), sound_of rfl (by decide +kernel),
   sound_of rfl (by decide +kernel), by decide +kernel⟩

/-- The window's first bytes hold a number; the page at 0x10000, in a flat frame, may be used near memory. -/
def window (s : State) (v n : Nat) : State := { s with
  scratch := [(0, cellStore [] 0 v n)], tlbs := [(0, [(16, { pte := 0x1015F, level := 0 })])], flat := [(1, 0)] }

def okIs (r : Except Nat Nat) (v : Nat) : Bool := match r with | .ok x => x == v | .error _ => false

theorem witness_FlagsAndCellsAreWritten :
    let s := set (rig 0 0 0) 5 0x10000
    let far := s.modGroup 0 fun gr => { gr with accessBy := 9 }
    let x := (s.access 0 s.curCtx 0x10000 .atomic).2
    -- an exactly-once request of the core to die 1 is on the way
    let sent := { s with reqs := [(0, { job := .posted 0, msg := { src := 0, org := 0, dst := 1, lane := laneOf 0 } })] }
    Sound s eight ∧ Sound far eight ∧ Sound (set s 5 0x10004) eight ∧ Sound (set s 5 (0xFFFF * 2 ^ 41)) eight ∧ eight.out = .done ∧
    (s.onceUnits plainWord = [0] ∧ wfAll [.trdy plainWord (fields 0 5 0 6 0 0 0 4), .tclr plainWord (fields 0 5 0 0 0 0 0 0), .vpub plainWord (fields 0 5 0 6 0 0 0 0),
       .vacq plainWord (fields 9 5 0 0 0 0 0 8), .vacq plainWord (fields 9 5 0 0 0 0 0 0), .vrel plainWord (fields 9 5 0 6 0 0 0 0)] = true ∧
     x.isOk = true ∧ s.reaches 0 0x10000 = true ∧ (match x with | .ok y => !s.heldBack 0 y && sent.heldBack 0 { y with pa := 2 ^ 38 } | .error _ => false) = true ∧ (s.group 0).core = eight.core ∧ (s.group 0).accessBy ≤ s.cycle ∧ far.cycle < (far.group 0).accessBy ∧
     (s.readHome 0 0x10000).2.status = 0 ∧ homeDie 0x10000 = 0 ∧ paRegion 0x10000 = 0 ∧ (s.readHome 0 0x10000).1.teams = s.teams ∧
     0x10004 % 8 ≠ 0 ∧ (s.access 0 s.curCtx 0x10000 .atomic).1.group 0 = s.group 0) :=
  ⟨sound_of rfl (by decide +kernel), sound_of rfl (by decide +kernel), sound_of rfl (by decide +kernel), sound_of rfl (by decide +kernel), rfl, by decide +kernel⟩

theorem witness_FlagsEndWaits :
    let s := set (set (rig 0 0 0) 5 0x10000) 7 (2 ^ 64 - 1)
    let one := { s with mem := cellStore [] 0x10000 1 4 }
    let w := fun (wt : Wait) => { { s.modGroup 0 (fun gr => { gr with parked := some { wait := wt, pc := 0x10000, level := 0, moves := [] } }) with cur := none } with time := 5 }
    let tw := w (.twait 0x10000 0x10000 1 4 9)
    let pw := w (.posted (.tclr plainWord (fields 0 5 0 0 0 0 0 0)) 0x10000 0 0)
    Sound s eight ∧ Sound one eight ∧
    ((Instr.twait plainWord (fields 9 5 0 6 0 7 0 0)).wf = true ∧ (s.access 0 s.curCtx 0x10000 .read).2.isOk = true ∧ (s.readHome 0 0x10000).2.status = 0 ∧
     (one.readHome 0 0x10000).2.val % 2 ^ 32 = 1 ∧ one.sreg 0 6 % 2 ^ 32 = 0 ∧ s.gtc 0 ≤ s.sreg 0 7 ∧
     (Tab.get? tw.groups 0).isSome = true ∧ (tw.teamOf (tw.group 0).team).out = false ∧ (tw.group 0).stepping = false ∧ 4 < tw.gtc (coreDie (tw.group 0).core) ∧
     (tw.waitAddr 0 0x10000 .read).2.isOk = true ∧ (Tab.get? (tw.serveWait (tw.homeOf 0x10000) 0).groups 0).isSome = true ∧ ((tw.serveWait (tw.homeOf 0x10000) 0).readHome 0 0x10000).2.status = 0 ∧
     (pw.teamOf (pw.group 0).team).out = false ∧ pw.heldBack 0 { pa := 0x10000, pte := 0, level := 0, at_ := 0 } = false ∧ pw.hasJob (.posted 0) = false ∧ (pw.waitAddr 0 0x10000 .atomic).2.isOk = true) :=
  ⟨sound_of rfl (by decide +kernel), sound_of rfl (by decide +kernel), by decide +kernel⟩

/-- One row of 64 bytes from device memory to window byte 1,024. -/
def copyDesc : Nat := 0x10000 + 1024 * 2 ^ 64 + 64 * 2 ^ 128 + 2 ^ 160

theorem witness_CopiesAreAccepted :
    let s := window (rig 0 0 0) copyDesc 64
    let full := s.modGroup 0 fun gr => { gr with shared := { gr.shared with cp := 255, ld := 255 } }
    let c : Copy := { cmd := .g, x := 9, d := copyDesc }
    let cpa := window (rig 0 0 0) 0x10000 32
    Sound s eight ∧ Sound full eight ∧ Sound (set s 4 32) eight ∧ Sound (set s 4 4096) eight ∧ Sound cpa eight ∧ eight.out = .done ∧
    (s.onceUnits plainWord = [0] ∧ wfAll [.cpg plainWord (fields 10 4 0 0 0 0 0 9), .cpa plainWord (fields 10 4 0 0 0 0 0 0x202)] = true ∧
     (s.sharedOf 0).count 0 ≠ 255 ∧ copiesFull s 0 = false ∧ (full.sharedOf 0).count 0 = 255 ∧ s.outOfWindow 0 64 = false ∧ s.outOfWindow 4096 64 = true ∧
     okIs (s.windowBytes 0 64).2 copyDesc = true ∧ c.valid = true ∧ ({ c with d := copyDesc + 2 ^ 152 } : Copy).valid = false ∧
     (c.windowRows.all fun w => !s.outOfWindow w.1 w.2) = true ∧ (s.indexWords c).2.isOk = true ∧ (s.checkRanges c.deviceRows).2 = none ∧ s.tagsOk c = true ∧
     okIs (cpa.windowBytes 0 32).2 0x10000 = true ∧ (cpa.checkRanges [(0x10000, 8, .atomic)]).2 = none) :=
  ⟨sound_of rfl (by decide +kernel), sound_of rfl (by decide +kernel), sound_of rfl (by decide +kernel), sound_of rfl (by decide +kernel),
   sound_of rfl (by decide +kernel), rfl, by decide +kernel⟩

theorem witness_NearMemoryCommandsAreAccepted :
    -- one row of 64 bytes at 0x10000, its source at window byte 1,024; then one that ends a list, and an all-reduce descriptor
    let add := window (rig 0 0 0) (0x10000 + 1024 * 2 ^ 64) 64
    let red := { window (rig 0 0 0) (0x10000 + 1024 * 2 ^ 64 + 2048 * 2 ^ 320) 64 with
      scratch := [(0, cellStore (cellStore [] 0 (0x10000 + 1024 * 2 ^ 64 + 2048 * 2 ^ 320) 64) 1024 (2 ^ 31) 4)] }
    let full := add.modGroup 0 fun gr => { gr with shared := { gr.shared with ld := 255, st := 255, cp := 255 } }
    let slot : ArSlot := { owner := some 0, mask := 3, ty := 9, nsec := 1 }
    let ar := { window (rig 0 0 0) (0x10000 + 0x10040 * 2 ^ 64) 16 with arSlots := [(2, slot)] }
    let cfg := window (rig 0 0 0) (3 + 9 * 2 ^ 8) 16
    let c : NearCmd := { d := 0x10000 + 1024 * 2 ^ 64 }
    let asked := { ar with ops := [(0, { instr := .arqry plainWord (fields 8 0 0 0 0 0 0 2), gid := 0, core := 0, ctx := 0, team := 0, tok := 8, cls := 2, args := [16] })] }
    Sound add eight ∧ Sound red eight ∧ Sound full eight ∧ Sound ar eight ∧ Sound cfg eight ∧ eight.out = .done ∧
    (wfAll [.nmadd plainWord (fields 8 4 0 0 0 0 0 2), .nmscl plainWord (fields 8 4 0 0 0 0 0 0), .nmopt plainWord (fields 8 4 0 0 0 0 0 0), .nmred plainWord (fields 8 4 0 0 0 0 0 0),
       .nmfence plainWord (fields 8 4 0 12 0 0 0 0), .nmfence plainWord (fields 8 0 0 0 0 0 0 4), .nmq plainWord (fields 8 0 0 0 0 0 0 0), .ared plainWord (fields 8 4 0 0 0 0 0 2),
       .arwait plainWord (fields 8 0 0 12 0 0 0 2), .arcfg plainWord (fields 8 4 0 0 0 0 0 2), .arqry plainWord (fields 8 0 0 0 0 0 0 2)] = true ∧
     (add.sharedOf 0).count 1 ≠ 255 ∧ (full.sharedOf 0).count 1 = 255 ∧ (add.windowBytes 0 64).2.isOk = true ∧
     c.ok (.nmadd plainWord (fields 8 4 0 0 0 0 0 2)) = true ∧ (c.windows (.nmadd plainWord (fields 8 4 0 0 0 0 0 2))).all (fun w => !add.outOfWindow w.1 w.2) = true ∧
     ({ d := 1 } : NearCmd).ok (.nmadd plainWord (fields 8 4 0 0 0 0 0 2)) = false ∧ (add.placeRows 0 add.curCtx .near [0x10000]).2.isOk = true ∧ (red.placeRows 0 red.curCtx .nearRead [0x10000]).2.isOk = true ∧
     asked.ops.length = 1 ∧ (Tab.get? asked.groups 0).isSome = true ∧ asked.cycle < 16 ∧
     (red.windowWords 1024 1).2.isOk = true ∧
     ({ d := 0x10000 + 1024 * 2 ^ 64 + 2048 * 2 ^ 320, words := [2 ^ 31] } : NearCmd).ok (.nmred plainWord (fields 8 4 0 0 0 0 0 0)) = true ∧
     ar.aredInvalid 2 (0x10000 + 0x10040 * 2 ^ 64) = false ∧ (rig 0 0 0).aredInvalid 2 0x10000 = true ∧ (ar.windowBytes 0 16).2.isOk = true ∧
     (ar.checkRanges [(0x10000, 64, .read), (0x10040, 64, .write)]).2 = none ∧ slot.arr.testBit 0 = false ∧ ({ slot with arr := 1 } : ArSlot).arr.testBit 0 = true ∧
     cfg.arcfgInvalid 2 (3 + 9 * 2 ^ 8) = false ∧ cfg.arcfgInvalid 2 (1 + 9 * 2 ^ 8) = true ∧ (ar.arSlot 2).owner = some ar.curCtx ∧
     genReached (ar.arSlot 2).gen 0 = true ∧ genReached (ar.arSlot 2).gen 1 = false ∧ (ar.teamOf 0).out = false) :=
  ⟨sound_of rfl (by decide +kernel), sound_of rfl (by decide +kernel), sound_of rfl (by decide +kernel), sound_of rfl (by decide +kernel),
   sound_of rfl (by decide +kernel), rfl, by decide +kernel⟩

/-- An 8-bit texture of one texel at 0x10000; and a latent one with its network. -/
def texDesc : Nat := 0x10000 + 5 * 2 ^ 114
def latent : Nat := 0x10000 + 0x14 * 2 ^ 114 + 3 * 2 ^ 120 + 0x10000 * 2 ^ 320

theorem witness_RenderCommandsAreAccepted :
    let s := window (rig 0 0 0) texDesc 64
    let full := s.modGroup 0 fun gr => { gr with shared := { gr.shared with ld := 255, cp := 255 } }
    let grid := 14 * 2 ^ (512 + 20) + 2 ^ (512 + 25) + 0x10000 * 2 ^ (512 + 64) + 0x10000 * 2 ^ (512 + 128)
    let owned := s.modTeam 0 fun t => { t with hslots := [(5, { desc := grid })] }
    Sound s eight ∧ Sound full eight ∧ Sound owned eight ∧ eight.out = .done ∧
    (wfAll [.tex plainWord (fields 20 8 0 4 0 12 0 0), .rpush plainWord (fields 20 8 0 24 0 16 0 0), .hcfg plainWord (fields 20 4 0 0 0 0 0 5)] = true ∧
     s.active plainWord ≠ [] ∧ (s.sharedOf 0).count 0 ≠ 255 ∧ (full.sharedOf 0).count 0 = 255 ∧ (full.sharedOf 0).count 2 = 255 ∧
     Texture.valid texDesc false false = true ∧ Texture.valid 0 false false = false ∧ Texture.valid latent true false = true ∧
     (s.readTextures [0]).2.isOk = true ∧ (s.checkRanges [(0x10000, 1, .read)]).2 = none ∧
     stackOk 4 0 = true ∧ stackOk 4 5 = false ∧ s.outOfWindow 4080 16 = false ∧ s.outOfWindow 4096 16 = true ∧
     s.hashFull = false ∧ gridOk grid [4096] = true ∧ s.slotOwner 0 5 = none ∧ (owned.slotOwner 0 5).isSome = true ∧
     (owned.teamOf 0).ctx = owned.curCtx ∧ Grid.levels grid = 1 ∧ (owned.readOwner 0 5 0 false).2 = false ∧ (s.readOwner 0 5 0 true).2 = false ∧
     ((owned.modTeam 0 fun t => { t with syncBad := [(37, .uncorrectable)] }).readOwner 0 5 0 false).2 = true ∧
     (owned.modTeam 0 fun t => { t with hslots := [(5, { desc := grid, pending := 1 })] }).slotOwner 0 5 = some (0, { desc := grid, pending := 1 }) ∧
     { s with ops := (List.range 32).map fun k => (k, { instr := .hcfg plainWord (fields 20 4 0 0 0 0 0 5), gid := 0, core := 0, ctx := 0, team := 0, tok := 20, cls := 2 }) }.hashFull = true ∧
     (owned.roleOf 0).hasReg 20 = true ∧ (owned.roleOf 0).hasReg 64 = true ∧ ((owned.modGroup 0 fun gr => { gr with ext := [] }).group 0).h = 0) :=
  ⟨sound_of rfl (by decide +kernel), sound_of rfl (by decide +kernel), sound_of rfl (by decide +kernel), rfl, by decide +kernel⟩

/-- Graph slot 1 of die 0 runs: a node of each kind, and an edge of two records whose consumer is node 0. -/
def graphRig (s : State) (e : Edge) : State :=
  (s.modDie 0 fun di => { di with
    queues := [(7, { en := true, logn := 1 })]
    graphs := [(1, { run := true, en := true, nodeTab := [{ record := 0 }, { record := 2 ^ 64 }, { record := 2 * 2 ^ 64 }], edgeTab := [e] })] }).modTeam 0
      fun t => { t with node := some (1, 0), interval := some (0, 10, 4) }
def edge1 (sl : List EdgeSlot) : Edge := { record := 0x10000 + 2 ^ 64, slots := sl, openp := 1 }

theorem witness_TaskCommandsAreAccepted :
    let s := graphRig (window (rig 0 0 0) 0 512) (edge1 [.free, .free])
    let full := s.modGroup 0 fun gr => { gr with shared := { gr.shared with cp := 255 } }
    let x := 2 ^ 8
    Sound s eight ∧ Sound full eight ∧ eight.out = .done ∧ s.onceUnits plainWord = [0] ∧
    ((taskRows.all fun r => !taskMissing s eight (fields 8 4 0 12 0 16 0 (if r.ins plainWord (fields 0 0 0 0 0 0 0 0) = .tspawn plainWord (fields 0 0 0 0 0 0 0 0) then 7
        else if r.ins plainWord (fields 0 0 0 0 0 0 0 0) = .trange plainWord (fields 0 0 0 0 0 0 0 0) then x + 2 else x)) (r.ins plainWord (fields 0 0 0 0 0 0 0 0))) = true ∧
     wfAll [.tspawn plainWord (fields 8 4 0 0 0 0 0 7), .trange plainWord (fields 8 4 0 0 0 0 0 (x + 2)), .tsend plainWord (fields 8 4 0 0 0 0 0 x), .trecv plainWord (fields 8 4 0 0 0 0 0 x),
       .tdone plainWord (fields 8 0 0 0 0 0 0 x), .tqry plainWord (fields 8 0 0 0 0 0 0 x), .tclose plainWord (fields 8 0 0 0 0 0 0 x), .tgrain plainWord (fields 8 0 0 12 0 16 0 0)] = true ∧
     taskMissing (rig 0 0 0) eight (fields 8 0 0 0 0 0 0 x) (.tqry plainWord (fields 8 0 0 0 0 0 0 x)) = true ∧ (s.sharedOf 0).count 2 ≠ 255 ∧ (full.sharedOf 0).count 2 = 255 ∧
     s.outOfWindow 0 512 = false ∧ s.outOfWindow 4096 16 = true ∧ (s.windowBytes 0 512).2.isOk = true ∧ rangeBad 1 = true ∧ rangeBad (4 * 2 ^ 64) = false) :=
  ⟨sound_of rfl (by decide +kernel), sound_of rfl (by decide +kernel), rfl, by decide +kernel, by decide +kernel⟩

theorem witness_CollectivesAreAccepted :
    let z := fields 2 0 0 0 0 0 0 0
    let alone := rig 0 0 0
    let w : Parked := { wait := .collective (.mzro plainWord z) [], pc := 0x10000, level := 0, moves := [] }
    let other := fun (p : Option Parked) => { alone with groups := alone.groups ++ [(1, { alone.group 0 with parked := p })] }
    let taken := alone.modCore 0 fun c => { c with marrow := {} }
    let gone := alone.modCore 0 fun c => { c with marrow := { c.marrow with missing := true } }
    Sound alone eight ∧ Sound (other none) eight ∧ Sound (other (some w)) eight ∧ Sound taken eight ∧ Sound gone eight ∧ Sound { halfFull with cur := some four } four ∧
    (eight.stream = false ∧ eight.entry ≠ [] ∧ eight.view = none ∧ (Instr.mzro plainWord z).wf = true ∧ (alone.roleOf 0).grant.getLsbD 1 = true ∧
     (alone.core 0).marrow.owner = some eight.team ∧ (taken.core 0).marrow.owner ≠ some eight.team ∧ (gone.core 0).marrow.missing = true ∧ eight.entry.length = eight.width ∧
     (alone.group 0).lanes.length = eight.width ∧ (∀ ln ∈ (alone.group 0).lanes, ln.live = true) ∧ (alone.active plainWord).length = eight.width ∧
     four.entry.length ≠ four.width ∧ alone.mxCheck (.mzro plainWord z) 0 0 0 0 = none ∧
     (alone.mxCheck (.mrda plainWord (fields 2 4 0 0 0 0 0 0)) 0 0 32 0).isSome = true ∧ (alone.sharedOf 0).count 3 ≠ 255 ∧ (alone.group 0).parked = none ∧
     (((Instr.mzro plainWord z).row 8).reads z) = [] ∧ ((alone.modGroup 0 fun gr => { gr with shared := { gr.shared with tl := 255 } }).sharedOf 0).count 3 = 255 ∧
     ({ alone with ops := (List.range 16).map fun n => (n, { instr := .mzro plainWord z, gid := 0, core := 0, ctx := 0, team := 0, tok := 64, cls := 3 }) }.ops.filter
       fun (o : Nat × Op) => o.2.core == 0 && isMatrix o.2.instr).length = 16 ∧ alone.placeLost (.scr 0 64) 16 = false ∧
     (alone.modCore 0 fun c => { c with badWords := [(16, .uncorrectable)] }).placeLost (.scr 0 64) 16 = true) :=
  ⟨rig_sound, sound_of rfl (by decide +kernel), sound_of rfl (by decide +kernel), sound_of rfl (by decide +kernel), sound_of rfl (by decide +kernel),
   sound_of rfl (by decide +kernel), by decide +kernel⟩

theorem witness_SingleMatrixCommandsAct :
    let big := (rig 0 0 0).modCore 0 fun c => { c with marrow := { c.marrow with stashSize := 4096, stash := [(3, { base := 0, size := 64 })] } }
    let f := fun (id n : Nat) => fields 0 4 0 5 0 9 0 (id + 2 ^ 6 * n + 2 ^ 31)
    Sound big eight ∧ (eight.stream = false ∧ big.active plainWord ≠ [] ∧ eight.view = none ∧ (f 3 1).a.toNat < 64 ∧ (f 3 1).b.toNat < 64 ∧
      mxTk (f 3 1) = true ∧ (big.sharedOf 0).count 1 ≠ 255 ∧ big.mxCheck (.mstsh plainWord (f 3 1)) 0 0 0 0 = none ∧
      (big.mxCheck (.mstsh plainWord (f 3 1)) 0 0 32 0).isSome = true ∧ big.mxCheck (.mldsh plainWord (f 3 1)) 0 0 0 0 = none ∧
      (Tab.get? (big.core 0).marrow.stash 3).isSome = true ∧ Tab.get? (big.core 0).marrow.stash 4 = none ∧ 4096 < 64 + 64 * 64 ∧ 64 + 64 * 63 ≤ 4096 ∧
      big.outOf 0 64 = false ∧ big.outOf 4096 64 = true ∧ (Instr.mseq plainWord (fields 4 0 0 0 0 0 0 0)).wf = true ∧
      (rig 0 0 0).mxCheck (.mxpose plainWord (fields 0 4 0 5 0 0 0 (0x18 + 0x18 * 64))) 0 0 0 0 ≠ some (0x24, 1, 0)) :=
  ⟨sound_of rfl (by decide +kernel), by decide +kernel⟩

/-! A unit's step: no issue is under way. -/

def quiet (s : State) : State := { s with cur := none, agenda := [] }
/-- One operation of the group is in flight. -/
def work (s : State) (o : Op) : State := { quiet s with ops := [(0, o)] }
def opOf (ins : Instr) (args : List Nat) : Op := { instr := ins, gid := 0, core := 0, ctx := 0, team := 0, tok := 8, cls := 2, args := args }
/-- The team's role has no grant, so that its group is no member of a matrix collective. -/
def plain (s : State) : State := s.modTeam 0 fun t => { t with roles := [{ probeRole with grant := 0 }] }

theorem unlogged_of {s : State} (hc : s.cur = none) (hm : Memory.wf s = true) (hd : s.dies = []) : Unlogged s :=
  ⟨hc, hm, fun d => by unfold State.die; rw [hd]; exact ⟨rfl, rfl⟩⟩

/-- A stop of a group: ignored, retried, passed up to a kill, halted, and one whose group has no stop. -/
theorem witness_StopsAreWalked :
    let st : Stop := { code := 0x21, pc := 0x10000, lanes := List.range 8 }
    let stopped := fun (x : Stop) (cpol : Nat) => plain ((quiet (rig 0 0 0)).modGroup 0 fun gr => { gr with
      stop := some x, frontier := [], cause := 0x21, shared := { gr.shared with cpol := BitVec.ofNat 57 cpol, ufh := if cpol = 4 then 0x10000 else 0 } })
    let sees := fun (s : State) (x : Stop) => (Tab.get? s.groups 0).isSome = true ∧ (s.group 0).stop = some x
    sees (stopped st 0) st ∧ sees (stopped st 4) st ∧ sees (stopped { st with halted := true } 0) { st with halted := true } ∧
    sees (stopped { st with code := 0x1F } 0) { st with code := 0x1F } ∧
    WalkEnds (fun _ => 0) 0 0 0 0 0 ∧ WalkEnds (fun _ => 1) 0 15 1 1 1 ∧ WalkEnds (fun _ => 3) 0 0 3 2 0 ∧ WalkEnds (fun l => if l = 0 then 3 else 2) 0 7 1 2 7 ∧
    ((∀ p ∈ (stopped st 0).groups, (stopped st 0).member p.2 = false) ∧ (∀ p ∈ (stopped st 0).launches, p.2.live ≠ 0) ∧
     ((stopped st 4).sharedOf 0).ufh ≠ 0 ∧ ((stopped st 4).checkTargets 0 0 [0x10000]).2 = none ∧ ((stopped st 4).checkTargets 0 0 [0x1000C]).2 ≠ none ∧
     (((stopped st 4).checkTargets 0 0 [0x10000]).1.group 0) = (stopped st 4).group 0 ∧ ((stopped st 4).sharedOf 0).cpol.toNat / 2 ^ (2 * (0x21 / 16 % 8 - 1)) % 4 = 1 ∧
     ((stopped st (2 ^ 56)).sharedOf 0).cpol.getLsbD 56 = true) := by
  refine ⟨by decide +kernel, by decide +kernel, by decide +kernel, by decide +kernel, ?_, ?_, ?_, ?_, by decide +kernel⟩
  · exact ⟨by decide, by decide, fun l _ h => absurd h (by omega), .inl (by decide)⟩
  · exact ⟨by decide, by decide, fun l _ h => match l with | 0 => .inr ⟨rfl, rfl⟩ | _ + 1 => absurd h (by omega), .inr (.inl (by decide))⟩
  · exact ⟨by decide, by decide, fun l _ _ => .inl rfl, .inr (.inr (.inr ⟨rfl, .inl rfl, rfl, rfl⟩))⟩
  · exact ⟨by decide, by decide, fun l _ h => match l with | 0 => .inl rfl | _ + 1 => absurd h (by omega), .inr (.inr (.inl (by decide)))⟩

theorem witness_AgesAndRetirementsAct :
    let r := plain (quiet (rig 0 0 0))
    let dead := fun (gr : Group) => { gr with lanes := List.replicate 8 { live := false }, frontier := [], unjoined := [] }
    let isOver := r.modGroup 0 dead
    let two := { isOver with groups := isOver.groups ++ [(1, r.group 0)] }
    let fails := isOver.modGroup 0 fun gr => { gr with unjoined := [{ token := 8, cause := 0x68, cls := 0 }] }
    let old := { quiet streamRig with cycle := 65536 }
    let last := { { quiet streamRig with groups := streamRig.groups.map fun (p : Nat × Group) => (p.1, dead p.2) } with launches := [(0, { die := 0, gseq := 0, ctx := 0, prio := 0, cls := 0, record := 0, next := 1, live := 2 })] }
    let oldLine := r.modGroup 0 fun gr => { gr with refetch := some 0x10000 }
    let s1 := (oldLine.modGroup 0 fun gr => { gr with refetch := none }).modCore 0 fun c => { c with fetched := Tab.erase c.fetched 0x10000 }
    let ended := fun (s : State) (g : Nat) => (∀ ln ∈ (s.group g).lanes, ln.live = false) ∧ (s.group g).retired = false ∧ (s.group g).stop = none ∧ s.ops = []
    ((Tab.get? r.groups 0).isSome = true ∧ (r.group 0).frontier.length = 1 ∧ (old.teamOf 0).stream = true ∧ old.ready 0 (old.group 0) = true ∧
     4096 ≤ old.cycle - (old.group 0).readySince ∧ 65536 ≤ old.cycle - (old.group 0).lastIssue ∧ (r.group 0).refetch = none ∧
     (s1.access 0 0 0x10000 .fetch).2.isOk = true ∧ ({ s1 with tlbs := [] }.access 0 0 0x10000 .fetch).2.isOk = false ∧
     (match s1.access 0 0 0x10000 .fetch with
      | (s2, .ok x) =>
        let r := (s2.dropLine (s2.cacheKey 0 x.pa) (paLa x.pa / 512)).readSector 0 0 x
        paRegion x.pa == 0 && r.2.status == 0 && parityOk r.2.val
      | _ => false) = true ∧ parityOk 1 = false ∧ (selectEntry (oldLine.group 0).frontier).isSome = true ∧
     ended isOver 0 ∧ ended two 0 ∧ ended fails 0 ∧ ended last 0 ∧ ended last 1 ∧ (fails.group 0).unjoined ≠ [] ∧ (isOver.group 0).unjoined = [] ∧
     (isOver.teamOf 0).stream = false ∧ isOver.member (isOver.group 0) = false ∧ (isOver.teamOf 0).barriers = [] ∧ (isOver.teamOf 0).syncBad = [] ∧ (isOver.group 0).core < 512 ∧
     (two.groups.map Prod.fst).Nodup ∧ (two.groups.any fun p => p.1 != 0 && p.2.team == 0 && !p.2.retired) = true ∧
     (isOver.teamOf 0).ended = false ∧ (isOver.teamOf 0).node = none ∧ (Tab.get? isOver.teams 0).isSome = true ∧
     (last.teamOf 0).stream = true ∧ (∀ p ∈ last.launches, 1 < p.2.live) ∧ (∀ p ∈ last.groups, ∀ ln ∈ p.2.lanes, ln.live = false)) := by decide +kernel

/-- A 64-byte fill of the window, a gather whose sector is read, and an atomic whose old value is known. -/
theorem witness_CopiesComplete :
    let s := window (rig 0 0 0) copyDesc 64
    let g := opOf (.cpg plainWord (fields 8 4 0 0 0 0 0 9)) [9, copyDesc]
    let g1 := { g with rest := [16], buf := [(0x400, 5)] }
    let a := { opOf (.cpa plainWord (fields 8 4 0 0 0 0 0 0x202)) [0x202, 0x10000, 0] with buf := [(0, 7)] }
    let ready := fun (o : Op) (k : Nat) => (List.range 64).all fun j => match o.copy.writer (64 * k + j) with
      | some (r, n) => (o.copy.needs r n).all (fun q => (Tab.get? o.buf q).isSome) && (match o.rowByte o.copy r n with | Got.ok (_, fl) => fl == 0 | _ => false)
      | none => false
    Serves (work s g) 0 g ∧ Serves (work s g1) 0 g1 ∧ Serves (work s a) 0 a ∧ Serves (work s { g with gwct := 1 }) 0 { g with gwct := 1 } ∧
    passed (work s g) g ∧ ¬ passed (work s g) { g with gwct := 1 } ∧ passed { work s g with time := 2 } { g with gwct := 1 } ∧
    (isCopy g.instr = true ∧ isCopy a.instr = true ∧ copyCmd g.instr = some .g ∧ copyCmd a.instr = none ∧ g.copy.dst = some .window ∧ g.rest = [] ∧
     ready g1 16 = true ∧ ((work s g).teamOf 0).out = false ∧ (((work s g).modTeam 0 fun t => { t with out := true }).teamOf 0).out = true ∧ a.buf ≠ []) := by
  refine ⟨?_, ?_, ?_, ?_, .inl rfl, by unfold passed; decide +kernel, .inr (by decide +kernel), by decide +kernel⟩ <;> (unfold Serves; decide +kernel)

theorem witness_MatrixOperationsComplete :
    let ops := [opOf (.mzro plainWord (fields 2 0 0 0 0 0 0 0)) [0], { opOf (.maddt plainWord (fields 2 0 0 1 0 0 0 0)) [0] with members := [(0, 8)], rest := [0] },
      opOf (.mscl plainWord (fields 2 0 0 4 0 0 0 0)) [0, 0x3F800000], { opOf (.mzro plainWord (fields 2 0 0 0 0 0 0 0)) [0] with after := [0] }]
    (∀ o ∈ ops, Serves (work (rig 0 0 0) o) 0 o) ∧
    (wfAll (ops.map Op.instr) = true ∧ (∀ o ∈ ops, isMatrix o.instr = true) ∧ ((rig 0 0 0).core 0).marrow.bad = [] ∧ (∀ p ∈ (rig 0 0 0).groups, p.2.parked = none) ∧
     ((work (rig 0 0 0) (ops.getD 3 default)).op 0).isSome = true ∧ (work (rig 0 0 0) (ops.getD 3 default)).op 1 = none ∧ ((opOf (.mzro plainWord (fields 2 0 0 0 0 0 0 0)) [0]).members.map Prod.fst).Nodup) := by
  refine ⟨?_, by decide +kernel⟩
  unfold Serves; decide +kernel

theorem witness_RenderOperationsComplete :
    let s := window (rig 0 0 0) 0 64
    let one := fun (ins : Instr) (args vs : List Nat) => { opOf ins args with members := [(0, 8)], lanes := [(0, 0, 0)], vals := [(0, vs)] }
    let grid := 14 * 2 ^ (512 + 20) + 2 ^ (512 + 25) + 0x10000 * 2 ^ (512 + 64) + 0x10000 * 2 ^ (512 + 128)
    let tex := { one (.tex plainWord (fields 20 8 0 4 0 12 0 0)) [0] (texDesc :: [0, 0]) with buf := [(0x400, 0)] }
    let push := one (.rpush plainWord (fields 20 8 0 24 0 16 0 0)) [] ([0, 512, 3] ++ List.replicate 15 0)
    let pop := one (.rpop plainWord (fields 20 0 0 24 0 16 0 0)) [] ([0, 512, 4] ++ List.replicate 12 0)
    let cfg := one (.hcfg plainWord (fields 20 4 0 0 0 0 0 5)) [5] []
    let gath := { one (.hgath plainWord (fields 20 4 0 0 0 16 0 5)) [grid] [0, 0, 0] with buf := [(0x400, 0)] }
    let scat := { one (.hscat plainWord (fields 20 4 0 16 0 0 0 5)) [grid] [0, 0, 0, 0] with moved := true }
    (∀ o ∈ [tex, push, pop, cfg, gath, scat], Serves (work s o) 0 o) ∧ passed s scat ∧ ¬ passed s { scat with gwct := 1 } ∧
    (isRender tex.instr = true ∧ (tex.renderSectors.all fun k => (Tab.get? tex.buf k).isSome) = true ∧ tex.renderSectors ≠ [] ∧
     (tex.vals.all fun v => (tex.laneSectors v.2).all fun k => tex.sectorState (tex.laneFmt v.2) k == 0) = true ∧
     (push.vals.all fun v => v.2.length == 18 && decide (v.2.getD 2 0 % 8 < 4)) = true ∧
     (pop.vals.all fun v => v.2.length == 15 && decide (1 ≤ v.2.getD 2 0 % 8) && decide (v.2.getD 2 0 % 8 ≤ 4) && decide (v.2.getD 2 0 / 2 ^ 10 % 2 ^ 6 < 2 ^ (pop.fields.xf 19 3 + 2))) = true ∧
     pop.fields.c.toNat + 3 ≤ pop.fields.b.toNat ∧ gridOk grid [4096] = true ∧ (gath.tableSectors.all fun k => (Tab.get? gath.buf k).isSome) = true ∧ scat.rest = []) := by
  refine ⟨?_, .inl rfl, by unfold passed; decide +kernel, by decide +kernel⟩
  unfold Serves; decide +kernel

theorem witness_TaskCommandsComplete :
    let x := 2 ^ 8
    let s := fun (e : Edge) => graphRig (window (rig 0 0 0) 0 512) e
    let f := fields 8 4 0 12 0 16 0
    let many : List EdgeSlot := [.held 4 0 0, .claimed 5 0]
    let full := (s (edge1 [.free, .free])).modDie 0 fun di => { di with queues := [(7, { en := true, logn := 1, tail := 1, head := 2 ^ 32 - 1 })] }
    let ops := [opOf (.tqry plainWord (f x)) [0, 0], opOf (.tclose plainWord (f x)) [0, 0], opOf (.tdone plainWord (f x)) [0, 0], opOf (.trecv plainWord (f x)) [0, 0],
      opOf (.tgrain plainWord (f 0)) [0, 0], opOf (.trange plainWord (f (x + 2))) [0, 0], opOf (.tspawn plainWord (f 7)) [0, 0], opOf (.tsend plainWord (f x)) [0, 0]]
    (∀ o ∈ ops, Serves (work (s (edge1 [.free, .free])) o) 0 o ∧ Serves (work full o) 0 o) ∧
    ((∀ o ∈ ops, o.moved = false ∧ o.gwct = 0) ∧ ((s (edge1 many)).teamOf 0).out = false ∧ ((s (edge1 many)).graphOf 0 1).edgeTab[0]? = some (edge1 many) ∧
     (1, 0) ∉ ((s (edge1 many)).teamOf 0).closed ∧ (edge1 many).overfull = false ∧ (edge1 many).heldBy 0 ≠ [] ∧ (edge1 [.free, .free]).claimedBy 0 = [] ∧
     ((s (edge1 many)).teamOf 0).interval = some (0, 10, 4) ∧ (((s (edge1 many)).graphOf 0 1).nodeTab[2]?.map fun n => n.tasks.length) = some 0 ∧
     (((full.die 0).queue 7).tail + 2 ^ 32 - ((full.die 0).queue 7).head) % 2 ^ 32 = 2 ^ ((full.die 0).queue 7).logn ∧
     (edge1 many).slots[0]? ≠ some .free ∧ (edge1 [.free, .free]).slots[1]? = some .free ∧ (edge1 [.free, .free]).slots[2]? = none ∧
     (let o := ops.getD 7 default
      let w := work (s (edge1 [.free, .free])) o
      w.firstSend 0 o o.fields && (Tab.get? ((w.opStore 0 0x10000 0 16).die 0).graphs 1).isSome &&
        ((w.opStore 0 0x10000 0 16).op 0).any fun o => o.rest.isEmpty && o.status == 0) = true ∧
     ((s (edge1 many)).group 0).horizon = 0 ∧ (let h := (s (edge1 many)).modGroup 0 fun gr => { gr with horizon := 5 }
       (h.group 0).horizon = 5 ∧ ¬ 5 < h.gtc 0)) := by
  refine ⟨?_, by decide +kernel⟩
  unfold Serves; decide +kernel

/-! ### Near memory and device memory -/

def nearRow (k : Nat) (ins : Instr) (bank : Nat) (x : Nat) : Nat × NmRow :=
  (k, { op := 9, gid := 0, core := 0, ctx := 0, bank := bank, instr := ins, desc := 0x10000, va := 0x10000, pa := 0x10000, x := x })

/-- Every module of every die is down. -/
def cut (s : State) : State :=
  { s with modules := (List.range 4).flatMap fun d => (List.range 2).flatMap fun p => (List.range 4).map fun m => (moduleKey d p m, { state := 2 }) }

theorem witness_NearMemoryOperationsComplete :
    let s := window (rig 0 0 0) 0 64
    let desc := 0x10000 + 1024 * 2 ^ 64
    let add := { opOf (.nmadd plainWord (fields 8 4 0 0 0 0 0 2)) [desc] with rest := [0], vals := [(1, [0x10000, 0x1015F])] }
    let far := { add with vals := [(1, [2 ^ 38, 0x1015F])] }
    let red := opOf (.nmred plainWord (fields 8 4 0 0 0 0 0 0)) [desc + 2048 * 2 ^ 320, 2 ^ 31]
    let fence := { opOf (.nmfence plainWord (fields 8 0 0 0 0 0 0 4)) [1] with moved := true, buf := [(0, 5)] }
    let marker := fun (d : Nat) => { fence with rest := [d], buf := [] }
    let sent := fun (o : Op) (u : Nat) => { work s o with reqs := [(0, { job := .unit 0 u, msg := { src := 0, org := 0, dst := 1, lane := 0 } })] }
    let after := fun (o p : Op) => { work s p with ops := [(0, o), (1, p)] }
    let cfg := opOf (.arcfg plainWord (fields 8 4 0 0 0 0 0 2)) []
    let ared := { opOf (.ared plainWord (fields 8 4 0 0 0 0 0 2)) [] with vals := [(0, [1]), (1, [1])] }
    let rowed := fun (k : Nat) (o : Op) => { work s o with nmRows := [nearRow k add.instr 5 0] }
    let slot := fun (a : Nat) => { work s ared with arSlots := [(2, { owner := some 0, mask := 1, ty := 9, nsec := 1, arr := a })] }
    let full := { work s add with nmRows := (List.range 64).map fun k => nearRow k add.instr 0 0 }
    (∀ o ∈ [add, far, red, fence, marker 0, marker 1, cfg, ared], Serves (work s o) 0 o) ∧ Serves (after add add) 1 add ∧ Serves (cut (work s far)) 0 far ∧ Serves (rowed 3 fence) 0 fence ∧ Serves full 0 add ∧ passed (slot 1) ared ∧ (full.nmRows.filter fun q => q.2.bank == 0).length = 64 ∧
    (((work s add).teamOf 0).out = false ∧ nearUpdate add.instr = true ∧ (work s add).rowBank add 0 = 0 ∧ (work s add).hasJob (.unit 0 0) = false ∧ (sent far 0).hasJob (.unit 0 0) = true ∧
     (work s add).undelivered 0 0 0 = false ∧ (after add add).undelivered 1 0 0 = true ∧ (work s add).reaches 0 0x10000 = true ∧ homeDie 0x10000 = 0 ∧
     homeDie (2 ^ 38) = 1 ∧ (work s far).reaches 0 (2 ^ 38) = true ∧ (cut (work s far)).reaches 0 (2 ^ 38) = false ∧
     (sent (marker 1) 1).hasJob (.unit 0 1) = true ∧ (after add (marker 0)).markerBehind 1 (marker 0) 0 = true ∧ (work s (marker 0)).markerBehind 0 (marker 0) 0 = false ∧
     ((work s (marker 1)).route 0 1).isSome = true ∧ (cut (work s (marker 1))).route 0 1 = none ∧
     ((work s fence).undone 0 fence) = [] ∧ ((after { red with rest := [0], vals := [(1, [0x10000, 0x1015F])] } fence).undone 0 { red with rest := [0] }) = [0] ∧
     { work s fence with nmDone := [(0, { ctx := 0, bank := 0, gwct := 7 })] }.gtc 0 ≤ 7 ∧ fence.covers 0 = true ∧
     (((work s add).draw.rowHome 0 add 0).map fun r => r.2.status) = some 0 ∧
     nearRed red.instr = true ∧ (work s red).mayRead 0 red 0 = true ∧ Near.len (red.args.getD 0 0) ≠ 0 ∧ bagsOf (red.args.drop 1) 0 [] = [[0]] ∧
     ((rowed 3 fence).nmRows.any fun p => p.2.ctx == 0 && fence.before p.1 p.2.bank) = true ∧
     ((rowed 7 fence).nmRows.any fun p => p.2.ctx == 0 && fence.before p.1 p.2.bank) = false ∧ (work s fence).nmDone = [] ∧
     ((slot 1).arSlot 2).mask ≠ 0 ∧ ((slot 1).arSlot 2).arr = ((slot 1).arSlot 2).mask ∧ ((slot 0).arSlot 2).arr ≠ ((slot 0).arSlot 2).mask ∧ (slot 1).ringUp 1 = true ∧
     (slot 1).entered 2 = [(0, ared)] ∧ arSlotOf ared.instr = 2 ∧ isAred ared.instr = true ∧ (Tab.get? (slot 1).groups 0).isSome = true) := by
  refine ⟨?_, ?_, ?_, ?_, ?_, .inl rfl, by rw [List.filter_eq_self.2 (by simp [nearRow])]; rfl, by decide +kernel⟩ <;> (unfold Serves; decide +kernel)

theorem witness_DeviceAccessesPerform :
    let s := { window (rig 0 0 0) copyDesc 64 with lines := [(128, .flat)] }
    let f := opOf (.cpf plainWord (fields 8 4 0 0 0 0 0 0x200)) [0x200, 0x11 + 0x10000 * 2 ^ 64 + 64 * 2 ^ 128 + 2 ^ 160]
    let fill := { f with rest := [0x400] }
    let get := { opOf (.cpg plainWord (fields 8 4 0 0 0 0 0 9)) [9, copyDesc] with rest := [16] }
    let red := { opOf (.nmred plainWord (fields 8 4 0 0 0 0 0 0)) [0x10000 + 1024 * 2 ^ 64 + 2048 * 2 ^ 320, 2 ^ 31] with rest := [0], vals := [(1, [0x10000, 0x1015F])] }
    let far := { red with vals := [(1, [2 ^ 38, 0x1015F])] }
    let ared := { opOf (.ared plainWord (fields 8 4 0 0 0 0 0 2)) [0x10000 + 0x10040 * 2 ^ 64] with rest := [0], vals := [(0, [1])] }
    let out := { ared with rest := [2 ^ 40], buf := [(0, 0), (1, 0), (2, 0)] }
    let arSlots := [(2, ({ owner := some 0, mask := 1, ty := 9, nsec := 1, arr := 1 } : ArSlot))]
    let dest := fun (o : Op) (va : Nat) (a : Acc) => (match (work s o).opAddr o va a with
      | (t, .ok x) => decide (t = work s o) && paRegion x.pa == 0 && (work s o).reaches 0 x.pa
      | _ => false) = true
    (∀ o ∈ [fill, get, red, far, ared, out], Serves (work s o) 0 o) ∧ Serves (cut (work s far)) 0 far ∧ Unlogged (work s fill) ∧ Unlogged { work s out with arSlots := arSlots } ∧
    (get.nextSource = some 0x400 ∧ fill.nextSource = none ∧ (work s red).mayRead 0 red 0 = true ∧ (work s red).hasJob (.unit 0 0) = false ∧ Near.len (red.args.getD 0 0) = 64 ∧
     ((work s fill).goesNow 0 fill { pa := 0x10000, pte := 0x1015F, level := 0, at_ := 0 }).2 = true ∧
     (work s red).reaches 0 (red.rowPa 0) = true ∧ homeDie (red.rowPa 0) = 0 ∧ homeDie (far.rowPa 0) = 1 ∧ (work s far).reaches 0 (far.rowPa 0) = true ∧
     (cut (work s far)).reaches 0 (far.rowPa 0) = false ∧ red.gone (red.rowVa 0) = false ∧
     dest ared 0x10000 .read ∧ dest fill 0x10000 .write ∧ dest out 0x10040 .write ∧
     ((work s fill).teamOf 0).out = false ∧ fill.copy.dst = some .device ∧ fill.copy.da = false ∧ ((work s fill).backLine 128).isSome = true ∧
     ((List.range 64).all fun j => match fill.copy.writer (64 * 0x400 + j) with
       | some (a, b) => (fill.copy.needs a b).isEmpty && (match fill.rowByte fill.copy a b with | Got.ok (v, _) => v == 0x11 / 2 ^ (8 * (j % 8)) % 256 | _ => false)
       | none => false) = true ∧
     ({ work s out with arSlots := arSlots }.arOut 2 0).val = some (0, 0)) := by
  refine ⟨?_, ?_, unlogged_of rfl (by decide +kernel) rfl, unlogged_of rfl (by decide +kernel) rfl, by decide +kernel⟩ <;> (unfold Serves; decide +kernel)

/-- A page table of five levels whose last leaf maps page 16: tables at 4,096 to 5 · 4,096, the context's entry at 0. -/
def mapped (pte : Nat) : State :=
  let put := fun (m : List Host.Cell) (a v : Nat) => cellStore m a v 8
  let mem := (List.range 4).foldl (fun m k => put m (4096 * (k + 1)) (4096 * (k + 2) + 1)) (cellStore [] 0 (1 + 2 ^ 64) 64)
  { quiet (rig 0 0 0) with mem := put mem (4096 * 5 + 8 * 16) pte, tlbs := [], lines := [(128, .flat)] }

theorem witness_DeviceMemoryIsManaged :
    let cl : CacheLine := { sectors := [(0, { val := 0, desc := 0, lease := 5 }), (1, { val := 0, desc := 0, lease := 9 })] }
    let leased := fun (n : Nat) => { quiet (rig 0 0 0) with caches := [(0, [(128, cl)])], time := n }
    let cow := opOf (.cpf plainWord (fields 8 4 0 0 0 0 0 0x200)) [0x200, 0x11 + 0x10000 * 2 ^ 64 + 64 * 2 ^ 128 + 2 ^ 160]
    let s := { mapped 0x10037 with ops := [(0, { cow with rest := [0x400] })] }
    let pooled := fun (fs : List Nat) => s.modDie 0 fun di => { di with pool4k := fs }
    Unlogged s ∧
    (Tab.get? (Tab.getD (leased 4).caches 0 []) 128 = some cl ∧ (leased 4).gtc 0 < 5 ∧ 5 ≤ (leased 5).gtc 0 ∧
     (s.walk 0 0 0x10000).isOk = true ∧ (s.walk 0 0 0x11000).isOk = false ∧ (s.walk 0 1 0x10000).isOk = false ∧
     s.writesPage 0 16 = true ∧ s.writesPage 0 17 = false ∧
     (match s.walk 0 0 0x10000 with
      | .ok x => pteCow x.pte && !pteC64 x.pte && !pteFlat x.pte && x.at_ == 4096 * 5 + 128 && x.pte / 2 ^ 12 % 2 ^ 28 == 16
      | .error _ => false) = true ∧
     (match (mapped 0x1001F).walk 0 0 0x10000 with | .ok _ => true | .error _ => false) = true ∧
     ((pooled []).die 0).pool4k = [] ∧ ((pooled [4096 * 64]).die 0).pool4k = [4096 * 64] ∧ ((pooled [4096 * 64]).die 0).soft ≤ ((pooled [4096 * 64]).die 0).freeSectors ∧
     ((List.range 8).all fun l => (Tab.get? s.lines (8 * 64 + l)).isNone) = true ∧ (s.mem.all fun c => !(decide (4096 * 64 ≤ c.1) && decide (c.1 < 4096 * 65))) = true ∧
     ((s.modDie 0 fun di => { di with freeSectors := 0 }).die 0).freeSectors = 0 ∧ (s.die 0).freeSectors ≠ 0 ∧
     4096 * 64 / 2 ^ 38 = 0 ∧ 64 % 16 = 0 ∧ ((s.die 0).pool4k.length < 65535)) := ⟨unlogged_of rfl (by decide +kernel) rfl, by decide +kernel⟩

theorem witness_RootUnitsUpdate :
    let bank := 80
    let rows := fun (ins : Instr) => { quiet (rig 0 0 0) with nmRows := [nearRow 3 ins bank 0x3F800000], flat := [(1, 0)] }
    let add := rows (.nmadd plainWord (fields 8 4 0 0 0 0 0 0))
    let opt := rows (.nmopt plainWord (fields 8 4 0 0 0 0 0 8))
    let read5 := { opOf (.nmred plainWord (fields 8 4 0 0 0 0 0 0)) [] with rest := [0], vals := [(1, [5 * 1024, 0])] }
    let stuck := { add with ops := [(5, read5)] }
    let gone := { add with nmRows := add.nmRows.map fun (r : Nat × NmRow) => (r.1, { r.2 with gone := true }) }
    let poor := add.modDie 0 fun di => { di with freeSectors := 0 }
    Unlogged add ∧ Unlogged opt ∧ Unlogged gone ∧
    ((quiet (rig 0 0 0)).oldestRow bank 0 = none ∧ (add.oldestRow bank 0).isSome = true ∧ (opt.oldestRow bank 0).isSome = true ∧
     stuck.unread 9 0 bank = true ∧ add.unread 9 0 bank = false ∧ (gone.oldestRow bank 0).any (fun r => r.2.gone) = true ∧ (poor.oldestRow bank 0).any (fun r => (poor.backRow r.2).isNone) = true ∧
     nearOpt (Instr.nmopt plainWord (fields 8 4 0 0 0 0 0 8)) = true ∧ nearOpt (Instr.nmadd plainWord (fields 8 4 0 0 0 0 0 0)) = false ∧
     Near.len 0x10000 = 64 ∧ 0x10000 % 64 = 0 ∧ 0x10000 < 2 ^ 40 - 512 ∧ (add.nmRows.map Prod.fst).Nodup ∧ add.faults = [] ∧
     (add.oldestRow bank 0).any (fun r => (add.backRow r.2).isSome) = true ∧ (opt.oldestRow bank 0).any (fun r => (opt.backRow r.2).isSome) = true) :=
  ⟨unlogged_of rfl (by decide +kernel) rfl, unlogged_of rfl (by decide +kernel) rfl, unlogged_of rfl (by decide +kernel) rfl, by decide +kernel⟩

/-! ### Scheduling and control -/

/-- A record of one team, of one group of eight fibres with entry 0x10000; and one of two teams placed as a gang. -/
def oneRecord : Nat := (2 ^ 8 + 0x10000 * 2 ^ 64) * 2 ^ 1024
def gangRecord : Nat := oneRecord + 2 ^ 11 + 2 ^ 32

/-- Context 0 is enabled, die 0's scheduler holds the leaf of page 16, and the record stands there. -/
def sched (r : Nat) : State :=
  { State.reset with mem := cellStore (cellStore [] 0 1 1) 0x10000 r 512, lines := [(128, .flat)], tlbs := [(dieAgent 0, [(16, { pte := 0x1001F, level := 0 })])] }
def queued (r head tail : Nat) : State :=
  (sched r).modDie 0 fun di => { di with queues := [(3, { base := 0x10000, logn := 0, en := true, head := head, tail := tail })] }
def launched (r next : Nat) : State := { sched r with launches := [(0, { die := 0, gseq := 0, ctx := 0, prio := 0, cls := 0, record := r, next := next })], seq := 1 }

theorem find_of_all {α : Type} {p : α → Bool} : ∀ {l : List α}, l ≠ [] → (∀ x ∈ l, p x = true) → ∃ x, l.find? p = some x
  | [], h, _ => absurd rfl h
  | a :: l, _, h => ⟨a, List.find?_cons_of_pos (h a (by simp))⟩

theorem mem_of_rotate {α : Type} {x : α} {l : List α} {n : Nat} (h : x ∈ l.rotateLeft n) : x ∈ l := by
  unfold List.rotateLeft at h
  dsimp only at h
  split at h
  · exact h
  · exact (List.mem_append.1 h).elim List.mem_of_mem_drop List.mem_of_mem_take

theorem rotate_ne {α : Type} {l : List α} {n : Nat} (h : l ≠ []) : l.rotateLeft n ≠ [] := by
  unfold List.rotateLeft
  dsimp only
  split
  · exact h
  · intro e
    exact h (by rw [← List.take_append_drop (n % l.length) l, (List.append_eq_nil_iff.1 e).1, (List.append_eq_nil_iff.1 e).2]; rfl)

theorem someSetFits {s : State} (h : (((List.range 16).flatMap fun c => (coreSets 1).map fun ks => (16 * 0 + c, ks.map fun k => 8 * (16 * 0 + c) + k)).all fun y =>
      s.fitsNow (recNeeds oneRecord) y.1 y.2) = true) : ∃ x, (dieSets 0 1 s.free).find? (fun y => s.fitsNow (recNeeds oneRecord) y.1 y.2) = some x := by
  unfold dieSets
  exact find_of_all (rotate_ne fun e => absurd (congrArg List.length e) (by decide +kernel)) fun x hx => List.all_eq_true.1 h x (mem_of_rotate hx)

theorem unlogged_one {s : State} {di : Die} (hc : s.cur = none) (hm : Memory.wf s = true) (hd : s.dies = [(0, di)]) (h : di.logEn = false ∧ di.logWait = []) : Unlogged s :=
  ⟨hc, hm, fun d => by
    unfold State.die Tab.getD
    rw [hd]
    cases d with
    | zero => exact h
    | succ n => exact ⟨rfl, rfl⟩⟩

def graphed (nd : Node) (e : Edge) (time : Nat) : State :=
  { (sched oneRecord).modDie 0 fun di => { di with graphs := [(1, { run := true, en := true, nodeTab := [nd], edgeTab := [e] })] } with time := time }
def nodeOf (kind thr maxw : Nat) : Node := { record := 0x10000 + kind * 2 ^ 64 + thr * 2 ^ 80 + maxw * 2 ^ 96 + (if kind = 2 then 2 ^ 128 else 0) }
def starting (nodes edge : Nat) : State :=
  { (sched 0).modDie 0 fun di => { di with graphs := [(1, { nodes := nodes, edges := 0x10040, starting := true, en := true })] } with
    mem := cellStore (cellStore (cellStore [] 0 1 1) 0x10000 (0x10000 + 2 ^ 80) 32) 0x10040 (0x10000 + edge) 32 }

theorem witness_TeamsAreLaunched :
    let q := fun (s : State) => (s.die 0).queue 3
    let task : RangeTask := { id := 0, lo := 0, hi := 10, arg := 5, donea := 0 }
    let ranged := graphed { nodeOf 2 0 0 with tasks := [task] } (edge1 [.full 3 0, .free]) 0
    let split := { ranged with teams := [(0, { launch := 0, ctx := 0, cores := [], node := some (1, 0), interval := some (0, 10, 1), task := some 0 })] }
    let loads := fun (s : State) (va : Nat) => ((s.loadMany 0 0 0 va 8).2.any fun v => recReason v == 0 && !recDep v) = true
    let fits := fun (s : State) => (((List.range 16).flatMap fun c => (coreSets 1).map fun ks => (c, ks.map fun k => 8 * c + k)).all fun y => s.fitsNow (recNeeds oneRecord) y.1 y.2) = true
    ((q (queued oneRecord 0 0)).tail + 2 ^ 32 - (q (queued oneRecord 0 0)).head) % 2 ^ 32 ≤ 2 ^ (q (queued oneRecord 0 0)).logn ∧
    (1 + 2 ^ 32 - (q (queued oneRecord 0 0)).head) % 2 ^ 32 ≤ 2 ^ (q (queued oneRecord 0 0)).logn ∧ 2 ^ (q (queued oneRecord 0 0)).logn < (2 + 2 ^ 32) % 2 ^ 32 ∧
    ((queued oneRecord 0 1).nextQueue 0 = some 3 ∧ (queued oneRecord 0 0).nextQueue 0 = none ∧ (queued oneRecord 0 1).heldLaunches 0 < 256 ∧
     loads (queued oneRecord 0 1) 0x10000 ∧ ((queued 2 0 1).loadMany 0 0 0 0x10000 8).2.map recReason = some 2 ∧ ((queued oneRecord 0 1).loadMany 0 0 0 0x20000 8).2 = none) ∧
    (maskCores 0 1 = [0] ∧ (recNeeds oneRecord).length = 1 ∧ recGang oneRecord = false ∧ recGang gangRecord = true ∧ recReason oneRecord = 0 ∧ recReason gangRecord = 0 ∧
     (∃ l, Tab.get? (launched oneRecord 0).launches 0 = some l ∧ (launched oneRecord 0).placeable 0 l = true ∧
       (launched oneRecord 0).fitsNow (recNeeds l.record) 0 [0] = true ∧ (launched oneRecord 0).blockedCores 0 l = []) ∧
     (∃ l, Tab.get? (launched oneRecord 1).launches 0 = some l ∧ (launched oneRecord 1).placeable 0 l = false) ∧
     (∃ l, Tab.get? (launched gangRecord 0).launches 0 = some l ∧ (launched gangRecord 0).placeable 0 l = true ∧ l.next = 0) ∧
     ((launched oneRecord 0).modCore 0 fun c => { c with pool := 127 }).fitsNow (recNeeds oneRecord) 0 [0] = false) ∧
    ((starting 0x10000 0).loadRecords 0 0 0 0x10000 1).2 = ([0x10000 + 2 ^ 80], true) ∧ ((starting 0x10000 0).loadRecords 0 0 0 0x10040 1).2 = ([0x10000], true) ∧
    nodeOk [0x10000] 0 (0x10000 + 2 ^ 80) = true ∧ edgeOk 0 0x10000 = true ∧ edgeOk 0 (0x10000 + 2 ^ 80) = false ∧ ((starting 1 0).graphOf 0 1).nodes % 64 ≠ 0 ∧ Unlogged (starting 1 0) ∧
    ((graphed (nodeOf 0 0 0) (edge1 [.full 3 0, .free]) 5).gtc 0 = 5 ∧ (∀ n ∈ [nodeOf 0 0 0, nodeOf 1 2 7, nodeOf 1 1 7], (graphed n (edge1 [.full 3 0, .free]) 0).nodeMay 0 1 0 n = true) ∧
     (edge1 [.full 3 0, .free]).full = 1 ∧ (nodeOf 1 2 7).thr = 2 ∧ (nodeOf 1 2 7).maxw = 8 ∧ (edge1 [.full 3 0, .free]).oldest = some 0 ∧ 8 ≤ (graphed (nodeOf 1 2 7) (edge1 [.full 3 0, .free]) 8).gtc 0 ∧
     loads (graphed (nodeOf 0 0 0) (edge1 [.full 3 0, .free]) 0) 0x10000) ∧
    ((nodeOf 2 0 0).kind = 2 ∧ ranged.rangeWork 0 1 0 { nodeOf 2 0 0 with tasks := [task] } = some (.task task) ∧ ranged.nodeMay 0 1 0 { nodeOf 2 0 0 with tasks := [task] } = true ∧
     split.rangeWork 0 1 0 { nodeOf 2 0 0 with running := [{ task := task, live := 1 }] } = some (.split 0 5 10 task) ∧ loads ranged 0x10000 ∧ fits ranged ∧ ranged.launches = []) ∧
    ∃ x, (dieSets 0 1 ranged.free).find? (fun y => ranged.fitsNow (recNeeds oneRecord) y.1 y.2) = some x := by
  refine ⟨by decide +kernel, by decide +kernel, by decide +kernel, by decide +kernel,
    ⟨by decide +kernel, by decide +kernel, by decide +kernel, by decide +kernel, by decide +kernel, by decide +kernel, ⟨_, rfl, by decide +kernel⟩, ⟨_, rfl, by decide +kernel⟩,
      ⟨_, rfl, by decide +kernel⟩, by decide +kernel⟩,
    by decide +kernel, by decide +kernel, by decide +kernel, by decide +kernel, by decide +kernel, by decide +kernel, unlogged_one rfl (by decide +kernel) rfl ⟨rfl, rfl⟩, by decide +kernel, by decide +kernel, someSetFits (by decide +kernel)⟩

theorem witness_TeamsAreSavedAndRestored :
    let ordered := fun (st : Bool) => (quiet (rig 0 0 0)).modDie 0 fun di => { di with preempt := { busy := true, order := some (0, true, 0, 0, 0), started := st, chosen := if st then [(0, 0)] else [] } }
    let pooled := { ordered false with mem := cellStore [] 0 (1 + 2 ^ 500 - 2 ^ 320) 64 }
    let waits := (ordered true).modTeam 0 fun t => { t with ended := true }
    let away := fun (r : Nat) => { sched r with
      teams := [(0, { launch := 0, ctx := 0, out := true, slot0 := [0], slots := [64], ssize := [0], sbase := [0], srun := [(0, 2048)], regBase := [128], reserve := [0] })]
      launches := [(0, { die := 0, gseq := 0, ctx := 0, prio := 0, cls := 0, record := r, next := 1, live := 1 })] }
    (((ordered false).teams.map Prod.fst).Nodup ∧ ((quiet (rig 0 0 0)).die 0).preempt.order = none ∧ ((ordered false).die 0).preempt.started = false ∧
     ((ordered true).die 0).preempt.started = true ∧ (ordered true).teamStill 0 = true ∧ ((ordered true).modGroup 0 fun gr => { gr with refetch := some 0x10000 }).teamStill 0 = false ∧ waits.teamStill 0 = true ∧ (Tab.get? waits.teams 0).isSome = true ∧
     (pooled.teamOf 0).resident = true ∧ (ordered true).poolLeft 0 0 = 0 ∧ pooled.poolLeft 0 0 ≠ 0) ∧
    (∀ r ∈ [oneRecord, oneRecord + 2 ^ 11], ((away r).teamOf 0).out = true ∧ ((away r).teamOf 0).ended = false ∧ (maskCores 0 1).length = ((away r).teamOf 0).slot0.length ∧
      ctxEn ((away r).ctxEntry 0 0) = true ∧ (away r).savedTeams 0 = [0] ∧ (away r).fitsSaved 0 0 [0] = true ∧ ((away r).teamOf 0).index < 2 ^ 31) ∧
    ((away oneRecord).modCore 0 fun c => { c with pool := 127 }).fitsSaved 0 0 [0] = false ∧ recGang (oneRecord + 2 ^ 11) = true := by decide +kernel

theorem witness_RegistersAreWritten :
    let s := quiet (rig 0 0 0)
    let fused := { s with clusters := [(1, { fuse := true })] }
    Unlogged fused ∧
    ((fused.cluster 1).fuse ≠ (fused.cluster 1).act ∧ (fused.cluster 0).fuse = (fused.cluster 0).act ∧ (fused.teams.all fun x => x.2.cores.all fun k => k / 8 != 1) = true ∧
     (s.teams.any fun x => !x.2.ended && x.2.cores.any fun k => k / 8 == 0) = true ∧ ((s.die 0).queue 1023).en = false ∧ 32 * 1023 + 16 < 0x10000 ∧ 0x10018 + 32 * 63 < 0x11000 ∧
     ((orderWritten {} (2 ^ 63)).busy = true ∧ (orderWritten { busy := true } (2 ^ 63)).order = none ∧ (commandWritten {} (2 ^ 63 + 4)).latched.1 = 4 ∧ (commandWritten {} 4).busy = false)) :=
  ⟨unlogged_of rfl (by decide +kernel) rfl, by decide +kernel⟩

/-- A control command that runs. -/
def commanded (s : State) (op ctx ctx2 a0 a1 : Nat) : State := { s with control := { busy := true, latched := (op, ctx, ctx2, a0, a1, 0) } }

theorem witness_ControlCommandsAct :
    let s := fun (op a0 a1 : Nat) => commanded (quiet (rig 0 0 0)) op 0 1 a0 a1
    let clone := { commanded (mapped 0) 1 0 1 0 0 with mem := cellStore [] 0 (2 ^ 64) 64 }
    let pooled := clone.modDie 0 fun di => { di with pool4k := [4096 * 64] }
    let poor := pooled.modDie 0 fun di => { di with freeSectors := 63 }
    let on := commanded (mapped 0) 1 0 1 0 0
    let held := (s 5 0 128).modGroup 0 fun gr => { gr with stop := some { code := 0x50, pc := 0x10000, halted := true }, halt := true }
    let ending := fun (op a1 : Nat) => commanded { plain (quiet (rig 0 0 0)) with launches := [(0, { die := 0, gseq := 5, ctx := 0, prio := 0, cls := 0, record := 0, next := 1, live := 1 })] } op 0 0 0 a1
    (∀ op ∈ [1, 2, 3, 4, 5, 6, 7], ∃ a2, (s op 0 0).control.latched = (op, 0, 1, 0, 0, a2)) ∧ Unlogged (s 3 0 0) ∧ Unlogged pooled ∧
    ((∀ op ∈ [1, 2, 3, 4, 5, 6, 7, 9], (s op 0 0).control.busy = true) ∧ (quiet (rig 0 0 0)).control.busy = false ∧ ((s 4 0 0).module 0 0 0).state ≠ 3 ∧
     ctxEn (on.ctxEntry 0 0) = true ∧ ctxEn (clone.ctxEntry 0 0) = false ∧ ctxEn (clone.ctxEntry 0 1) = false ∧
     clone.countTables (clone.paLoad 0 64) (ctxRoot (clone.ctxEntry 0 0)) 4 = 1 ∧ (clone.die 0).pool4k.length < 1 ∧ 1 ≤ (pooled.die 0).pool4k.length ∧
     64 * 1 ≤ (pooled.die 0).freeSectors ∧ (poor.die 0).freeSectors < 64 * 1 ∧ pooled.ctxBase.toNat + 64 * 4096 ≤ 2 ^ 40 ∧
     (s 2 0x10000 4096).stale 0 0 16 1 [(16, 0x1001F)] = [16] ∧ (s 2 0x20000 4096).stale 0 0 32 1 [(16, 0x1001F)] = [] ∧ (mapped 0x1001F).stale 0 0 16 1 [(16, 0x1001F)] = [] ∧
     0 / 2 ^ 9 % 2 ^ 13 = held.pkg.toNat ∧ held.slotHolder 0 0 0 = some 0 ∧ held.slotHolder 0 1 0 = none ∧ (Tab.get? held.groups 0).isSome = true ∧ (held.teamOf (held.group 0).team).stream = false ∧
     ((held.group 0).stop.map Stop.halted) = some true ∧
     ((ending 6 5).launches.find? fun l => l.2.die == 0 && l.2.gseq == 5).isSome = true ∧ ((ending 6 5).launches.find? fun l => l.2.die == 0 && l.2.gseq == 6) = none ∧
     ((ending 6 5).groups.map Prod.fst).Nodup ∧ ((ending 6 5).launches.map Prod.fst).Nodup ∧ (∀ x ∈ (ending 7 0).groups, (ending 7 0).member x.2 = false) ∧ (∀ x ∈ (ending 7 0).launches, x.2.live ≠ 0)) := by
  refine ⟨?_, unlogged_of rfl (by decide +kernel) rfl, unlogged_one rfl (by decide +kernel) rfl ⟨rfl, rfl⟩, by decide +kernel⟩
  simp [commanded]

theorem linked_unlogged {s : State} (ms : Tab Module) (n : Nat) (h : Unlogged s) : Unlogged { s with modules := ms, time := n } := ⟨h.1, h.2.1, h.2.2⟩

theorem witness_LinksDeliverAndReplay :
    let far : Msg := { org := 1, dst := 0, lane := 0 }
    let fl := fun (n : Nat) => ({ fsn := n, msg := far } : Flit)
    let at_ := fun (near peer : Module) => { quiet (rig 0 0 0) with modules := [(moduleKey 0 0 0, near), (moduleKey 1 0 0, peer)], time := 2000 }
    let flying := at_ {} { fsn := 1, wire := [fl 0], buf := [fl 0] }
    (∀ ms ∈ [({}, { wire := [fl 0] }), ({ expect := 7 }, { wire := [fl 0] }), ({ expect := 4095 }, { wire := [fl 0] }), ({ crc := 7 }, {}), ({ crc := 8, windowAt := 2000 - 0 }, {}),
        ({ state := 3, goal := some 4 }, {}), ({ state := 3, goal := some 1 }, {}), ({ buf := [fl 0], fsn := 1, notes := [.ack 0] }, {}), ({ buf := [fl 0], fsn := 1, notes := [.nak 0] }, {}), ({ buf := [fl 0], fsn := 1 }, {})],
      Unlogged (at_ ms.1 ms.2)) ∧
    (neighbour 0 0 = 1 ∧ (flying.module 1 0 0).wire = [fl 0] ∧ (flying.module 0 0 0).state < 2 ∧ (fl 0).fsn = (flying.module 0 0 0).expect ∧ far.plain = false ∧ far.target = 0 ∧
     ((flying.module 0 0 0).crc + 1 < max (flying.module 0 0 0).emax 1) ∧ max (({} : Module).emax) 1 ≤ ({ crc := 7 } : Module).crc + 1 ∧
     fsnLe 0 7 = true ∧ fsnLe 0 4095 = false ∧ ({ expect := 4095 } : Module).discarding = false ∧ (fl 0).since + 2000 ≤ (flying.gtc 0) ∧ ¬ (fl 1).since + 2001 ≤ flying.gtc 0 ∧
     flying.gtc 0 < (flying.module 0 0 0).windowAt + max (flying.module 0 0 0).win 1 ∧ ({ win := 0 } : Module).windowAt + max ({ win := 0 } : Module).win 1 ≤ flying.gtc 0) := by
  exact ⟨fun ms _ => linked_unlogged _ _ (unlogged_of rfl (by decide +kernel) rfl), by decide +kernel⟩

theorem witness_RequestsArePerformedOnce :
    let job : Job := .posted 0
    let x : Msg := { src := 0, org := 0, dst := 1, lane := 0, tsn := 5, oldest := 5 }
    let asked := { quiet (rig 0 0 0) with reqs := [(0, { job := job, msg := x })], atHome := [(1, [x])] }
    let marked := { asked with filters := [(1, { lo := 5, marks := [(5, { status := 0 })] })] }
    let past := { asked with filters := [(1, { lo := 6 })], atHome := [(1, [{ x with tsn := 5, oldest := 65530 }])] }
    let two := { asked with atHome := [(1, [x, { x with tsn := 6 }])] }
    let cpa := opOf (.cpa plainWord (fields 8 4 0 0 0 0 0 0x202)) [0x202, 0x10000, 0]
    let answered := fun (j : Job) (st : Nat) => { work (rig 0 0 0) cpa with reqs := [(0, { job := j, msg := x })], replies := [(0, [{ x with reply := some { status := st } }])] }
    (Tab.getD asked.atHome 1 [])[0]? = some x ∧ (Tab.getD asked.atHome 1 [])[1]? = none ∧ (asked.reqOf x).isSome = true ∧ { asked with reqs := [] }.reqOf x = none ∧
    (((5 + 65536 - 5) % 65536 < 32768) ∧ ¬ ((5 + 65536 - 6) % 65536 < 32768) ∧ (Tab.get? (Tab.getD marked.filters 1 {}).marks 5).isSome = true ∧
     (Tab.getD past.filters 1 {}).lo = 6 ∧ ¬ ((65530 + 65536 - 6) % 65536 < 32768) ∧ ((Tab.getD two.atHome 1 []).take 1).any (fun y => y.src == x.src && y.lane == x.lane) = true ∧
     (∀ st ∈ [0, 0xFF, 9, 0x0B], ((Tab.getD (answered job st).replies 0 [])[0]?.bind fun y => y.reply.map Reply.status) = some st) ∧
     ((answered (.unit 0 0) 0).reqOf x).map (fun r => r.2.job) = some (.unit 0 0) ∧ ((answered (.unit 0 0) 0).op 0).isSome = true) := by decide +kernel

theorem witness_PackageIsManaged :
    let s := quiet (rig 0 0 0)
    let m := fun (f : Manage → Manage) => { s with manage := f s.manage }
    let backed := { s with flat := [(1, 0)], bar2 := 0x10000 }
    let bad := fun (x : SectorFault) => { s with faults := [(1024, x)] }
    Unlogged s ∧ Unlogged backed ∧ Unlogged (m fun x => { x with pending := true }) ∧ Unlogged { s with time := 1000000000 } ∧ Unlogged (bad .corrected) ∧ Unlogged (bad .uncorrectable) ∧
    ({ s with asleep := true }.asleep = true ∧ s.asleep = false ∧ (∀ d, d < 4 → Tab.getD s.gtcOff d 0 ≤ 4) ∧
     (let pa := (backed.bar2 + 8 / 8 * 8 % 2 ^ 36) % 2 ^ 40
      homeDie pa = 0 ∧ Tab.get? backed.faults (pa / 64) ≠ some .corrected ∧ pa + 8 ≤ 2 ^ 40 ∧ backed.reaches 0 pa = true ∧ backed.sectorStatus pa = 0 ∧ (backed.backLine (pa / 512)).isSome = true ∧ 8 ≤ (backed.die (homeDie pa)).freeSectors) ∧
     { s with bar2 := 2 ^ 40 - 8 }.bar2 + 8 ≤ 2 ^ 40 ∧
     s.remoteOk (8 * 2 ^ 48) = false ∧
     { s with rwBase := 0x1000, rtBase := 0x2000, mem := cellStore (cellStore [] 0x1000 0x2000 8) 0x2000 1 2 }.remoteOk (8 * 2 ^ 48) = true ∧
     s.manage.pending = false ∧ (m fun x => { x with pending := true }).manage.pending = true ∧ s.gtc 0 < s.manage.kicked + 1000000000 ∧
     s.manage.kicked + 1000000000 ≤ { s with time := 1000000000 }.gtc 0 ∧ Tab.get? (bad .corrected).faults 1024 = some .corrected ∧ Tab.get? (bad .uncorrectable).faults 1024 = some .uncorrectable ∧
     Tab.getD s.manage.leaves 0 0 < 2 ^ 30 ∧ 2 ^ 30 ≤ Tab.getD (m fun x => { x with leaves := [(0, 2 ^ 30)] }).manage.leaves 0 0 ∧ 900 < s.manage.clim) := by
  refine ⟨?_, ?_, ?_, ?_, ?_, ?_, by decide +kernel⟩ <;> exact unlogged_of rfl (by decide +kernel) rfl

theorem witness_EncodedInstructionDecodesBack :
    (Instr.iadd .vr plainWord (ab 3)).wf = true ∧ (Instr.iadd .vr plainWord (ab 3)).parts.isSome = true ∧ (Instr.illegalInstruction 0xFF).wf = true ∧
    (Instr.iadd .vr plainWord (ab 0)).wf = false := by decide +kernel

/-- The first line of an issue on core 0, as its group's step reads it. -/
def fetches (s : State) (p : State → Nat → Bool) : Bool :=
  (({ s with agenda := [] } : State).pick 0 0).any fun i =>
    let x : State := { s with agenda := [], cur := some i }
    !x.breaks && validPc i.pc && match x.fetchLine 0 x.curCtx (lineOf i.pc) with
      | (s2, .ok v) => parityOk v && p s2 v
      | _ => false
def mayRun (s : State) (v : Nat) (is : List Instr) : Bool :=
  (!s.badEntry v || is.any Machine.Instr.unusable) && (s.members is).all fun m => s.owns m.instr
def runs (s : State) (ins : Instr) (out : IssueOut) : Bool :=
  (read (exec ins s) fun t => t.splits == false && decide (t.iss.out = out)) == some true
def ended (r : Res) (out : IssueOut) : Option State := match r with | .next t => if t.iss.out = out then some t else none | _ => none

/-- The word of an issue by itself runs, or meets one of the checks before issue. -/
def single (s : State) (p : State → Nat → Except DecodeErr Instr → Bool) : Bool :=
  fetches s fun s2 v => !pairBit v 0 && !malformed v && p s2 v (decode (BitVec.ofNat 96 v))
/-- A pair's two words run, from the state their checks leave. -/
def paired (s : State) (p : State → Instr → Instr → Bool) : Bool :=
  fetches s fun s2 v => pairBit v 0 && !malformed v &&
    match decode (slotWord v 0), decode (slotWord v 1) with
    | .ok lo, .ok hi =>
      let two := s2.modIss fun i => { i with pair := true, next := seqPc (seqPc i.pc) }
      (two.trapReason lo).isNone && (two.trapReason hi).isNone && p two lo hi
    | _, _ => false
/-- What two members that may issue come to. -/
def ends (two : State) (lo hi : Instr) (a b : IssueOut) : Bool :=
  !Machine.Instr.unusable lo && !Machine.Instr.unusable hi && (two.gate [lo, hi]).2 &&
    (let s3 := (two.gate [lo, hi]).1
     let s4 := s3.modIss fun i => { i with view := some { groups := s3.groups, teams := s3.teams, scratch := s3.scratch } }
     mayRun s3 (probeLine 0) [lo, hi] && ((ended (exec lo s4) a).bind fun t1 => ended (exec hi (if t1.iss.out = .raised then s4 else t1).second) b).isSome)

/-- Two words as a pair, each slot a target. -/
def pairLine (lo hi : Nat) : Nat :=
  let bare := lo + 2 ^ 96 * hi + 2 ^ 480 * (1 + 2 ^ 5)
  bare + ((List.range 4).map fun j => popCount (bitsOf bare (120 * j) 120) 120 % 2 * 2 ^ (489 + j)).sum

/-- A step that issues a word, one that issues a pair, and one whose turn is another unit's. -/
theorem witness_StepRunsDecodedInstruction :
    let word := 0x000000040000028020200210
    let s := State.reset.withFetchWord 96 word
    let at_ := fun (line : Nat) => { s with mem := cellStore [] 0x10000 line 64 }
    let line := probeLine word
    (s.agenda = [.issue 0 0] ∧ s.asleep = false ∧
     single s (fun s2 v d => match d with
       | .ok ins => (s2.trapReason ins).isNone && (s2.gate [ins]).2 && mayRun (s2.gate [ins]).1 v [ins] && runs (s2.gate [ins]).1 ins .done
       | .error _ => false) = true ∧
     single (s.modGroup 0 fun gr => { gr with unjoined := [{ token := 4, cause := 0x68, cls := 0 }] }) (fun s2 _ d => match d with
       | .ok ins => (s2.trapReason ins).isNone && !(s2.gate [ins]).2
       | .error _ => false) = true ∧
     single (State.reset.withFetchWord 96 0x900) (fun _ _ d => match d with | .error _ => true | .ok _ => false) = true ∧
     fetches (at_ (line + 2 ^ 493)) (fun _ v => !pairBit v 0 && malformed v) = true ∧
     validPc 0x10000 = true ∧ validPc 0x10005 = false) ∧
    ((({ s.modGroup 0 fun gr => { gr with shared := { gr.shared with dbg := 0x11, bpa0 := 0x10000 } } with cur := some eight } : State).breaks) = true ∧
     (match ({ s with tlbs := [], cur := some eight } : State).fetchLine 0 0 0x10000 with | (_, .error c) => c == 0x20 | _ => false) = true) ∧
    (paired (at_ (pairLine 0 word)) (fun two lo hi => pairClassesOk 0 (BitVec.ofNat 96 word) && ends two lo hi .done .done) = true ∧
     pairClassesOk (BitVec.ofNat 96 word) (BitVec.ofNat 96 word) = false) ∧
    (Machine.Instr.isEvent (.entryAgeDue 0) = true ∧ (Instr.entryAgeDue 0).unitOk = true ∧ (read (exec (.entryAgeDue 0) { s with agenda := [] }) fun _ => ()).isSome = true) ∧
    (s.allows (.issue 512 0) = false ∧ s.allows (.upset (.scratch 0 16 .uncorrectable)) = true ∧ s.allows (.placeFlat 1) = true) ∧
    (match s.access 0 0 0x10000 .fetch with
      | (s1, .ok x) => let pa := x.pa / 64 * 64
          paRegion pa == 0 && (Tab.get? (s1.core 0).fetched 0x10000).isNone && (Tab.getD s1.caches (s1.cacheKey 0 pa) []).isEmpty &&
          s1.reaches (coreDie 0) pa && s1.sectorStatus pa == 0 && (Tab.get? s1.faults (paLa pa / 64)).isNone
      | _ => false) = true := by decide +kernel

theorem witness_ResetLeavesStatedValues : (3 < 4 ∧ 1023 < 1024 ∧ 16383 < 16384) ∧ State.reset.regWord 3 0x14000 = 16384 := by decide +kernel

theorem witness_EveryStepKeepsMemoryCanonical :
    Memory.wf (State.reset.withFetchWord 96 0) = true ∧ read (step (State.reset.withFetchWord 96 0)) (fun t => Memory.wf t) = some true := by decide +kernel

/-- A double-bit error in a scratchpad word that a step brings: the next load of it raises 0x74 (R187). -/
theorem test_upset :
    let s := { quiet (set (rig 0 0 0) 4 64) with agenda := [.upset (.scratch 0 16 .uncorrectable)] }
    read (step s) (fun t => (t.core 0).badWords) = some [(16, .uncorrectable)] ∧
    (cause (exec (.lds plainWord (fields 6 4 15 0 0 0 0 b32)) ((set (rig 0 0 0) 4 64).upset (.scratch 0 16 .uncorrectable))) |>.map (· % 256)) = some 0x74 := by decide +kernel

/-! ### Further cases: streams of several fibres, other dies, what waits -/

/-- A command of one free fibre of a stream team whose kernel has no extended registers; s4 holds `n`. -/
def lone : Issue := { pair with entry := [0] }
def loneRig (n : Nat) : State :=
  { (streamRig.modTeam 0 fun t => { t with roles := [{ probeRole with extmax := 0 }] }).modGroup 0 (fun gr => gr.setScal 4 n) with cur := some lone }

theorem witness_StreamIssuesStop :
    ([Instr.bar plainWord (fields 0 0 0 0 0 0 0 0x63), .arrive plainWord (fields 0 0 0 0 0 0 0 0x63), .waitb plainWord (fields 0 0 0 0 0 0 0 3),
      .psendRsv plainWord (fields 4 0 0 0 0 0 0 0), .precv plainWord (fields 4 0 0 0 0 0 0 0), .psendCmt plainWord (fields 0 9 0 0 0 0 0 16),
      .pfree plainWord (fields 0 9 0 0 0 0 0 0), .xacq .si plainWord (fields 0 0 0 0 0 0 0 3), .xrel .si plainWord (fields 0 0 0 0 0 0 0 2)].all
        fun i => i.wf && streamRig.executes i plainWord) = true ∧
    streamRig.iss.stream = true ∧ streamRig.active plainWord ≠ [] ∧
    Sound (loneRig 0) lone ∧ Sound (loneRig 1) lone ∧ lone.out = .done ∧ (Instr.winset .sr plainWord (fields 4 4 0 0 0 0 0 0)).wf = true ∧
    ((∀ g ∈ [0, 1], ((loneRig 0).roleOf g).extmax = 0 ∧ ((loneRig 0).group g).ext = []) ∧ (loneRig 1).active plainWord = [0] ∧
     (loneRig 0).blockCount .sr (fields 4 4 0 0 0 0 0 0) 0 = 0 ∧ (loneRig 1).blockCount .sr (fields 4 4 0 0 0 0 0 0) 0 ≠ 0) :=
  ⟨by decide +kernel, rfl, by decide +kernel, sound_of rfl (by decide +kernel), sound_of rfl (by decide +kernel), rfl, by decide +kernel, by decide +kernel⟩

/-- Page 16 lies in die 1's memory; and an exactly-once request of the core is on the way there in a hash lane. -/
def remote (s : State) : State := { s with tlbs := [(0, [(16, { pte := 2 ^ 38 + 0x15F, level := 0 })])] }
def sentTo (s : State) (lane : Nat) : State :=
  { s with reqs := [(0, { job := .posted 1, msg := { src := 0, org := 0, dst := 1, lane := lane } })] }
def xlate (s : State) (va : Nat) (a : Acc) : Xlate :=
  match (s.access 0 s.curCtx va a).2 with | .ok x => x | .error _ => { pa := 0, pte := 0, level := 0, at_ := 0 }
/-- Another group's posted write stands before in the home's queue. -/
def queuedBefore (s : State) : State := { s with time := 5, groups := s.groups ++ [(1, { s.group 0 with parked := some {
  wait := .posted (.tclr plainWord (fields 0 5 0 0 0 0 0 0)) 0x10000 0 0, pc := 0x10000, level := 0, moves := []
  queued := some (1, queueOf 0x10000, 0), deadlines := [some 5] } })] }

theorem witness_RequestsStayInOrder :
    let far := remote (set (rig 0 0 0) 5 0x10000)
    let near := queuedBefore (window (set (rig 0 0 0) 5 0x10000) copyDesc 64)
    Sound far eight ∧ Sound (sentTo far 0) eight ∧ Sound near eight ∧
    ((let kept := fun (t s : State) => decide (t.group 0 = s.group 0) && t.cycle == s.cycle && t.time == s.time && decide (t.gtcOff = s.gtcOff) && decide (t.teams = s.teams)
      kept (far.access 0 0 0x10000 .atomic).1 far && kept (near.access 0 0 0x10000 .atomic).1 near && kept ((sentTo far 0).access 0 0 0x10000 .read).1 (sentTo far 0)) = true ∧
     (let x := xlate far 0x10000 .atomic
      x.pa = 2 ^ 38 ∧ far.reaches 0 x.pa = true ∧ far.homeOf x.pa ≠ 0 ∧ (far.unanswered 0 1).length < 256 ∧
      tsnIn (far.oldestTsn 0 1) (Tab.getD far.tsns 1 0) = true ∧ far.laneElsewhere 0 0 1 (laneOf (paLa x.pa)) = false ∧ far.hasJob (.posted 0) = false ∧
      (sentTo far 0).heldBack 0 x = true ∧ (sentTo far 1).heldBack 0 x = false) ∧
     (xlate near 0x10000 .atomic).pa = 0x10000 ∧ near.postedBehind 0 (xlate near 0x10000 .atomic) = true ∧ near.heldBack 0 (xlate near 0x10000 .atomic) = false ∧
     validPc 0x10000 = true ∧ (sentTo far 0).fetchHeld 0 0 (lineOf 0x10000) = true ∧ far.fetchHeld 0 0 (lineOf 0x10000) = false) :=
  ⟨sound_of rfl (by decide +kernel), sound_of rfl (by decide +kernel), sound_of rfl (by decide +kernel), by decide +kernel⟩

/-- Two fibres of a stream batch: each arms a watch, and each starts a copy. -/
theorem witness_StreamBatchesAct :
    let s := (set streamRig 5 (0xFFFF * 2 ^ 41)).modGroup 1 fun gr => gr.setScal 5 (0xFFFF * 2 ^ 41)
    let c := window streamRig copyDesc 64
    let cpg := Instr.cpg plainWord (fields 10 4 0 0 0 0 0 9)
    let after := fun (r : Res) => match r with | .next t => t | _ => c
    let t1 := after (exec cpg { c with cur := some (pair.only [0]) })
    Sound s pair ∧ Sound c pair ∧ s.faults = [] ∧ cpg.wf = true ∧ c.active plainWord = [0, 1] ∧
    ([Instr.mon plainWord (fields 0 5 0 0 0 0 0 0), .mwait plainWord (fields 9 6 0 0 0 0 0 0)].all fun ins => ins.wf && [0, 1].all fun u =>
      (read (exec ins { s with cur := some (pair.only [u]) }) fun t => decide (t.iss.out ≠ .raised)) == some true) = true ∧
    t1.iss.out = .done ∧ (after (exec cpg { t1 with cur := some { pair.only [1] with checked := t1.iss.checked } })).iss.out = .done :=
  ⟨sound_of rfl (by decide +kernel), sound_of rfl (by decide +kernel), rfl, by decide +kernel, by decide +kernel, by decide +kernel, by decide +kernel, by decide +kernel⟩

theorem witness_WaitingPodsPerform :
    let w := fun (ins : Instr) (x : SlotState) (v : Nat) => { (podded x).modGroup 0 (fun gr => { gr with
      parked := some { wait := .syncOp ins v, pc := 0x10000, level := 0, moves := [] } }) with cur := none }
    ([w (.psendRsv plainWord (fields 4 0 0 0 0 0 0 0)) .free 0, w (.precv plainWord (fields 4 0 0 0 0 0 0 0)) .full 0,
      w (.psendCmt plainWord (fields 0 9 0 0 0 0 0 16)) .reserved 0, w (.pfree plainWord (fields 0 9 0 0 0 0 0 0)) .held 0].all fun s =>
        decide (s.groups.map Prod.fst).Nodup && (Tab.get? s.groups 0).isSome && decide ((s.group 0).accessBy ≤ s.cycle) && !s.syncPast 0 && !(s.group 0).stepping &&
        !(s.teamOf 0).out && (Tab.get? s.teams 0).isSome && decide ((s.teamOf 0).pods.length = 1) && (Tab.get? (s.teamOf 0).syncBad 16).isNone && (s.podOf 0 0).waiting.isEmpty) = true := by
  decide +kernel

theorem witness_SingleMatrixCommandsStall :
    let s := rig 0 0 0
    let z := Instr.mzro plainWord (fields 2 0 0 0 0 0 0 0)
    let busy := { s with ops := (List.range 16).map fun n => (n, { instr := z, gid := 0, core := 0, ctx := 0, team := 0, tok := 64, cls := 3 }) }
    Sound busy eight ∧ s.scalarUnits plainWord ≠ [] ∧ s.scalarUnits { ge := true, gi := false, gp := 3 } = [] ∧
    (busy.ops.filter fun o => o.2.core == 0 && isMatrix o.2.instr).length = 16 ∧ (s.ops.filter fun o => o.2.core == 0 && isMatrix o.2.instr).length < 16 :=
  ⟨sound_of rfl (by decide +kernel), by decide +kernel, by decide +kernel, by decide +kernel, by decide +kernel⟩

/-- An MWRA that reads a lost word, and one that does not; an MLDB of a tagged image. -/
theorem witness_MatrixResultsAreWritten :
    let o := opOf (.mwra plainWord (fields 2 4 0 0 0 0 0 0)) [64]
    let lost := (work (rig 0 0 0) o).modCore 0 fun c => { c with badWords := [(16, .uncorrectable)] }
    Serves (work (rig 0 0 0) o) 0 o ∧ Serves lost 0 o ∧
    (mxLost lost o = true ∧ mxLost (work (rig 0 0 0) o) o = false ∧ ((rig 0 0 0).core 0).marrow.bad = [] ∧ ((rig 0 0 0).core 0).badWords = [] ∧ o.status = 0 ∧
     (((rig 0 0 0).core 0).marrow.tiles.map Prod.fst).Pairwise (· < ·) ∧ cellsWf ((rig 0 0 0).core 0).marrow.stashMem = true) := by
  refine ⟨?_, ?_, by decide +kernel⟩ <;> (unfold Serves; decide +kernel)

theorem witness_EdgeCommandsWaitTheirTurn :
    let o := opOf (.tqry plainWord (fields 8 4 0 12 0 16 0 (2 ^ 8))) [0, 0]
    let grain := opOf (.tgrain plainWord (fields 8 4 0 12 0 16 0 0)) [0, 0]
    let s := fun (e : Edge) => graphRig (window (rig 0 0 0) 0 512) e
    let later := { edge1 [.free, .free] with last := (0, 1, 0) }
    (s later).cycle = 0 ∧ (s later).edgePast o = true ∧ (s { later with last := (0, 0, 0) }).edgePast o = false ∧ (s later).edgePast grain = false := by
  decide +kernel

theorem witness_CopiesOfPagesAreRefused :
    let cow := opOf (.cpf plainWord (fields 8 4 0 0 0 0 0 0x200)) [0x200, 0x11 + 0x10000 * 2 ^ 64 + 64 * 2 ^ 128 + 2 ^ 160]
    let s := fun (pte : Nat) => { mapped pte with ops := [(0, { cow with rest := [0x400] })] }
    let corrected := { s 0x10037 with faults := [(0, .corrected)] }
    let lost := { ((s 0x10037).modDie 0 fun di => { di with pool4k := [4096 * 64] }) with faults := [(1024, .uncorrectable)] }
    ((s 0x10037).notePath 0 0 0x10000 none = s 0x10037 ∧ (s 0x10037).writesPage 0 16 = true ∧ ((corrected.notePath 0 0 0x10000 none).walk 0 0 0x10000).isOk = true ∧
     (s 0x1001F).writesPage 0 16 = true ∧ (match (s 0x1001F).walk 0 0 0x10000 with | .ok x => !pteCow x.pte | .error _ => false) = true ∧ ((s 0).walk 0 0 0x10000).isOk = false ∧
     (match lost.walk 0 0 0x10000 with | .ok x => lost.sectorStatus x.at_ == 0 && (Tab.get? lost.lines 128).isSome && lost.sectorStatus 0x10000 == 8 | .error _ => false) = true) := by
  decide +kernel

theorem witness_FramesMayBePushedFlat :
    let s := quiet (rig 0 0 0)
    Unlogged s ∧ (16 / 2 ^ 26 = 0 ∧ 16 % 16 = 0 ∧ (s.die 0).poolFlat.length < 65535 ∧ s.lines = [] ∧ (s.die 0).pool4k = [] ∧ (s.die 0).pool64k = []) :=
  ⟨unlogged_of rfl (by decide +kernel) rfl, by decide +kernel⟩

theorem witness_OlderRowsGoFirst :
    let row := nearRow 3 (.nmadd plainWord (fields 8 4 0 0 0 0 0 0)) 80 0x3F800000
    let old := nearRow 1 (.nmadd plainWord (fields 8 4 0 0 0 0 0 0)) 80 0x3F800000
    let s := { quiet (rig 0 0 0) with nmRows := [(1, { old.2 with gid := 1, op := 8 }), row], flat := [(1, 0)], time := 9 }
    s.oldestRow 80 0 = some row ∧ s.rowBehind 3 row.2 = true ∧ s.unread row.2.op 0 80 = false ∧ { s with nmRows := [row] }.rowBehind 3 row.2 = false := by decide +kernel

theorem witness_CommandsMeetTheirOperands :
    let s := fun (op : Nat) => commanded (quiet (rig 0 0 0)) op 0 1 0 0
    let ending := { s 1 with control := { (s 1).control with finishing := some 0 } }
    let clone := { commanded (mapped 0) 1 0 1 0 0 with mem := cellStore [] 0 (2 ^ 64) 64 }
    let leaf : Leaf := { pte := 0x1005F, level := 1 }
    ((s 1).control.finishing = none ∧ ending.control.finishing.isSome = true ∧ clone.sectorStatus (clone.ctxAddr 0) = 0 ∧ clone.sectorStatus 0 = 0 ∧
     clone.reaches 0 (clone.ctxAddr 0) = true ∧ { clone with faults := [(0, .uncorrectable)] }.sectorStatus (clone.ctxAddr 0) ≠ 0 ∧
     leaf.pages = 512 ∧ 16 % 2 ^ 45 / leaf.pages * leaf.pages < 17 ∧ 17 ≤ 600 ∧ ¬ 600 < 16 % 2 ^ 45 / leaf.pages * leaf.pages + leaf.pages) := by
  decide +kernel

theorem witness_PortsAndControllersAct :
    let s := quiet (rig 0 0 0)
    let hot := { s with manage := { s.manage with tj := [115] } }
    let asleep := { s with asleep := true, agenda := [.issue 0 0] }
    let poor := { s with flat := [(2, 0)] }.modDie 0 fun di => { di with freeSectors := 0 }
    let win := { s with rwBase := 0x1000, rtBase := 0x2000, mem := cellStore (cellStore [] 0x1000 0x2000 8) 0x2000 1 2 }
    ((∀ ref ok, asleep.takeTurn.1 ≠ .event (.packageWake ref ok)) ∧ s.manage.tj.getD 0 0 < 115 ∧ 115 ≤ hot.manage.tj.getD 0 0 ∧
     s.manage.hwsize.getD 0 < 8 ∧ s.reaches 0 (2 ^ 48 + 0x10000000) = true ∧ (cut s).reaches 0 (2 ^ 48 + 0x10000000) = false ∧
     (cut s).reaches 0 (2 ^ 38) = false ∧ s.reaches 0 0x10000 = true ∧ s.sectorStatus 0x20000 = 0 ∧ poor.backLine (0x20000 / 512) = none ∧
     Unlogged win ∧ win.remoteOk (8 * 2 ^ 48) = true) := by
  exact ⟨fun _ _ h => (by cases h), by decide +kernel, by decide +kernel, by decide +kernel, by decide +kernel, by decide +kernel, by decide +kernel,
   by decide +kernel, by decide +kernel, by decide +kernel, unlogged_of rfl (by decide +kernel) rfl, by decide +kernel⟩

/-- A step that issues while its line's fetch must wait; a pair whose WAITC stalls; a controller's write. -/
theorem witness_IssuesWait :
    let s := State.reset.withFetchWord 96 0
    let held := sentTo (remote s) 0
    let waitc := (encode (.waitc plainWord (fields 0 0 0 0 0 0 0 0))).getD 0
    let two := { s with mem := cellStore [] 0x10000 (pairLine 0 waitc.toNat) 64 }.modGroup 0 fun gr => { gr with shared := { gr.shared with cp := 3 } }
    ((({ held with agenda := [] } : State).pick 0 0).any fun i =>
      let x : State := { held with agenda := [], cur := some i }
      !x.breaks && validPc i.pc && x.fetchHeld i.core x.curCtx (lineOf i.pc)) = true ∧
    paired two (fun t lo hi => pairClassesOk 0 waitc && ends t lo hi .done .stalled) = true ∧
    s.allows (.firmwareWrite 0 0x1000 7) = true ∧ (s.pairAt 0 0 0x10000 = false ∧ two.pairAt 0 0 0x10000 = true) := by decide +kernel
end Sys2Proof.Tests
end

namespace Sys2Proof

/-! ### Bits and tables -/

theorem bitOf_eq_testBit (x k : Nat) : bitOf x k = x.testBit k := by
  rw [Nat.testBit_eq_decide_div_mod_eq]; rfl

/-- One bit of a machine word's number is that bit of the word. -/
theorem bitOf_toNat {n : Nat} (v : BitVec n) (k : Nat) : bitOf v.toNat k = v.getLsbD k := bitOf_eq_testBit v.toNat k

/-- Dropping whole keys from a table. -/
theorem Tab.get?_filter_key {α : Type} (t : Tab α) (p : Nat → Bool) (k : Nat) :
    Tab.get? (t.filter fun x => p x.1) k = if p k then Tab.get? t k else none := by
  induction t with
  | nil => simp
  | cons x r ih =>
    obtain ⟨j, v⟩ := x
    by_cases hj : j = k
    · subst hj; by_cases hp : p j <;> simp [hp, Tab.get?_cons, ih]
    · by_cases hp : p j <;> simp [hp, Tab.get?_cons, hj, ih]

theorem Tab.modify_id {α : Type} (t : Tab α) (k : Nat) : Tab.modify t k (fun x => x) = t := by
  simp [Tab.modify]

/-- A key with a value is one of the table's keys. -/
theorem Tab.get?_isSome_iff {α : Type} (t : Tab α) (k : Nat) : (Tab.get? t k).isSome ↔ k ∈ t.map Prod.fst := by
  induction t with
  | nil => simp
  | cons p r ih =>
    obtain ⟨j, w⟩ := p
    by_cases h : j = k
    · simp [Tab.get?_cons, h]
    · rw [Tab.get?_cons, if_neg (by simpa using h), ih]
      simp [Ne.symm h]

/-- Of a table whose keys are distinct, lookup gives the entries. -/
theorem Tab.mem_iff_get? {α : Type} {t : Tab α} (hn : (t.map Prod.fst).Nodup) (k : Nat) (v : α) :
    (k, v) ∈ t ↔ Tab.get? t k = some v := by
  induction t with
  | nil => simp
  | cons p r ih =>
    obtain ⟨j, w⟩ := p
    obtain ⟨hj, hr⟩ := List.nodup_cons.1 hn
    by_cases h : j = k
    · subst h
      have hv : (j, v) ∉ r := fun hc => hj (List.mem_map.2 ⟨_, hc, rfl⟩)
      simp [Tab.get?_cons, hv, eq_comm]
    · simp [Tab.get?_cons, h, Ne.symm h, ih hr]

end Sys2Proof

namespace Sys2Proof.Machine

/-! ### Where each register of the control space stands (21 R476) -/

section
variable (s : State) (d : Nat) {off : Nat}

theorem State.regWord_queue (h : off < 0x8000) :
    s.regWord d off = ((s.die d).queue (off / 32)).word (off % 32 / 8) := by
  grind [State.regWord]

theorem State.regWord_graph (h : 0x10000 ≤ off) (h' : off < 0x10800) :
    s.regWord d off = ((s.die d).graph ((off - 0x10000) / 32)).word ((off - 0x10000) % 32 / 8) := by
  grind [State.regWord]

theorem State.regWord_preempt (h : 0x11000 ≤ off) (h' : off < 0x11018) :
    s.regWord d off = (s.die d).preempt.word ((off - 0x11000) % 32 / 8) := by
  grind [State.regWord]

theorem State.regWord_cluster (h : 0x12000 ≤ off) (h' : off < 0x12080) :
    s.regWord d off = (s.cluster (16 * d + (off - 0x12000) / 8)).word := by
  grind [State.regWord]

theorem State.regWord_free : s.regWord d 0x13000 = (s.die d).freeWord (s.stalledOn d) 0 := by
  grind [State.regWord]

theorem State.regWord_module (h : 0x15000 ≤ off) (h' : off < 0x15080) :
    s.regWord d off =
      (s.module d ((off - 0x15000) / 64) ((off - 0x15000) / 16 % 4)).word ((off - 0x15000) % 16 / 8) := by
  grind [State.regWord]

theorem State.regWord_log (h : 0x16000 ≤ off) (h' : off < 0x16018) :
    s.regWord d off = (s.die d).logWord ((off - 0x16000) % 32 / 8) := by
  grind [State.regWord]

theorem State.regWord_miss (h : 0x20000 ≤ off) (h' : off < 0x40000) :
    s.regWord d off = Tab.getD (s.die d).miss ((off - 0x20000) / 8) 0 := by
  grind [State.regWord]

theorem State.regWord_control (h : 0x18000 ≤ off) (h' : off < 0x18040) :
    s.regWord 0 off = s.control.word ((off - 0x18000) % 64 / 8) := by
  grind [State.regWord]
end

/-! ### What the records read as before anything is written -/

@[simp] theorem Queue.word_default (i : Nat) : ({} : Queue).word i = 0 := by unfold Queue.word; split <;> rfl
@[simp] theorem Graph.word_default (i : Nat) : ({} : Graph).word i = 0 := by unfold Graph.word; split <;> rfl
@[simp] theorem Preempt.word_default (i : Nat) : ({} : Preempt).word i = 0 := by unfold Preempt.word; split <;> rfl
@[simp] theorem Cluster.word_default : ({} : Cluster).word = 0 := rfl
theorem Module.word_default_link : ({} : Module).word 0 = 8 * 2 ^ 8 + 1000000 * 2 ^ 32 := rfl
theorem Die.logWord_default (i : Nat) : ({} : Die).logWord i = 0 := by unfold Die.logWord; split <;> rfl
@[simp] theorem Control.word_default (i : Nat) : ({} : Control).word i = 0 := by unfold Control.word; split <;> rfl

@[simp] theorem State.reset_die (d : Nat) : State.reset.die d = {} := rfl
@[simp] theorem State.reset_cluster (c : Nat) : State.reset.cluster c = {} := rfl
@[simp] theorem State.reset_module (d p m : Nat) : State.reset.module d p m = {} := rfl

/-- Local memory holds no byte that is not zero (18 R416). -/
theorem State.reset_paByte {pa : Nat} (h : pa < 2 ^ 40) : State.reset.paByte pa = 0 := by
  have hr : paRegion pa = 0 := by unfold paRegion; omega
  simp [State.paByte, hr, State.reset, cellRead]

/-- The package registers read zero (Table 21.2). -/
theorem State.reset_package {w : Nat} (h : w < 4) : State.reset.regWord 0 (0x19000 + 8 * w) = 0 := by
  match w, h with
  | 0, _ => rfl
  | 1, _ => rfl
  | 2, _ => rfl
  | 3, _ => rfl

/-- The fused security version fills the low half of its word alone (Table 21.6). -/
theorem State.reset_firmware : State.reset.regWord 0 0x1A000 / 2 ^ 32 = 0 := by
  change (Config.fusedSvn.toNat % 2 ^ 32 + 2 ^ 32 * 0) / 2 ^ 32 = 0
  omega
end Sys2Proof.Machine

namespace Sys2Proof.Slice0
open Sys2Proof Sys2Proof.Machine

/-- The reset values of the registers that each die has. -/
theorem reset_dieRegisters (d w : Nat) :
    let r := fun (off : Nat) => State.reset.regWord d off
    (∀ q, q < 1024 → w < 4 → r (32 * q + 8 * w) = 0) ∧ (∀ g, g < 64 → w < 4 → r (0x10000 + 32 * g + 8 * w) = 0) ∧
    (w < 3 → r (0x11000 + 8 * w) = 0) ∧ (w < 16 → r (0x12000 + 8 * w) = 0) ∧ r 0x13000 / 2 ^ 32 = 0 ∧ r 0x13008 = 0 ∧ r 0x14000 = 16384 ∧
    (w < 8 → r (0x15000 + 16 * w) = 8 * 2 ^ 8 + 1000000 * 2 ^ 32 ∧ r (0x15008 + 16 * w) = 0) ∧
    (w < 3 → r (0x16000 + 8 * w) = 0) ∧ (w < 16384 → r (0x20000 + 8 * w) = 0) := by
  intro r
  refine ⟨fun q hq hw => ?queue, fun g hg hw => ?graph, fun hw => ?preempt, fun hw => ?cluster, ?free, ?pools, ?age,
    fun hw => ⟨?link, ?replay⟩, fun hw => ?log, fun hw => ?miss⟩
  case queue => simp only [r, State.regWord_queue _ _ (show 32 * q + 8 * w < 0x8000 by omega)]; exact Queue.word_default _
  case graph =>
    simp only [r, State.regWord_graph _ _ (off := 0x10000 + 32 * g + 8 * w) (by omega) (by omega)]; exact Graph.word_default _
  case preempt => simp [r, State.regWord_preempt _ _ (off := 0x11000 + 8 * w) (by omega) (by omega)]
  case cluster => simp [r, State.regWord_cluster _ _ (off := 0x12000 + 8 * w) (by omega) (by omega)]
  case free => simp [r, State.regWord_free, Die.freeWord, packFields]
  case pools => rfl
  case age => rfl
  case link =>
    have hi : (0x15000 + 16 * w - 0x15000) % 16 / 8 = 0 := by omega
    simp only [r, State.regWord_module _ _ (off := 0x15000 + 16 * w) (by omega) (by omega), hi]
    exact Module.word_default_link
  case replay =>
    have hi : (0x15008 + 16 * w - 0x15000) % 16 / 8 = 1 := by omega
    simp only [r, State.regWord_module _ _ (off := 0x15008 + 16 * w) (by omega) (by omega), hi]
    rfl
  case log =>
    simp only [r, State.regWord_log _ _ (off := 0x16000 + 8 * w) (by omega) (by omega)]; exact Die.logWord_default _
  case miss => simp only [r, State.regWord_miss _ _ (off := 0x20000 + 8 * w) (by omega) (by omega)]; rfl

/-- Settles O59: each register's word is that of a record nothing has written, and the memory is empty. -/
theorem resetLeavesStatedValues : Obligations.ResetLeavesStatedValues := by
  unfold Obligations.ResetLeavesStatedValues
  exact ⟨fun d w _ => reset_dieRegisters d w, rfl, rfl,
    fun w hw => by simp [State.regWord_control _ (off := 0x18000 + 8 * w) (by omega) (by omega), State.reset],
    fun w hw => State.reset_package hw, State.reset_firmware, rfl, rfl, rfl, rfl, rfl, rfl,
    fun pa hpa => State.reset_paByte hpa, wf_reset⟩
end Sys2Proof.Slice0

namespace Sys2Proof.Machine

/-! ### What a write puts into each register (21 R476, 00 R3) -/

section
variable (s : State) (d v lo n : Nat) {off : Nat}

theorem State.putRegWord_queue (h : off < 0x8000) :
    s.putRegWord d off v lo n = s.setQueueWord d (off / 32) (off % 32 / 8) v lo n := by
  grind [State.putRegWord]

theorem State.putRegWord_graph (h : 0x10000 ≤ off) (h' : off < 0x10800) :
    s.putRegWord d off v lo n =
      s.modDie d fun di => di.modGraph ((off - 0x10000) / 32) fun g => g.setWord ((off - 0x10000) % 32 / 8) v := by
  grind [State.putRegWord]

/-- A word that is no register's, or one that is read only, ignores its write. -/
theorem State.putRegWord_none (h : (0x1B000 ≤ off ∧ (off < 0x20000 ∨ 0x40000 ≤ off)) ∨ (0x17008 ≤ off ∧ off < 0x18000) ∨
    (0x17000 ≤ off ∧ off < 0x1B000 ∧ d ≠ 0)) : s.putRegWord d off v lo n = s := by
  grind [State.putRegWord]
end

/-! The words that stand alone (Tables 15.12, 18.3, 19.3, 21.2, 21.3, 21.5). -/

theorem State.putRegWord_order (s : State) (d v lo n : Nat) : s.putRegWord d 0x11000 v lo n =
    s.modDie d fun di => { di with preempt := di.preempt.setWord 0 v } := rfl
theorem State.putRegWord_orderGrid (s : State) (d v lo n : Nat) : s.putRegWord d 0x11008 v lo n =
    s.modDie d fun di => { di with preempt := di.preempt.setWord 1 v } := rfl
theorem State.putRegWord_orderReport (s : State) (d v lo n : Nat) : s.putRegWord d 0x11010 v lo n =
    s.modDie d fun di => { di with preempt := di.preempt.setWord 2 v } := rfl
theorem State.putRegWord_age (s : State) (d v lo n : Nat) : s.putRegWord d 0x14000 v lo n =
    s.modDie d fun di => { di with age := bitsOf v 0 16 } := rfl
theorem State.putRegWord_logTail (s : State) (d v lo n : Nat) : s.putRegWord d 0x16008 v lo n =
    s.modDie d fun di => di.setLogWord 1 v := rfl
theorem State.putRegWord_limits (s : State) (v lo n : Nat) : s.putRegWord 0 0x17000 v lo n =
    { s with manage := s.manage.setLimits v lo n } := rfl
theorem State.putRegWord_command (s : State) (v lo n : Nat) : s.putRegWord 0 0x18000 v lo n =
    { s with control := s.control.setWord 0 v } := rfl
theorem State.putRegWord_ctxBase (s : State) (v lo n : Nat) : s.putRegWord 0 0x19000 v lo n =
    { s with ctxBase := BitVec.ofNat 52 v } := rfl
theorem State.putRegWord_pkg (s : State) (v lo n : Nat) : s.putRegWord 0 0x19018 v lo n =
    { s with pkg := BitVec.ofNat 13 v } := rfl

/-- Table 15.1: a write of one word of a queue. -/
theorem State.putRegWord_queueWord (s : State) {q i : Nat} (d v lo n : Nat) (hq : q < 1024) (hi : i < 4) :
    s.putRegWord d (32 * q + 8 * i) v lo n = s.setQueueWord d q i v lo n := by
  have hd : (32 * q + 8 * i) / 32 = q := by omega
  have hm : (32 * q + 8 * i) % 32 / 8 = i := by omega
  rw [State.putRegWord_queue _ _ _ _ _ (by omega), hd, hm]

/-- Table 15.6: a write of one word of a graph slot. -/
theorem State.putRegWord_graphWord (s : State) {g i : Nat} (d v lo n : Nat) (hg : g < 64) (hi : i < 4) :
    s.putRegWord d (0x10000 + 8 * i + 32 * g) v lo n = s.modDie d fun di => di.modGraph g fun x => x.setWord i v := by
  have hd : (0x10000 + 8 * i + 32 * g - 0x10000) / 32 = g := by omega
  have hm : (0x10000 + 8 * i + 32 * g - 0x10000) % 32 / 8 = i := by omega
  rw [State.putRegWord_graph _ _ _ _ _ (by omega) (by omega), hd, hm]

/-! ### One queue or graph slot of a die -/

theorem Die.queue_modQueue (di : Die) (q j : Nat) (f : Queue → Queue) :
    (di.modQueue q f).queue j = if j = q then f (di.queue q) else di.queue j := Tab.getD_set di.queues q j _ _

theorem Die.graph_modGraph (di : Die) (g j : Nat) (f : Graph → Graph) :
    (di.modGraph g f).graph j = if j = g then f (di.graph g) else di.graph j := Tab.getD_set di.graphs g j _ _

theorem State.cluster_set (s : State) (c k : Nat) (x : Cluster) :
    { s with clusters := Tab.set s.clusters c x }.cluster k = if k = c then x else s.cluster k :=
  Tab.getD_set s.clusters c k x {}

/-! ### The event log, when no die keeps one -/

theorem State.storeLogs_none {s : State} (h : ∀ d, (s.die d).logWait = []) : s.storeLogs = s := by
  simp [State.storeLogs, h]

theorem State.log_unlogged {s : State} (h : ∀ d, (s.die d).logEn = false ∧ (s.die d).logWait = []) (d src kind : Nat)
    (p : List (Nat × Nat)) : s.log d src kind p = s := by
  have hp : ∀ stamp, s.pushRecord d src kind stamp p = s := fun stamp => by simp [State.pushRecord, (h d).1]
  simp only [State.log, State.logAt, hp]
  exact State.storeLogs_none fun e => (h e).2

theorem State.clusterUsed_iff (s : State) (c : Nat) : s.clusterUsed c = true ↔
    ∃ x ∈ s.teams, x.2.ended = false ∧ x.2.out = false ∧ ∃ k ∈ x.2.cores, k / 8 = c := by
  simp [State.clusterUsed, Team.resident, coreCluster, and_assoc]

/-- R327: when a cluster's switch begins, or has begun. -/
theorem State.switching_iff (s : State) (c : Nat) : s.switching c = true ↔
    (s.cluster c).switching = true ∨ ((s.cluster c).fuse ≠ (s.cluster c).act ∧ ¬ s.clusterUsed c = true) := by
  simp [State.switching]
end Sys2Proof.Machine

namespace Sys2Proof.Slice0
open Sys2Proof Sys2Proof.Machine

/-! ### The words that start something -/

theorem preempt_setWord_order (p : Preempt) (v : BitVec 64) : p.setWord 0 v.toNat = orderWritten p v := by
  simp [Preempt.setWord, orderWritten, bitOf_toNat, bitsOf]

theorem control_setWord_command (c : Control) (v : BitVec 64) : c.setWord 0 v.toNat = commandWritten c v := by
  simp [Control.setWord, commandWritten, bitOf_toNat, bitsOf]

/-- Table 15.6: the word that holds EN, which starts the graph when it becomes 1. -/
theorem graph_setWord_control (g : Graph) (v : BitVec 64) : g.setWord 2 v.toNat =
    { g with
      nnm1 := v.toNat % 256, nem1 := v.toNat / 2 ^ 8 % 256, ctx := v.toNat / 2 ^ 16 % 4096, prio := v.toNat / 2 ^ 28 % 64
      cls := v.toNat / 2 ^ 34 % 4, en := v.getLsbD 36, run := g.run && v.getLsbD 36
      starting := v.getLsbD 36 && (g.starting || !g.en) } := by
  simp only [Graph.setWord, bitOf_toNat]
  generalize v.getLsbD 36 = en
  cases en <;> cases hg : g.en <;> simp [bitsOf]

/-! ### The forms that complete -/

/-- CLUSTER_CONFIG_WRITE writes FUSE of its cluster. -/
theorem clusterConfigWrite_writes (s : State) (cluster : Nat) (fuse : Bool) :
    ∃ t, exec (.clusterConfigWrite cluster fuse) s = .next t ∧ t = { s with clusters := t.clusters } ∧
      ∀ c, t.cluster c = if c = cluster then { s.cluster c with fuse := fuse } else s.cluster c := by
  refine ⟨_, rfl, rfl, fun c => ?_⟩
  rw [State.cluster_set]
  split
  case isTrue h => rw [h]
  case isFalse => rfl

/-- CACHE_MODE_SWITCH empties the cluster's arrays and takes FUSE into ACT. -/
theorem cacheModeSwitch_switches {s : State} {cluster : Nat} (h : s.switching cluster = true) (hu : Unlogged s) :
    ∃ t, exec (.cacheModeSwitch cluster) s = .next t ∧ t = { s with caches := t.caches, clusters := t.clusters } ∧
      (∀ k, Tab.get? t.caches k = if k / 8 = cluster then none else Tab.get? s.caches k) ∧
      ∀ k, t.cluster k = if k = cluster then
        { fuse := (s.cluster cluster).fuse, act := (s.cluster cluster).fuse, switching := false } else s.cluster k := by
  obtain ⟨-, -, hlog⟩ := hu
  let t : State := { s with
    caches := s.caches.filter fun (x : Nat × Tab CacheLine) => coreCluster x.1 != cluster
    clusters := Tab.set s.clusters cluster { fuse := (s.cluster cluster).fuse, act := (s.cluster cluster).fuse } }
  have hx : exec (.cacheModeSwitch cluster) s = .next t := by
    change execCacheModeSwitch cluster s = _
    simp only [execCacheModeSwitch, h, Bool.not_true, Bool.false_eq_true, if_false]
    exact congrArg _ (State.log_unlogged (s := t) hlog _ _ _ _)
  refine ⟨t, hx, rfl, fun k => ?_, fun k => State.cluster_set s cluster k _⟩
  rw [Tab.get?_filter_key s.caches (fun j => coreCluster j != cluster) k]
  by_cases hk : k / 8 = cluster <;> simp [coreCluster, hk]

theorem cacheModeSwitch_idle {s : State} {cluster : Nat} (h : ¬ s.switching cluster = true) :
    exec (.cacheModeSwitch cluster) s = .next s := by
  change execCacheModeSwitch cluster s = _
  simp [execCacheModeSwitch, h]

/-- REGISTER_WRITE leaves the registers as `t` has them, and then triggers the watches on the word's sector (05 R144). -/
def PutsRegisters (s : State) (die off : Nat) (v : BitVec 64) (t : State) : Prop :=
  exec (.registerWrite die off v) s = .next (t.triggerDevice (2 ^ 48 + 2 ^ 28 * die + off))

theorem putsRegisters_of_put {s t : State} {die off : Nat} {v : BitVec 64} (h : off % 8 = 0)
    (hp : s.putRegWord die off v.toNat 0 8 = t) : PutsRegisters s die off v t := by
  subst hp
  change Host.Outcome.next (s.setRegWord die (off / 8 * 8) v.toNat 0 8) = _
  rw [show off / 8 * 8 = off by omega]
  rfl

/-- A write that changes one die's registers alone. -/
theorem registerWrite_die {s : State} {die off : Nat} {v : BitVec 64} {f : Die → Die} {x : Die} (h : off % 8 = 0)
    (hp : s.putRegWord die off v.toNat 0 8 = s.modDie die f) (hx : f (s.die die) = x) :
    ∃ t : State, PutsRegisters s die off v t ∧ t = { s with dies := t.dies } ∧
      t.die die = x ∧ ∀ d, d ≠ die → t.die d = s.die d := by
  subst hx
  refine ⟨_, putsRegisters_of_put h hp, rfl, by simp [State.die_modDie], fun d hd => ?_⟩
  simp [State.die_modDie, hd]

/-- A write of one word of a launch queue, which changes that queue alone. -/
theorem registerWrite_queue (s : State) {die off q i : Nat} (v : BitVec 64) (x : Queue) {f : Queue → Queue} (hq : q < 1024)
    (hi : i < 4) (ho : off = 32 * q + 8 * i)
    (hp : s.setQueueWord die q i v.toNat 0 8 = s.modDie die fun di => di.modQueue q f) (hx : f ((s.die die).queue q) = x) :
    ∃ t : State, PutsRegisters s die off v t ∧ t = { s with dies := t.dies } ∧
      t.die die = { s.die die with queues := (t.die die).queues } ∧ (t.die die).queue q = x ∧
      ∀ j, j ≠ q → (t.die die).queue j = (s.die die).queue j := by
  subst ho hx
  obtain ⟨t, ht, hs, hd, -⟩ := registerWrite_die (v := v) (by omega) ((State.putRegWord_queueWord s die v.toNat 0 8 hq hi).trans hp) rfl
  refine ⟨t, ht, hs, ?_, ?_, fun j hj => ?_⟩
  · rw [hd]; rfl
  · rw [hd, Die.queue_modQueue, if_pos rfl]
  · rw [hd, Die.queue_modQueue, if_neg hj]

/-- A write of one word of a graph slot changes that slot alone. -/
theorem registerWrite_graph (s : State) {die off n i : Nat} (v : BitVec 64) (x : Graph) (hn : n < 64) (hi : i < 4)
    (ho : off = 0x10000 + 8 * i + 32 * n) (hx : (s.graphOf die n).setWord i v.toNat = x) :
    ∃ t : State, PutsRegisters s die off v t ∧ t = { s with dies := t.dies } ∧ t.graphOf die n = x ∧
      ∀ j, j ≠ n → t.graphOf die j = s.graphOf die j := by
  subst ho hx
  obtain ⟨t, ht, hs, hd, -⟩ := registerWrite_die (v := v) (by omega) (State.putRegWord_graphWord s die v.toNat 0 8 hn hi) rfl
  refine ⟨t, ht, hs, ?_, fun j hj => ?_⟩
  · rw [State.graphOf, hd, Die.graph_modGraph, if_pos rfl]; rfl
  · rw [State.graphOf, hd, Die.graph_modGraph, if_neg hj]; rfl

/-- Table 15.1: a write of the queue's first word; BASE and LOGN do not change while EN = 1 (R355). -/
theorem setQueueWord_base (s : State) (d q lo n : Nat) (v : BitVec 64) :
    s.setQueueWord d q 0 v.toNat lo n = s.modDie d fun di => di.modQueue q fun qu =>
      if qu.en then { qu with en := v.getLsbD 61 }
      else { qu with base := v.toNat % 2 ^ 57, logn := v.toNat / 2 ^ 57 % 16, en := v.getLsbD 61 } := by
  simp [State.setQueueWord, bitOf_toNat, bitsOf]

/-- Table 21.5: a write of the whole word sets both limits. -/
theorem setLimits_word (m : Manage) (v : Nat) :
    m.setLimits v 0 8 = { m with plim := v % 2 ^ 11, clim := v / 2 ^ 16 % 2 ^ 11, pending := true } := by
  simp [Manage.setLimits, Manage.setLimit, writesBytes, bitsOf]

/-- R355: a write of a queue's TAIL is its doorbell. -/
theorem putRegWord_doorbell {s t : State} {die q : Nat} {v : BitVec 64} (hq : q < 1024)
    (h : exec (.launchQueueDoorbell die q (v.toNat % 2 ^ 32)) s = .next t) :
    s.putRegWord die (32 * q + 16) v.toNat 0 8 = t := by
  have hd : s.doorbell die q (v.toNat % 2 ^ 32) = t := Host.Outcome.next.inj h
  rw [State.putRegWord_queueWord s (i := 2) die v.toNat 0 8 hq (by omega), ← hd]
  simp [State.setQueueWord, writesBytes, bitsOf]

/-- Settles O51: each register by its place in the control space, a queue's and a graph's word by word. -/
theorem registersAreWritten : Obligations.RegistersAreWritten := by
  unfold Obligations.RegistersAreWritten
  intro s
  refine ⟨fun cluster fuse => clusterConfigWrite_writes s cluster fuse, ?switch, ?write⟩
  case switch =>
    intro cluster
    dsimp only
    rw [← State.clusterUsed_iff, ← State.switching_iff]
    exact ⟨cacheModeSwitch_idle, cacheModeSwitch_switches⟩
  case write =>
    intro die off v
    refine ⟨?queues, ?graphs, ⟨?order, ?grid, ?report⟩, ?age, ?logTail, ?limits, ?command, ?ctxBase, ?pkg, ?none⟩
    case queues =>
      intro q hq
      refine ⟨fun h => ?_, fun h => ?_, fun h t ht => ?_, fun h => ?_⟩
      · exact registerWrite_queue s (i := 0) v _ hq (by omega) h (setQueueWord_base s die q 0 8 v) rfl
      · exact registerWrite_queue s (i := 1) v _ hq (by omega) h rfl (by simp [bitsOf])
      · subst h; exact putsRegisters_of_put (by omega) (putRegWord_doorbell hq ht)
      · subst h; exact putsRegisters_of_put (by omega) (State.putRegWord_queueWord s (i := 3) die _ _ _ hq (by omega))
    case graphs =>
      intro n hn
      refine ⟨fun h => ?_, fun h => ?_, fun h => ?_, fun h => ?_⟩
      · exact registerWrite_graph s (i := 0) v _ hn (by omega) h (by simp [Graph.setWord, bitsOf])
      · exact registerWrite_graph s (i := 1) v _ hn (by omega) h (by simp [Graph.setWord, bitsOf])
      · exact registerWrite_graph s (i := 2) v _ hn (by omega) h (graph_setWord_control _ v)
      · exact registerWrite_graph s (i := 3) v _ hn (by omega) h (by simp [Graph.setWord, bitsOf, Nat.mod_eq_of_lt v.isLt])
    case order =>
      rintro rfl
      exact registerWrite_die (by omega) (State.putRegWord_order s die _ _ _) (by rw [preempt_setWord_order])
    case grid =>
      rintro rfl
      exact registerWrite_die (by omega) (State.putRegWord_orderGrid s die _ _ _) (by simp [Preempt.setWord, bitsOf])
    case report =>
      rintro rfl
      exact registerWrite_die (by omega) (State.putRegWord_orderReport s die _ _ _) (by simp [Preempt.setWord, bitsOf])
    case age =>
      rintro rfl
      exact registerWrite_die (by omega) (State.putRegWord_age s die _ _ _) (by simp [bitsOf])
    case logTail =>
      rintro rfl
      exact registerWrite_die (by omega) (State.putRegWord_logTail s die _ _ _) rfl
    case limits =>
      rintro rfl rfl
      exact putsRegisters_of_put (by omega) (by rw [State.putRegWord_limits, setLimits_word])
    case command =>
      rintro rfl rfl
      exact putsRegisters_of_put (by omega) (by rw [State.putRegWord_command, control_setWord_command])
    case ctxBase =>
      rintro rfl rfl
      exact putsRegisters_of_put (by omega) (State.putRegWord_ctxBase s _ _ _)
    case pkg =>
      rintro rfl rfl
      exact putsRegisters_of_put (by omega) (State.putRegWord_pkg s _ _ _)
    case none => exact fun h8 h => putsRegisters_of_put h8 (State.putRegWord_none s die _ _ _ h)
end Sys2Proof.Slice0

namespace Sys2Proof.Machine

/-! ### What SRWR writes (11 R301, Table 11.4) -/

/-- The registers that a stream team has in common, after a write. -/
def Shared.setSr (sh : Shared) (n v : Nat) : Shared :=
  { sh with
    flags := if n = 0x001 then BitVec.ofNat 7 v else sh.flags
    stklim := if n = 0x002 then BitVec.ofNat 19 v else sh.stklim
    dbg := if n = 0x00B then BitVec.ofNat 6 v else sh.dbg
    ufh := if n = 0x00E then BitVec.ofNat 57 v else sh.ufh
    cpol := if n = 0x00F then BitVec.ofNat 57 (setBits sh.cpol.toNat 0 14 v) else sh.cpol
    bpa0 := if n = 0x022 then BitVec.ofNat 57 v else sh.bpa0
    bpa1 := if n = 0x023 then BitVec.ofNat 57 v else sh.bpa1 }

/-- The registers that are a group's or fibre's own, after a write. -/
def Group.setSr (gr : Group) (n v : Nat) : Group :=
  { gr with
    uemu := if n = 0x003 then BitVec.ofNat 57 v else gr.uemu
    emret := if n = 0x004 then BitVec.ofNat 57 v else gr.emret
    epc := if n = 0x00C then BitVec.ofNat 57 v else gr.epc }

/-- A write of a special register without what RESUME starts. -/
def State.writeSr (s : State) (g n v : Nat) : State :=
  (s.modShared g fun sh => sh.setSr n v).modGroup g fun gr => gr.setSr n v

/-- The groups or fibres of which `g` writes the common registers, and which its sr.dbg governs (02 R52, Table 11.8). -/
def State.governs (s : State) (g h : Nat) : Prop :=
  if (s.teamOf (s.group g).team).stream = true then (s.group h).team = (s.group g).team else h = g

/-- Those of them that exist, as a list. -/
def State.governedBy (s : State) (g : Nat) : List Nat :=
  if (s.teamOf (s.group g).team).stream then (s.groups.filter fun p => p.2.team == (s.group g).team).map Prod.fst else [g]

/-- RESUME of every group of a list (11 R297). -/
def State.resumeAll (s : State) (gs : List Nat) (drop : Bool) : State := gs.foldl (fun s h => s.resumeDebug h drop) s

/-- A stop has halted the group for the debugger (11 R297). -/
def Group.Halted (a : Group) : Prop := ∃ st, a.stop = some st ∧ st.halted = true

/-- A group that RESUME has sent on. -/
def Group.Freed (b : Group) : Prop := b.halt = false ∧ b.resumed = true ∧ ∀ st, b.stop = some st → st.halted = false

theorem Group.Freed.not_halted {b : Group} (h : b.Freed) : ¬ b.Halted := by
  rintro ⟨st, hs, hh⟩
  rw [h.2.2 st hs] at hh
  cases hh

/-! ### What may differ after a write of special register `n` -/

/-- The common registers of `a`, with `n` as `b` has it. -/
def Shared.taking (n : Nat) (a b : Shared) : Shared :=
  { a with
    flags := if n = 0x001 then b.flags else a.flags
    stklim := if n = 0x002 then b.stklim else a.stklim
    dbg := if n = 0x00B then b.dbg else a.dbg
    ufh := if n = 0x00E then b.ufh else a.ufh
    cpol := if n = 0x00F then b.cpol else a.cpol
    bpa0 := if n = 0x022 then b.bpa0 else a.bpa0
    bpa1 := if n = 0x023 then b.bpa1 else a.bpa1 }

/-- A group, with its own register `n`, the common ones and what a RESUME changes as `b` has them. -/
def Group.taking (n : Nat) (a b : Group) : Group :=
  { a with
    uemu := if n = 0x003 then b.uemu else a.uemu
    emret := if n = 0x004 then b.emret else a.emret
    epc := if n = 0x00C then b.epc else a.epc
    halt := if n = 0x00B then b.halt else a.halt
    shared := b.shared, resumed := b.resumed, stepping := b.stepping, stop := b.stop, frontier := b.frontier
    readySince := b.readySince }

/-- Of the common registers, `n` alone may differ. -/
def Shared.SameBut (n : Nat) (a b : Shared) : Prop := b = a.taking n b

/-- Of a group's own registers, `n` alone may differ; and what a RESUME changes. -/
def Group.SameBut (n : Nat) (a b : Group) : Prop := b = a.taking n b

/-- What a write of special register `n` leaves as it was, in the whole machine. -/
structure SrFrame (n : Nat) (s t : State) : Prop where
  rest : t = { s with groups := t.groups, teams := t.teams }
  keys : t.groups.map Prod.fst = s.groups.map Prod.fst
  teams : ∀ k, t.teamOf k = { s.teamOf k with shared := (t.teamOf k).shared }
  groups : ∀ h, Group.SameBut n (s.group h) (t.group h)
  shared : ∀ h, Shared.SameBut n (s.sharedOf h) (t.sharedOf h)

theorem Shared.SameBut.refl (n : Nat) (a : Shared) : a.SameBut n a := by simp [Shared.SameBut, Shared.taking]
theorem Group.SameBut.refl (n : Nat) (a : Group) : a.SameBut n a := by simp [Group.SameBut, Group.taking]

theorem Shared.SameBut.trans {n : Nat} {a b c : Shared} (h1 : a.SameBut n b) (h2 : b.SameBut n c) : a.SameBut n c := by
  unfold Shared.SameBut Shared.taking at *
  cases a; cases b; cases c
  grind

theorem Group.SameBut.trans {n : Nat} {a b c : Group} (h1 : a.SameBut n b) (h2 : b.SameBut n c) : a.SameBut n c := by
  unfold Group.SameBut Group.taking at *
  cases a; cases b; cases c
  grind

theorem Shared.SameBut.setSr (n v : Nat) (a : Shared) : a.SameBut n (a.setSr n v) := by
  simp only [Shared.SameBut, Shared.taking, Shared.setSr]
  grind

theorem SrFrame.refl (n : Nat) (s : State) : SrFrame n s s := ⟨rfl, rfl, fun _ => rfl, fun _ => .refl n _, fun _ => .refl n _⟩

theorem SrFrame.trans {n : Nat} {s t u : State} (h1 : SrFrame n s t) (h2 : SrFrame n t u) : SrFrame n s u where
  rest := by rw [h2.rest, h1.rest]
  keys := h2.keys.trans h1.keys
  teams k := by rw [h2.teams k, h1.teams k]
  groups h := (h1.groups h).trans (h2.groups h)
  shared h := (h1.shared h).trans (h2.shared h)

/-! ### What reads neither groups nor teams -/

section
variable (s : State) (gs : Tab Group) (ts : Tab Team)

theorem State.paLoad_groups (pa n : Nat) : { s with groups := gs, teams := ts }.paLoad pa n = s.paLoad pa n := by
  induction n generalizing pa with
  | zero => rfl
  | succ n ih => simp only [State.paLoad, ih]; rfl

theorem State.homeOf_groups (pa : Nat) : { s with groups := gs, teams := ts }.homeOf pa = s.homeOf pa := by
  have hw : { s with groups := gs, teams := ts }.windowOf pa = s.windowOf pa := State.paLoad_groups s gs ts _ _
  have ha : { s with groups := gs, teams := ts }.routeAddr pa = s.routeAddr pa := by simp only [State.routeAddr, hw]
  simp only [State.homeOf, State.onezaPort, hw, ha, State.paLoad_groups]
  rfl

theorem State.ctxEntry_groups (d c : Nat) : { s with groups := gs, teams := ts }.ctxEntry d c = s.ctxEntry d c := by
  have hr : ∀ pa, { s with groups := gs, teams := ts }.reaches d pa = s.reaches d pa := fun pa => by
    simp only [State.reaches, State.homeOf_groups]; rfl
  simp only [State.ctxEntry, hr, State.paLoad_groups]
  rfl
end

/-- Two tables have the same keys in the same order, and agree at `m`. -/
def AgreeAt (m : Nat) (xs ys : List (Nat × Nat)) : Prop :=
  match xs, ys with
  | [], [] => True
  | p :: xs, q :: ys => (p.1 = q.1 ∧ (p.1 = m → p.2 = q.2)) ∧ AgreeAt m xs ys
  | _, _ => False

/-- Such tables have the same entry at `m`. -/
theorem AgreeAt.find? {m : Nat} {xs ys : List (Nat × Nat)} (h : AgreeAt m xs ys) :
    xs.find? (fun p => p.1 == m) = ys.find? (fun p => p.1 == m) := by
  induction xs generalizing ys with
  | nil =>
    cases ys with
    | nil => rfl
    | cons q ys => exact h.elim
  | cons p xs ih =>
    cases ys with
    | nil => exact h.elim
    | cons q ys =>
      obtain ⟨⟨hk, hv⟩, ht⟩ := h
      rw [List.find?_cons, List.find?_cons, ← hk, ih ht]
      by_cases hm : p.1 = m
      · rw [Prod.ext hk (hv hm)]
      · rw [beq_false_of_ne hm]

open Sys2Proof.Slice0 in
/-- Every other special register reads as before. -/
theorem SrFrame.srOf_ne {n : Nat} {s t : State} (H : SrFrame n s t) (h : Nat) {m : Nat} (hmn : m ≠ n) :
    srOf t h m = srOf s h m := by
  obtain ⟨gs, ts, rfl⟩ : ∃ gs ts, t = { s with groups := gs, teams := ts } := ⟨_, _, H.rest⟩
  generalize ht : ({ s with groups := gs, teams := ts } : State) = t at H
  obtain ⟨sh, hsh⟩ : ∃ sh, t.sharedOf h = (s.sharedOf h).taking n sh := ⟨_, H.shared h⟩
  obtain ⟨b, hb⟩ : ∃ b, t.group h = (s.group h).taking n b := ⟨_, H.groups h⟩
  obtain ⟨x, hx⟩ : ∃ x : Nat → Shared, ∀ k, t.teamOf k = { s.teamOf k with shared := x k } := ⟨_, H.teams⟩
  have hc : ∀ d c, t.ctxEntry d c = s.ctxEntry d c := fun d c => by rw [← ht]; exact State.ctxEntry_groups s gs ts d c
  have hr : t.roleOf h = s.roleOf h := by simp only [State.roleOf, hb, hx, Group.taking]
  have hl : t.launches = s.launches := by rw [← ht]
  have hp : t.pkg = s.pkg := by rw [← ht]
  have hm : t.time = s.time := by rw [← ht]
  have ho : t.gtcOff = s.gtcOff := by rw [← ht]
  unfold State.sharedOf at hsh
  dsimp only at hsh
  unfold srOf
  rw [AgreeAt.find?]
  simp only [srTable]
  rw [hsh]
  simp only [hb, hx, hl, hc, hr, hp, hm, ho, Group.taking, Shared.taking, AgreeAt, and_true, true_and,
    implies_true]
  have hk : ∀ k, k = m → ¬ n = k := fun k e hn => hmn (e.symm.trans hn.symm)
  refine ⟨?_, ?_, ?_, ?_, ?_, ?_, ?_, ?_, ?_, ?_⟩ <;> intro e <;> simp only [if_neg (hk _ e)]

/-! ### One write without what RESUME starts -/

@[simp] theorem State.modGroup_id (s : State) (g : Nat) : s.modGroup g (fun x => x) = s := by
  simp [State.modGroup, Tab.modify_id]

@[simp] theorem State.modTeam_id (s : State) (k : Nat) : s.modTeam k (fun x => x) = s := by
  simp [State.modTeam, Tab.modify_id]

@[simp] theorem State.modShared_id (s : State) (g : Nat) : s.modShared g (fun x => x) = s := by
  dsimp only [State.modShared]
  split
  · exact State.modTeam_id s _
  · exact State.modGroup_id s _

/-- Registers that SRWR does not write. -/
theorem State.writeSr_none (s : State) (g v : Nat) {n : Nat}
    (h : n ∉ [0x001, 0x002, 0x003, 0x004, 0x00B, 0x00C, 0x00E, 0x00F, 0x022, 0x023]) : s.writeSr g n v = s := by
  simp only [List.mem_cons, List.not_mem_nil, or_false, not_or] at h
  simp [State.writeSr, Shared.setSr, Group.setSr, h]

theorem State.setDbg_eq (s : State) (g v : Nat) : s.setDbg g v =
    if bitOf v 7 = true then (s.writeSr g 0x00B v).resumeAll ((s.writeSr g 0x00B v).governedBy g) (bitOf v 8)
    else s.writeSr g 0x00B v := by
  have hw : s.writeSr g 0x00B v = s.modShared g fun sh => { sh with dbg := BitVec.ofNat 6 v } := by
    simp [State.writeSr, Shared.setSr, Group.setSr]
  rw [hw]
  rfl

/-- SRWR of any register: the write, and for sr.dbg with RESUME the groups that it sends on. -/
theorem State.setSr_eq (s : State) (g n v : Nat) : s.setSr g n v =
    if n = 0x00B ∧ bitOf v 7 = true then (s.writeSr g n v).resumeAll ((s.writeSr g n v).governedBy g) (bitOf v 8)
    else s.writeSr g n v := by
  unfold State.setSr
  split
  -- sr.dbg
  case h_5 => simp [State.setDbg_eq]
  -- a register that SRWR does not write
  case h_11 => rw [State.writeSr_none s g v (by simp; grind)]; grind
  all_goals simp [State.writeSr, Shared.setSr, Group.setSr]

theorem State.writeSr_teamOf (s : State) (g n v k : Nat) : (s.writeSr g n v).teamOf k =
    if (s.teamOf (s.group g).team).stream = true ∧ k = (s.group g).team then
      { s.teamOf k with shared := (s.teamOf k).shared.setSr n v } else s.teamOf k := by
  unfold State.writeSr State.modShared
  by_cases hs : (s.teamOf (s.group g).team).stream = true
  · have hp := Slice0.team_present hs
    by_cases hk : k = (s.group g).team <;> simp [hs, hk, State.teamOf_modTeam, hp]
  · simp [hs]

section
variable (s : State) {g : Nat} (n v : Nat) (hg : (Tab.get? s.groups g).isSome)
include hg

/-- The write changes its own group alone, and of a stream team only the fibre's own registers there. -/
theorem State.writeSr_group (h : Nat) : (s.writeSr g n v).group h =
    if h = g then { (s.group g).setSr n v with
      shared := if (s.teamOf (s.group g).team).stream = true then (s.group g).shared else (s.group g).shared.setSr n v }
    else s.group h := by
  unfold State.writeSr State.modShared
  by_cases hs : (s.teamOf (s.group g).team).stream = true <;> by_cases hh : h = g <;>
    simp [hs, hh, State.group_modGroup, hg, Group.setSr]

theorem State.writeSr_group_own : ((s.writeSr g n v).group g).uemu = ((s.group g).setSr n v).uemu ∧
    ((s.writeSr g n v).group g).emret = ((s.group g).setSr n v).emret ∧
    ((s.writeSr g n v).group g).epc = ((s.group g).setSr n v).epc := by
  rw [State.writeSr_group s n v hg, if_pos rfl]
  exact ⟨rfl, rfl, rfl⟩

theorem State.writeSr_team (h : Nat) : ((s.writeSr g n v).group h).team = (s.group h).team := by
  rw [State.writeSr_group s n v hg]
  split
  case isTrue e => rw [e]; rfl
  case isFalse => rfl

theorem State.writeSr_shared (h : Nat) : ((s.writeSr g n v).group h).shared =
    if h = g ∧ ¬ (s.teamOf (s.group g).team).stream = true then (s.group h).shared.setSr n v else (s.group h).shared := by
  rw [State.writeSr_group s n v hg]
  by_cases hh : h = g <;> by_cases hs : (s.teamOf (s.group g).team).stream = true <;> simp [hh, hs]

/-- The groups or fibres that the write governs, and no other, have the new value of a common register. -/
theorem State.writeSr_sharedOf (h : Nat) : (s.governs g h → (s.writeSr g n v).sharedOf h = (s.sharedOf h).setSr n v) ∧
    (¬ s.governs g h → (s.writeSr g n v).sharedOf h = s.sharedOf h) := by
  simp only [State.sharedOf, State.writeSr_team s n v hg, State.writeSr_shared s n v hg, State.writeSr_teamOf, State.governs]
  by_cases hs : (s.teamOf (s.group g).team).stream = true
  · by_cases hk : (s.group h).team = (s.group g).team <;> simp [hs, hk]
  · by_cases hh : h = g <;> simp [hs, hh]

theorem State.writeSr_frame : SrFrame n s (s.writeSr g n v) where
  rest := by unfold State.writeSr State.modShared; dsimp only; split <;> rfl
  keys := by unfold State.writeSr State.modShared; dsimp only; split <;> simp
  teams k := by rw [State.writeSr_teamOf]; split <;> rfl
  groups h := by
    rw [State.writeSr_group s n v hg]
    split
    case isTrue e => subst e; simp only [Group.SameBut, Group.taking, Group.setSr]; grind
    case isFalse => exact .refl n _
  shared h := by
    obtain ⟨hy, hn⟩ := State.writeSr_sharedOf s n v hg h
    by_cases hh : s.governs g h
    · rw [hy hh]; exact .setSr n v _
    · rw [hn hh]; exact .refl n _
end

/-! ### What RESUME does (11 R297) -/

/-- The group that RESUME sends on differs in these alone. -/
def Group.SentOn (a b : Group) : Prop :=
  b = { a with
    halt := b.halt, resumed := b.resumed, stepping := b.stepping, stop := b.stop, frontier := b.frontier
    readySince := b.readySince } ∧ b.Freed

theorem State.resumeDebug_of_not_halted {s : State} {g : Nat} (h : ¬ (s.group g).Halted) (drop : Bool) :
    s.resumeDebug g drop = s := by
  unfold State.resumeDebug
  cases hs : (s.group g).stop with
  | none => rfl
  | some st =>
    have hh : st.halted = false := by simpa [Group.Halted, hs] using h
    simp [hh]

/-- A group that is not in the table has no stop. -/
theorem State.isSome_of_halted {s : State} {g : Nat} (h : (s.group g).Halted) : (Tab.get? s.groups g).isSome := by
  cases hn : (Tab.get? s.groups g).isSome with
  | true => rfl
  | false =>
    obtain ⟨st, hs, -⟩ := h
    rw [State.group_none hn] at hs
    cases hs

/-- RESUME of one group leaves every other, and the rest of the machine. -/
theorem State.resumeDebug_frame (s : State) (g : Nat) (drop : Bool) :
    s.resumeDebug g drop = { s with groups := (s.resumeDebug g drop).groups } ∧
    (s.resumeDebug g drop).groups.map Prod.fst = s.groups.map Prod.fst ∧
    ∀ h, h ≠ g → (s.resumeDebug g drop).group h = s.group h := by
  unfold State.resumeDebug
  split
  · exact ⟨rfl, rfl, fun _ _ => rfl⟩
  · dsimp only
    split
    · exact ⟨rfl, rfl, fun _ _ => rfl⟩
    · exact ⟨rfl, by simp [State.restart], fun h hh => by simp only [State.restart, State.group_modGroup_ne _ _ hh]⟩

theorem Group.SentOn.restart {a b : Group} (h : a.SentOn b) (c : Nat) :
    a.SentOn (if b.stop.isNone then { b with readySince := c } else b) := by
  obtain ⟨hb, hf⟩ := h
  split
  · exact ⟨by rw [hb], hf⟩
  · exact ⟨hb, hf⟩

/-- A halted group goes on, whatever the code of its stop: 0x50 to 0x52 go past it or try it again, any other is kept or
dropped (Table 11.8). -/
theorem State.resumeDebug_halted {s : State} {g : Nat} (h : (s.group g).Halted) (drop : Bool) :
    (s.group g).SentOn ((s.resumeDebug g drop).group g) := by
  have hg := State.isSome_of_halted h
  obtain ⟨st, hs, hh⟩ := h
  unfold State.resumeDebug
  simp only [hs, hh, Bool.not_true, Bool.false_eq_true, if_false, State.restart]
  rw [State.group_modGroup_self _ _ (by simpa using hg), State.group_modGroup_self _ _ hg]
  apply Group.SentOn.restart
  split
  case h_4 => split <;> exact ⟨rfl, rfl, rfl, by simp⟩
  all_goals exact ⟨rfl, rfl, rfl, by simp [passStop]⟩

/-- RESUME of a list of groups: those of them that are halted go on, and nothing else changes. -/
theorem State.resumeAll_spec (s : State) (gs : List Nat) (drop : Bool) :
    s.resumeAll gs drop = { s with groups := (s.resumeAll gs drop).groups } ∧
    (s.resumeAll gs drop).groups.map Prod.fst = s.groups.map Prod.fst ∧
    (∀ h, h ∈ gs → (s.group h).Halted → (s.group h).SentOn ((s.resumeAll gs drop).group h)) ∧
    ∀ h, ¬ (h ∈ gs ∧ (s.group h).Halted) → (s.resumeAll gs drop).group h = s.group h := by
  induction gs generalizing s with
  | nil => exact ⟨rfl, rfl, by simp, fun _ _ => rfl⟩
  | cons g gs ih =>
    obtain ⟨hr, hk, hy, hn⟩ := ih (s.resumeDebug g drop)
    obtain ⟨dr, dk, dn⟩ := State.resumeDebug_frame s g drop
    have hcons : s.resumeAll (g :: gs) drop = (s.resumeDebug g drop).resumeAll gs drop := rfl
    rw [hcons]
    refine ⟨by rw [hr, dr], hk.trans dk, fun h hh ha => ?_, fun h hh => ?_⟩
    · by_cases e : h = g
      · subst e
        have hs := State.resumeDebug_halted ha drop
        rw [hn h fun hc => hs.2.not_halted hc.2]
        exact hs
      · have hg := dn h e
        rw [← hg] at ha ⊢
        exact hy h (by simpa [e] using hh) ha
    · by_cases e : h = g
      · subst e
        have ha : ¬ (s.group h).Halted := by simpa using hh
        rw [State.resumeDebug_of_not_halted ha] at hn ⊢
        exact hn h fun hc => ha hc.2
      · rw [← dn h e] at hh ⊢
        exact hn h fun hc => hh ⟨List.mem_cons_of_mem g hc.1, hc.2⟩

theorem State.sharedOf_congr {s t : State} {h : Nat} (ht : t.teams = s.teams) (hg : (t.group h).team = (s.group h).team)
    (hs : (t.group h).shared = (s.group h).shared) : t.sharedOf h = s.sharedOf h := by
  unfold State.sharedOf State.teamOf
  dsimp only
  rw [ht, hg, hs]

theorem State.resumeAll_sharedOf (s : State) (gs : List Nat) (drop : Bool) (h : Nat) :
    (s.resumeAll gs drop).sharedOf h = s.sharedOf h := by
  obtain ⟨hr, -, hy, hn⟩ := State.resumeAll_spec s gs drop
  have ht : (s.resumeAll gs drop).teams = s.teams := by rw [hr]
  by_cases hh : h ∈ gs ∧ (s.group h).Halted
  · obtain ⟨hb, -⟩ := hy h hh.1 hh.2
    exact State.sharedOf_congr ht (by rw [hb]) (by rw [hb])
  · exact State.sharedOf_congr ht (by rw [hn h hh]) (by rw [hn h hh])

theorem State.resumeAll_frame (s : State) (gs : List Nat) (drop : Bool) : SrFrame 0x00B s (s.resumeAll gs drop) := by
  obtain ⟨hr, hk, hy, hn⟩ := State.resumeAll_spec s gs drop
  refine ⟨by rw [hr], hk, fun k => by rw [hr]; rfl, fun h => ?_, fun h => ?_⟩
  · by_cases hh : h ∈ gs ∧ (s.group h).Halted
    · obtain ⟨hb, -⟩ := hy h hh.1 hh.2
      generalize (s.resumeAll gs drop).group h = b at hb
      rw [hb]
      rfl
    · rw [hn h hh]; exact .refl _ _
  · rw [State.resumeAll_sharedOf]; exact .refl _ _

/-! ### One write, with what RESUME starts -/

/-- A group that differs in the registers of its own that SRWR writes, and in the common ones. -/
def Group.Own (a b : Group) : Prop := b = { a with uemu := b.uemu, emret := b.emret, epc := b.epc, shared := b.shared }

theorem Group.Own.refl (a : Group) : a.Own a := rfl
theorem Group.Own.trans {a b c : Group} (h1 : a.Own b) (h2 : b.Own c) : a.Own c := by
  unfold Group.Own at *
  rw [h2, h1]

theorem Group.Own.halted_iff {a b : Group} (h : a.Own b) : b.Halted ↔ a.Halted := by
  have hs : b.stop = a.stop := by rw [h]
  simp only [Group.Halted, hs]

theorem Group.Own.halt {a b : Group} (h : a.Own b) : b.halt = a.halt := by rw [h]

theorem Group.Own.freed {a b : Group} (h : a.Own b) (ha : a.Freed) : b.Freed := by
  unfold Group.Own at h
  rw [h]
  exact ha

/-- What a write, or some, of special register `n` does: `res` says that one of them resumes the groups of `gov`. -/
structure SrStep (n : Nat) (res : Prop) (gov : Nat → Prop) (s t : State) : Prop where
  frame : SrFrame n s t
  kept : ∀ h, ¬ (res ∧ gov h ∧ (s.group h).Halted) → (s.group h).Own (t.group h)
  freed : ∀ h, res → gov h → (s.group h).Halted → (t.group h).Freed

theorem SrStep.refl (n : Nat) (gov : Nat → Prop) (s : State) : SrStep n False gov s s :=
  ⟨.refl n s, fun _ _ => .refl _, fun _ hf => hf.elim⟩

theorem SrStep.trans {n : Nat} {p q : Prop} {gov : Nat → Prop} {s t u : State} (h1 : SrStep n p gov s t)
    (h2 : SrStep n q gov t u) : SrStep n (p ∨ q) gov s u where
  frame := h1.frame.trans h2.frame
  kept h hh := by
    have ht := h1.kept h fun hc => hh ⟨.inl hc.1, hc.2⟩
    exact ht.trans (h2.kept h fun hc => hh ⟨.inr hc.1, hc.2.1, ht.halted_iff.1 hc.2.2⟩)
  freed h hr hg ha := by
    by_cases hp : p
    · have ht := h1.freed h hp hg ha
      exact (h2.kept h fun hc => ht.not_halted hc.2.2).freed ht
    · have ht := h1.kept h fun hc => hp hc.1
      exact h2.freed h (hr.resolve_left hp) hg (ht.halted_iff.2 ha)

theorem SrStep.congr {n : Nat} {p q : Prop} {gov gov' : Nat → Prop} {s t : State} (h : SrStep n p gov s t) (hp : p ↔ q)
    (hg : ∀ h, gov h ↔ gov' h) : SrStep n q gov' s t where
  frame := h.frame
  kept k hk := h.kept k (by rw [hp, hg]; exact hk)
  freed k hr hk := h.freed k (hp.2 hr) ((hg k).2 hk)

theorem SrFrame.team {n : Nat} {s t : State} (H : SrFrame n s t) (h : Nat) : (t.group h).team = (s.group h).team := by
  rw [H.groups h]; rfl

theorem State.governs_self (s : State) (g : Nat) : s.governs g g := by
  unfold State.governs
  split <;> rfl

theorem SrFrame.governs_iff {n : Nat} {s t : State} (H : SrFrame n s t) (g h : Nat) : t.governs g h ↔ s.governs g h := by
  have hs : ∀ k, (t.teamOf k).stream = (s.teamOf k).stream := fun k => by rw [H.teams k]
  simp only [State.governs, H.team, hs]

theorem SrFrame.isSome_iff {n : Nat} {s t : State} (H : SrFrame n s t) (h : Nat) :
    (Tab.get? t.groups h).isSome ↔ (Tab.get? s.groups h).isSome := by
  rw [Tab.get?_isSome_iff, Tab.get?_isSome_iff, H.keys]

theorem State.mem_governedBy {s : State} (hn : (s.groups.map Prod.fst).Nodup) (g : Nat) {h : Nat}
    (hh : (Tab.get? s.groups h).isSome) : h ∈ s.governedBy g ↔ s.governs g h := by
  obtain ⟨v, hv⟩ := Option.isSome_iff_exists.1 hh
  have hg : s.group h = v := by simp [State.group, Tab.getD, hv]
  unfold State.governedBy State.governs
  split
  · simp [Tab.mem_iff_get? hn, hv, hg]
  · simp

theorem State.writeSr_own (s : State) {g : Nat} (n v : Nat) (hg : (Tab.get? s.groups g).isSome) (h : Nat) :
    (s.group h).Own ((s.writeSr g n v).group h) := by
  rw [State.writeSr_group s n v hg]
  split
  case isTrue e => rw [e]; rfl
  case isFalse => exact .refl _

/-- One write of a special register. -/
theorem State.setSr_step (s : State) {g : Nat} (n v : Nat) (hg : (Tab.get? s.groups g).isSome)
    (hn : (s.groups.map Prod.fst).Nodup) : SrStep n (n = 0x00B ∧ bitOf v 7 = true) (s.governs g) s (s.setSr g n v) := by
  have hw := State.writeSr_frame s n v hg
  have ho := State.writeSr_own s n v hg
  rw [State.setSr_eq]
  split
  case isFalse h => exact ⟨hw, fun h _ => ho h, fun _ hr => absurd hr h⟩
  case isTrue h =>
    obtain ⟨-, -, hy, hz⟩ := State.resumeAll_spec (s.writeSr g n v) ((s.writeSr g n v).governedBy g) (bitOf v 8)
    have hm : ∀ h, (s.group h).Halted → (h ∈ (s.writeSr g n v).governedBy g ↔ s.governs g h) := fun h ha => by
      rw [State.mem_governedBy (hw.keys ▸ hn) g ((hw.isSome_iff h).2 (State.isSome_of_halted ha)), hw.governs_iff]
    refine ⟨hw.trans (h.1 ▸ State.resumeAll_frame _ _ _), fun k hk => ?_, fun k _ hk ha => ?_⟩
    · rw [hz k fun hc => hk ⟨h, (hm k ((ho k).halted_iff.1 hc.2)).1 hc.1, (ho k).halted_iff.1 hc.2⟩]
      exact ho k
    · exact (hy k ((hm k ha).2 hk) ((ho k).halted_iff.2 ha)).2

/-- Writes of one special register, in ascending order of the fibres `us` (11 R301). -/
def State.setSrs (s : State) (n : Nat) (G V : Nat → Nat) (us : List Nat) : State :=
  us.foldl (fun t u => t.setSr (G u) n (V u)) s

theorem State.setSrs_cons (s : State) (n : Nat) (G V : Nat → Nat) (u : Nat) (us : List Nat) :
    s.setSrs n G V (u :: us) = (s.setSr (G u) n (V u)).setSrs n G V us := rfl

theorem State.setSrs_step {s : State} (n : Nat) {G : Nat → Nat} (V : Nat → Nat) {us : List Nat} {gov : Nat → Prop}
    (hn : (s.groups.map Prod.fst).Nodup) (hg : ∀ u ∈ us, (Tab.get? s.groups (G u)).isSome)
    (hgov : ∀ u ∈ us, ∀ h, s.governs (G u) h ↔ gov h) :
    SrStep n (∃ u ∈ us, n = 0x00B ∧ bitOf (V u) 7 = true) gov s (s.setSrs n G V us) := by
  induction us generalizing s with
  | nil => exact (SrStep.refl n gov s).congr (by simp) fun _ => Iff.rfl
  | cons u us ih =>
    have h1 := (State.setSr_step s n (V u) (hg u List.mem_cons_self) hn).congr Iff.rfl (hgov u List.mem_cons_self)
    have h2 := ih (s := s.setSr (G u) n (V u)) (h1.frame.keys ▸ hn)
      (fun w hw => (h1.frame.isSome_iff _).2 (hg w (List.mem_cons_of_mem u hw)))
      fun w hw h => (h1.frame.governs_iff _ _).trans (hgov w (List.mem_cons_of_mem u hw) h)
    exact (h1.trans h2).congr (by simp) fun _ => Iff.rfl
end Sys2Proof.Machine

namespace Sys2Proof.Slice0
open Sys2Proof Sys2Proof.Machine

/-! ### What a written register reads (11 Table 11.4) -/

section
variable (s : State) (h : Nat)
theorem srOf_flags : srOf s h 0x001 = (s.sharedOf h).flags.toNat := rfl
theorem srOf_stklim : srOf s h 0x002 = (s.sharedOf h).stklim.toNat := rfl
theorem srOf_uemu : srOf s h 0x003 = (s.group h).uemu.toNat := rfl
theorem srOf_emret : srOf s h 0x004 = (s.group h).emret.toNat := rfl
theorem srOf_dbg : srOf s h 0x00B = (s.sharedOf h).dbg.toNat + if (s.group h).halt then 64 else 0 := rfl
theorem srOf_epc : srOf s h 0x00C = (s.group h).epc.toNat := rfl
theorem srOf_ufh : srOf s h 0x00E = (s.sharedOf h).ufh.toNat := rfl
theorem srOf_cpol : srOf s h 0x00F = (s.sharedOf h).cpol.toNat := rfl
theorem srOf_bpa0 : srOf s h 0x022 = (s.sharedOf h).bpa0.toNat := rfl
theorem srOf_bpa1 : srOf s h 0x023 = (s.sharedOf h).bpa1.toNat := rfl
end

/-- Table 11.6: of sr.cpol a write takes the low 14 bits. -/
theorem cpol_written (c : BitVec 57) (v : Nat) :
    (BitVec.ofNat 57 (setBits c.toNat 0 14 v)).toNat = v % 2 ^ 14 + c.toNat / 2 ^ 14 * 2 ^ 14 := by
  have hc := c.isLt
  simp only [BitVec.toNat_ofNat, setBits, bitsOf]
  omega

/-- A register in common reads its new value in each group or fibre that the write governs, one of a group's own in that
group. -/
def Reaches (s : State) (r : Nat × Nat × Bool × (Nat → Nat)) (g h : Nat) : Prop :=
  if r.2.2.1 then s.governs g h else h = g

/-- The write without what RESUME starts. -/
theorem srOf_writeSr {s : State} {r : Nat × Nat × Bool × (Nat → Nat)} (hr : r ∈ srWritten) {g h : Nat} (v : Nat)
    (hg : (Tab.get? s.groups g).isSome) (hh : Reaches s r g h) :
    srOf (s.writeSr g r.1 v) h r.1 = v % 2 ^ r.2.1 + r.2.2.2 (srOf s h r.1) := by
  have hs : s.governs g h → (s.writeSr g r.1 v).sharedOf h = (s.sharedOf h).setSr r.1 v :=
    (State.writeSr_sharedOf s r.1 v hg h).1
  obtain ⟨hu, he, hp⟩ := State.writeSr_group_own s r.1 v hg
  have ht := (State.writeSr_own s r.1 v hg h).halt
  simp only [srWritten, List.mem_cons, List.not_mem_nil, or_false] at hr
  rcases hr with rfl | rfl | rfl | rfl | rfl | rfl | rfl | rfl | rfl | rfl
  · simp [srOf_flags, hs hh, Shared.setSr]
  · simp [srOf_stklim, hs hh, Shared.setSr]
  · obtain rfl : h = g := hh
    simp [srOf_uemu, hu, Group.setSr]
  · obtain rfl : h = g := hh
    simp [srOf_emret, he, Group.setSr]
  · have hd := ((s.sharedOf h).dbg).isLt
    simp only [srOf_dbg, hs hh, ht, Shared.setSr, if_true, BitVec.toNat_ofNat]
    split <;> omega
  · obtain rfl : h = g := hh
    simp [srOf_epc, hp, Group.setSr]
  · simp [srOf_ufh, hs hh, Shared.setSr]
  · simp only [srOf_cpol, hs hh, Shared.setSr, if_true, cpol_written]
  · simp [srOf_bpa0, hs hh, Shared.setSr]
  · simp [srOf_bpa1, hs hh, Shared.setSr]

theorem srOf_setSr {s : State} {r : Nat × Nat × Bool × (Nat → Nat)} (hr : r ∈ srWritten) {g h : Nat} (v : Nat)
    (hg : (Tab.get? s.groups g).isSome) (hh : Reaches s r g h)
    (ha : ¬ ((r.1 = 0x00B ∧ bitOf v 7 = true) ∧ (s.group h).Halted)) :
    srOf (s.setSr g r.1 v) h r.1 = v % 2 ^ r.2.1 + r.2.2.2 (srOf s h r.1) := by
  rw [← srOf_writeSr hr v hg hh, State.setSr_eq]
  split
  case isFalse => rfl
  case isTrue hb =>
    obtain ⟨-, -, -, hz⟩ := State.resumeAll_spec (s.writeSr g r.1 v) ((s.writeSr g r.1 v).governedBy g) (bitOf v 8)
    have hw : ¬ ((s.writeSr g r.1 v).group h).Halted := fun hc =>
      ha ⟨hb, (State.writeSr_own s r.1 v hg h).halted_iff.1 hc⟩
    rw [hb.1] at hz hw ⊢
    rw [srOf_dbg, srOf_dbg, State.resumeAll_sharedOf, hz h fun hc => hw hc.2]

/-- The registers that are a group's own: what a write of them leaves of the old value is nothing. -/
theorem srWritten_own {r : Nat × Nat × Bool × (Nat → Nat)} (hr : r ∈ srWritten) (ho : r.2.2.1 = false) :
    (r.1 = 0x003 ∨ r.1 = 0x004 ∨ r.1 = 0x00C) ∧ ∀ x, r.2.2.2 x = 0 := by
  simp only [srWritten, List.mem_cons, List.not_mem_nil, or_false] at hr
  rcases hr with rfl | rfl | rfl | rfl | rfl | rfl | rfl | rfl | rfl | rfl <;> simp at ho ⊢

/-- Their values are the group's. -/
theorem srOf_own_congr {s t : State} {h n : Nat} (hn : n = 0x003 ∨ n = 0x004 ∨ n = 0x00C) (he : t.group h = s.group h) :
    srOf t h n = srOf s h n := by
  rcases hn with rfl | rfl | rfl
  · rw [srOf_uemu, srOf_uemu, he]
  · rw [srOf_emret, srOf_emret, he]
  · rw [srOf_epc, srOf_epc, he]

/-- A write leaves every group but its own and those that it resumes. -/
theorem setSr_group_ne {s : State} {g h n : Nat} (v : Nat) (hg : (Tab.get? s.groups g).isSome) (hn : n ≠ 0x00B)
    (hh : h ≠ g) : (s.setSr g n v).group h = s.group h := by
  rw [State.setSr_eq, if_neg fun hc => hn hc.1, State.writeSr_group s n v hg, if_neg hh]

theorem setSrs_group_ne {s : State} {h n : Nat} {G : Nat → Nat} (V : Nat → Nat) {us : List Nat}
    (hn : (s.groups.map Prod.fst).Nodup) (hg : ∀ u ∈ us, (Tab.get? s.groups (G u)).isSome) (hb : n ≠ 0x00B)
    (hh : ∀ u ∈ us, h ≠ G u) : (s.setSrs n G V us).group h = s.group h := by
  induction us generalizing s with
  | nil => rfl
  | cons u us ih =>
    have hu := hg u List.mem_cons_self
    have h1 := (State.setSr_step s n (V u) hu hn).frame
    rw [State.setSrs_cons, ih (h1.keys ▸ hn) (fun w hw => (h1.isSome_iff _).2 (hg w (List.mem_cons_of_mem u hw)))
      fun w hw => hh w (List.mem_cons_of_mem u hw)]
    exact setSr_group_ne (V u) hu hb (hh u List.mem_cons_self)

/-- What a write leaves of the old value, a later write leaves as well. -/
theorem srWritten_keeps {r : Nat × Nat × Bool × (Nat → Nat)} (hr : r ∈ srWritten) (v x : Nat) :
    r.2.2.2 (v % 2 ^ r.2.1 + r.2.2.2 x) = r.2.2.2 x := by
  simp only [srWritten, List.mem_cons, List.not_mem_nil, or_false] at hr
  rcases hr with rfl | rfl | rfl | rfl | rfl | rfl | rfl | rfl | rfl | rfl <;> dsimp only <;> omega

/-- Of the writes of a register in common, the last one's value stays. -/
theorem srOf_setSrs_common {s : State} {r : Nat × Nat × Bool × (Nat → Nat)} (hr : r ∈ srWritten) (hc : r.2.2.1 = true)
    {G : Nat → Nat} (V : Nat → Nat) {us : List Nat} {h : Nat} (hu : us ≠ [])
    (hn : (s.groups.map Prod.fst).Nodup) (hg : ∀ u ∈ us, (Tab.get? s.groups (G u)).isSome)
    (hh : ∀ u ∈ us, s.governs (G u) h)
    (ha : ¬ ((∃ u ∈ us, r.1 = 0x00B ∧ bitOf (V u) 7 = true) ∧ (s.group h).Halted)) :
    srOf (s.setSrs r.1 G V us) h r.1 = V (us.getLastD 0) % 2 ^ r.2.1 + r.2.2.2 (srOf s h r.1) := by
  induction us generalizing s with
  | nil => exact absurd rfl hu
  | cons u us ih =>
    have hu1 := hg u List.mem_cons_self
    have h1 := State.setSr_step s r.1 (V u) hu1 hn
    have hv : srOf (s.setSr (G u) r.1 (V u)) h r.1 = V u % 2 ^ r.2.1 + r.2.2.2 (srOf s h r.1) :=
      srOf_setSr hr (V u) hu1 (by rw [Reaches, hc]; exact hh u List.mem_cons_self)
        fun hc => ha ⟨⟨u, List.mem_cons_self, hc.1⟩, hc.2⟩
    rw [State.setSrs_cons]
    cases us with
    | nil => exact hv
    | cons w us =>
      have hk := h1.kept h fun hc => ha ⟨⟨u, List.mem_cons_self, hc.1⟩, hc.2.2⟩
      rw [ih (by simp) (h1.frame.keys ▸ hn) (fun x hx => (h1.frame.isSome_iff _).2 (hg x (List.mem_cons_of_mem u hx)))
        (fun x hx => (h1.frame.governs_iff _ _).2 (hh x (List.mem_cons_of_mem u hx)))
        (fun hc => ha ⟨hc.1.imp fun x hx => ⟨List.mem_cons_of_mem u hx.1, hx.2⟩, hk.halted_iff.1 hc.2⟩), hv, srWritten_keeps hr]
      rfl

/-- A register of a group's own reads the value that is written for it. -/
theorem srOf_setSrs_own {s : State} {r : Nat × Nat × Bool × (Nat → Nat)} (hr : r ∈ srWritten) (ho : r.2.2.1 = false)
    {G : Nat → Nat} (V : Nat → Nat) {us : List Nat} {w : Nat} (hw : w ∈ us) (hu : us.Nodup)
    (hn : (s.groups.map Prod.fst).Nodup) (hg : ∀ u ∈ us, (Tab.get? s.groups (G u)).isSome)
    (hi : ∀ u ∈ us, ∀ x ∈ us, G u = G x → u = x) :
    srOf (s.setSrs r.1 G V us) (G w) r.1 = V w % 2 ^ r.2.1 + r.2.2.2 (srOf s (G w) r.1) := by
  obtain ⟨hk, hz⟩ := srWritten_own hr ho
  have hb : r.1 ≠ 0x00B := by rcases hk with e | e | e <;> rw [e] <;> decide
  induction us generalizing s with
  | nil => cases hw
  | cons u us ih =>
    obtain ⟨hnu, hnd⟩ := List.nodup_cons.1 hu
    have hu1 := hg u List.mem_cons_self
    have h1 := (State.setSr_step s r.1 (V u) hu1 hn).frame
    have hn' : ((s.setSr (G u) r.1 (V u)).groups.map Prod.fst).Nodup := h1.keys ▸ hn
    have hg' : ∀ x ∈ us, (Tab.get? (s.setSr (G u) r.1 (V u)).groups (G x)).isSome := fun x hx =>
      (h1.isSome_iff _).2 (hg x (List.mem_cons_of_mem u hx))
    rw [State.setSrs_cons]
    rcases List.mem_cons.1 hw with rfl | hw'
    · have hne : ∀ x ∈ us, G w ≠ G x := fun x hx e =>
        hnu (hi w List.mem_cons_self x (List.mem_cons_of_mem w hx) e ▸ hx)
      rw [srOf_own_congr hk (setSrs_group_ne V hn' hg' hb hne)]
      exact srOf_setSr hr (V w) hu1 (by rw [Reaches, ho]; rfl) fun hc => hb hc.1.1
    · rw [ih hw' hnd hn' hg' fun x hx y hy => hi x (List.mem_cons_of_mem u hx) y (List.mem_cons_of_mem u hy), hz, hz]

/-! ### The executions of a form that executes once (05 R129, 11 R300) -/

theorem onceUnits_sub (s : State) {i : Issue} (h : s.cur = some i) (g : Guard) : ∀ u ∈ s.onceUnits g, u ∈ i.entry := by
  intro u hu
  unfold State.onceUnits at hu
  split at hu
  · exact active_sub s h g u hu
  · split at hu
    · cases hu
    next l _ ha =>
      obtain rfl : u = l := by simpa using hu
      exact active_sub s h g u (by rw [ha]; exact List.mem_cons_self)

theorem onceUnits_nodup {s : State} {i : Issue} (h : Sound s i) (g : Guard) : (s.onceUnits g).Nodup := by
  unfold State.onceUnits
  split
  · exact active_nodup s h g
  · split <;> simp

/-- The group or fibre that an execution of the issue belongs to. -/
theorem gidOf_eq {i : Issue} {u h j : Nat} (hu : i.at? u = some (h, j)) : gidOf i u = h := by simp [gidOf, hu]

/-- Two executions belong to two groups. -/
theorem onceUnits_apart {s : State} {i : Issue} (hS : Sound s i) (g : Guard) :
    ∀ u ∈ s.onceUnits g, ∀ w ∈ s.onceUnits g, gidOf i u = gidOf i w → u = w := by
  intro u hu w hw e
  cases hst : i.stream with
  | true =>
    have hu' := onceUnits_sub s hS.cur g u hu
    have hw' := onceUnits_sub s hS.cur g w hw
    obtain ⟨a, ja, ha, -⟩ := hS.seated u hu'
    obtain ⟨b, jb, hb, -⟩ := hS.seated w hw'
    rw [gidOf_eq ha, gidOf_eq hb] at e
    exact hS.fibres hst u hu' w hw' (by rw [ha, hb, e]; rfl)
  | false =>
    unfold State.onceUnits at hu hw
    rw [State.iss_eq hS.cur, hst] at hu hw
    simp only [Bool.false_eq_true, if_false] at hu hw
    split at hu
    · cases hu
    next l r ha =>
      rw [ha] at hw
      rw [List.mem_singleton.1 hu, List.mem_singleton.1 hw]

/-- The issue's group is that of the first fibre of its entry. -/
theorem gid_of_cons {i : Issue} {l g j : Nat} {r : List Nat} (he : i.entry = l :: r) (hl : i.at? l = some (g, j)) :
    i.gid = g := by
  have hk : (i.groups.head?).map Prod.fst = some g := by
    unfold Issue.groups
    rw [he, List.foldl_cons, hl]
    refine foldl_keeps (fun acc : List (Nat × List Nat) => (acc.head?).map Prod.fst = some g) _ _ _ ?_ rfl
    intro acc x _ ha
    cases acc with
    | nil => cases ha
    | cons p ps =>
      split
      · exact ha
      · split
        · exact ha
        · rw [List.map_cons, List.head?_cons]; split <;> exact ha
  simp only [Issue.gid, hk, Option.getD_some]

/-- In a grouped kernel, every fibre of the entry is one of the issue's group. -/
theorem gidOf_grouped {s : State} {i : Issue} (hS : Sound s i) (hst : i.stream = false) {u : Nat} (hu : u ∈ i.entry) :
    gidOf i u = i.gid := by
  obtain ⟨a, ja, ha, -⟩ := hS.seated u hu
  cases he : i.entry with
  | nil => rw [he] at hu; cases hu
  | cons l r =>
    have hl : l ∈ i.entry := by rw [he]; exact List.mem_cons_self
    obtain ⟨b, jb, hb, -⟩ := hS.seated l hl
    have hab := hS.grouped hst u hu l hl
    rw [ha, hb] at hab
    rw [gidOf_eq ha, gid_of_cons he hb]
    simpa using hab

/-- What the issue's sr.dbg governs: all of a stream team, the group of a grouped kernel. -/
theorem governs_iff {s : State} {i : Issue} (hS : Sound s i) {u : Nat} (hu : u ∈ i.entry) (h : Nat) :
    s.governs (gidOf i u) h ↔ if i.stream = true then (s.group h).team = i.team else h = i.gid := by
  obtain ⟨a, ja, ha, -, ht, -⟩ := hS.seated u hu
  cases hst : i.stream with
  | true => simp [State.governs, gidOf_eq ha, ht, hS.kind, hst]
  | false => simp [State.governs, ← gidOf_grouped hS hst hu, gidOf_eq ha, ht, hS.kind, hst]

/-! ### SRWR (11 R300, R301) -/

/-- SRWR names a scalar below s64. -/
theorem srwr_scalar {g : Guard} {f : Fields} (h : (Instr.srwr g f).wf = true) : f.a.toNat % 64 = f.a.toNat := by
  have hrow : rowOk { a := .s6, x := maskOf 0 12, ok := srKnown (f.xf 0 12) } f = true := (Bool.and_eq_true_iff.1 h).2
  have ha : bitsOf f.a.toNat 6 2 = 0 := by
    simp only [rowOk, opndOk, Bool.and_eq_true, beq_iff_eq] at hrow
    grind
  have := f.a.isLt
  unfold bitsOf at ha
  omega

/-- The fold of SRWR over seated fibres, by their groups. -/
theorem foldl_setSr_eq_setSrs {i : Issue} (n : Nat) (V : Nat → Nat) {us : List Nat} (s : State)
    (h : ∀ u ∈ us, ∃ a j, i.at? u = some (a, j)) :
    us.foldl (fun t u => match i.at? u with | some (gid, _) => t.setSr gid n (V u) | none => t) s =
      s.setSrs n (gidOf i) V us := by
  induction us generalizing s with
  | nil => rfl
  | cons u us ih =>
    obtain ⟨a, j, ha⟩ := h u List.mem_cons_self
    rw [List.foldl_cons, State.setSrs_cons, ha, gidOf_eq ha]
    exact ih _ fun w hw => h w (List.mem_cons_of_mem u hw)

/-- SRWR writes the register for each of its executions, with what the scalar A held before it. -/
theorem srwr_eq {s : State} {i : Issue} (hS : Sound s i) {g : Guard} {f : Fields} (hw : (Instr.srwr g f).wf = true) :
    exec (.srwr g f) s =
      .next (s.setSrs (f.xf 0 12) (gidOf i) (fun u => s.sreg u f.a.toNat) (s.onceUnits g)) := by
  change execSrwr g f s = _
  unfold execSrwr
  rw [issued_eq hS.cur, srwr_scalar hw]
  exact congrArg _ (foldl_setSr_eq_setSrs (f.xf 0 12) (fun u => s.sreg u f.a.toNat) s fun u hu =>
    have ⟨a, ja, ha, _⟩ := hS.seated u (onceUnits_sub s hS.cur g u hu)
    ⟨a, ja, ha⟩)

/-- Settles O24: the writes of its executions one after another, each of which touches the register and what RESUME sends
on. -/
theorem specialRegistersAreWritten : Obligations.SpecialRegistersAreWritten := by
  unfold Obligations.SpecialRegistersAreWritten
  intro s i hS g f hwf hne
  have hsub := onceUnits_sub s hS.cur g
  have hin : ∀ u ∈ s.onceUnits g, (Tab.get? s.groups (gidOf i u)).isSome := fun u hu => by
    obtain ⟨a, ja, ha, hp, -⟩ := hS.seated u (hsub u hu)
    rwa [gidOf_eq ha]
  have hres : (∃ u ∈ s.onceUnits g, f.xf 0 12 = 0x00B ∧ bitOf (s.sreg u f.a.toNat) 7 = true) ↔
      (f.xf 0 12 = 0x00B ∧ ∃ u ∈ s.onceUnits g, (s.sreg u f.a.toNat).testBit 7 = true) := by
    simp only [bitOf_eq_testBit]
    exact ⟨fun ⟨u, hu, hx, hb⟩ => ⟨hx, u, hu, hb⟩, fun ⟨hx, u, hu, hb⟩ => ⟨u, hu, hx, hb⟩⟩
  have step := State.setSrs_step (f.xf 0 12) (fun u => s.sreg u f.a.toNat) hS.keys hin fun u hu h => governs_iff hS (hsub u hu) h
  refine ⟨_, srwr_eq hS hwf, ?values, fun h n hn => step.frame.srOf_ne h hn, fun h hh => ?kept, fun h _ hr hg ha => ?freed,
    step.frame.teams, step.frame.rest⟩
  case values =>
    intro r hr hx u hu h j hj hh
    rw [← hx] at hh hres ⊢
    rw [← gidOf_eq hj] at hh ⊢
    cases hc : r.2.2.1 with
    | true =>
      exact srOf_setSrs_common hr hc _ hne hS.keys hin
        (fun w hw => (governs_iff hS (hsub w hw) _).2 ((governs_iff hS (hsub u hu) _).1 (State.governs_self s _)))
        fun hx => hh ⟨hres.1 hx.1, hx.2⟩
    | false => exact srOf_setSrs_own hr hc _ hu (onceUnits_nodup hS g) hS.keys hin (onceUnits_apart hS g)
  case kept => exact step.kept h fun hx => hh ⟨hres.1 hx.1, hx.2⟩
  case freed => exact step.freed h (hres.2 hr) hg ha
end Sys2Proof.Slice0

namespace Sys2Proof.Machine

/-! ### Bytes and event logs that an update leaves as they were -/

/-- No die keeps an event log, and no record waits to be written. -/
def Silent (s : State) : Prop := ∀ d, (s.die d).logEn = false ∧ (s.die d).logWait = []

/-- The bytes of local memory and of what lies outside the package, and the event logs' state, are those of `s`. -/
structure SameBytes (s t : State) : Prop where
  mem : t.mem = s.mem
  outside : t.outside = s.outside
  scratch : t.scratch = s.scratch
  logs : ∀ d, (t.die d).logEn = (s.die d).logEn ∧ (t.die d).logWait = (s.die d).logWait

theorem SameBytes.refl (s : State) : SameBytes s s := ⟨rfl, rfl, rfl, fun _ => ⟨rfl, rfl⟩⟩

theorem SameBytes.trans {s t u : State} (h : SameBytes s t) (k : SameBytes t u) : SameBytes s u :=
  ⟨k.mem.trans h.mem, k.outside.trans h.outside, k.scratch.trans h.scratch,
    fun d => ⟨(k.logs d).1.trans (h.logs d).1, (k.logs d).2.trans (h.logs d).2⟩⟩

theorem SameBytes.silent {s t : State} (h : SameBytes s t) (hs : Silent s) : Silent t :=
  fun d => ⟨(h.logs d).1.trans (hs d).1, (h.logs d).2.trans (hs d).2⟩

theorem SameBytes.paByte {s t : State} (h : SameBytes s t) (q : Nat) : t.paByte q = s.paByte q := by
  simp [State.paByte, h.mem, h.outside]

theorem SameBytes.wf {s t : State} (h : SameBytes s t) (hs : Memory.wf s = true) : Memory.wf t = true :=
  (wf_congr h.mem h.scratch).trans hs

/-- An update of other parts of the state than memory and the dies. -/
theorem SameBytes.of_dies {s t : State} (hm : t.mem = s.mem) (ho : t.outside = s.outside) (hx : t.scratch = s.scratch)
    (hd : t.dies = s.dies) : SameBytes s t :=
  ⟨hm, ho, hx, fun d => by simp [State.die, hd]⟩

theorem SameBytes.modDie (s : State) (d : Nat) (f : Die → Die) (he : (f (s.die d)).logEn = (s.die d).logEn)
    (hw : (f (s.die d)).logWait = (s.die d).logWait) : SameBytes s (s.modDie d f) := by
  refine ⟨rfl, rfl, rfl, fun e => ?_⟩
  rw [State.die_modDie]
  split
  case isTrue h => subst h; exact ⟨he, hw⟩
  case isFalse => exact ⟨rfl, rfl⟩

theorem SameBytes.modGroup (s : State) (g : Nat) (f : Group → Group) : SameBytes s (s.modGroup g f) := .of_dies rfl rfl rfl rfl

/-- A fold of such updates. -/
theorem SameBytes.foldl {α : Type} (s : State) (f : State → α → State) (xs : List α) (h : ∀ t x, SameBytes t (f t x)) :
    SameBytes s (xs.foldl f s) :=
  foldl_keeps (SameBytes s) f xs s (fun t x _ ht => ht.trans (h t x)) (.refl s)

/-! ### Groups that go on, stop or are woken -/

theorem SameBytes.stepped (s : State) (g : Nat) : SameBytes s (s.stepped g) := by
  unfold State.stepped State.stopGroup
  split
  · split <;> exact .of_dies rfl rfl rfl rfl
  · exact .refl s

theorem SameBytes.resume (s : State) (g : Nat) : SameBytes s (s.resume g) := (modGroup s g _).trans (stepped _ g)

theorem SameBytes.wake (s : State) (g dst v : Nat) : SameBytes s (s.wake g dst v) := (modGroup s g _).trans (resume _ g)

theorem SameBytes.stopParked (s : State) (g c sub ea : Nat) : SameBytes s (s.stopParked g c sub ea) := by
  unfold State.stopParked State.stopGroup
  split
  · exact .of_dies rfl rfl rfl rfl
  · exact .refl s

theorem SameBytes.trigger (s : State) (g : Nat) (w : Watch) : SameBytes s (s.trigger g w) := by
  unfold State.trigger
  split
  · exact (wake s g _ _).trans (modGroup _ g _)
  · exact modGroup s g _

theorem SameBytes.triggerIf (s : State) (hit : Watch → Bool) : SameBytes s (s.triggerIf hit) := by
  refine .foldl s _ _ fun t p => ?_
  split
  · split
    · exact trigger t _ _
    · exact .refl t
  · exact .refl t

/-- A missed deadline is counted, and nothing is logged of it (18 R415). -/
theorem SameBytes.countMiss (s : State) (d src cls : Nat) (dl : Option Nat) : SameBytes s (s.countMiss d src cls dl) := by
  unfold State.countMiss
  split
  · split
    · exact modDie s d _ rfl rfl
    · exact .refl s
  · exact .refl s

theorem SameBytes.serveWait (s : State) (d g : Nat) : SameBytes s (s.serveWait d g) := by
  unfold State.serveWait
  dsimp only
  split
  · exact countMiss s _ _ _ _
  · exact .refl s

/-- What a write has others notice (05 R144, 16 R400) changes no byte. -/
theorem SameBytes.triggerDevice (s : State) (pa : Nat) : SameBytes s (s.triggerDevice pa) := by
  refine (triggerIf s _).trans (.foldl _ _ _ fun t p => ?_)
  split
  · split
    · exact .refl t
    · split
      · exact stopParked t _ _ _ _
      · split
        · exact (serveWait t _ _).trans (wake _ _ _ _)
        · exact .refl t
  · exact .refl t

/-! ### Crossings, waits and lines -/

theorem SameBytes.sendOff (s : State) (d : Nat) (x : Msg) : SameBytes s (s.sendOff d x) := by
  unfold State.sendOff
  split
  · exact .of_dies rfl rfl rfl rfl
  · split
    · exact .refl s
    · exact .of_dies rfl rfl rfl rfl

theorem SameBytes.crossing (s : State) (d pa : Nat) : SameBytes s (s.crossing d pa) := by
  unfold State.crossing
  split
  · exact .refl s
  · exact sendOff s d _

theorem State.crossing_home (s : State) {d pa : Nat} (h : s.homeOf pa = d) : s.crossing d pa = s := by
  simp [State.crossing, h]

theorem SameBytes.endWait (s : State) (k : SectorWait) : SameBytes s (s.endWait k) := by
  unfold State.endWait
  split
  · exact .refl s
  · exact .of_dies rfl rfl rfl rfl

theorem SameBytes.backLine {s t : State} {line : Nat} (h : s.backLine line = some t) : SameBytes s t := by
  unfold State.backLine at h
  rw [← some_of_ite h]
  refine .trans ?_ (modDie _ _ _ rfl rfl)
  exact .of_dies rfl rfl rfl rfl

/-- A line takes eight sectors at most (18 R416), so that eight free ones are enough. -/
theorem State.backLine_isSome {s : State} {line : Nat} (h : 8 ≤ (s.die (line * 512 / 2 ^ 38 % 4)).freeSectors) :
    (s.backLine line).isSome = true := by
  have hn : (if s.isFlat line = true then 8 else 1 + Config.choice s.free % 8) ≤ 8 := by split <;> omega
  unfold State.backLine
  dsimp only
  rw [if_neg]
  · rfl
  · simp only [Bool.and_eq_true, decide_eq_true_eq, not_and]
    omega

/-! ### With no event log kept -/

theorem Silent.log {s : State} (h : Silent s) (d src kind : Nat) (p : List (Nat × Nat)) : s.log d src kind p = s :=
  State.log_unlogged h d src kind p

theorem Silent.pushRecord {s : State} (h : Silent s) (d src kind stamp : Nat) (p : List (Nat × Nat)) :
    s.pushRecord d src kind stamp p = s := by simp [State.pushRecord, (h d).1]

theorem Silent.storeLogs {s : State} (h : Silent s) : s.storeLogs = s := State.storeLogs_none fun d => (h d).2

/-- A crossing of SOFT (18 R419) then changes the mark of it alone. -/
theorem SameBytes.notePress {s : State} (h : Silent s) (d : Nat) : SameBytes s (s.notePress d) := by
  have hp : SameBytes s (s.pushPress d) := by
    unfold State.pushPress
    dsimp only
    split
    · exact .refl s
    · have hm : SameBytes s (s.modDie d fun di => { di with pressed := decide ((s.die d).freeSectors < (s.die d).soft) }) :=
        modDie s d _ rfl rfl
      rw [State.pushCapacity, (hm.silent h).pushRecord]
      exact hm
  rw [State.notePress, (hp.silent h).storeLogs]
  exact hp

/-- A corrected error is written back (18 R432). -/
theorem State.noteCorrected_silent {s : State} (h : Silent s) (pa : Nat) (patrol : Bool) : s.noteCorrected pa patrol =
    if Tab.get? s.faults (paLa pa / 64) = some .corrected ∧ paRegion pa = 0 then
      { s with faults := Tab.erase s.faults (paLa pa / 64), free := s.free + 1 } else s := by
  unfold State.noteCorrected
  simp only [Bool.and_eq_true, beq_iff_eq]
  split
  case isFalse => rfl
  case isTrue hc =>
    have hq : Silent { s with faults := Tab.erase s.faults (paLa pa / 64) } := h
    have hd : Silent { s with faults := Tab.erase s.faults (paLa pa / 64), free := s.free + 1 } := h
    simp only [State.pushCorrected, hc.1, hq.pushRecord, State.draw]
    exact hd.storeLogs

theorem State.noteCorrected_sound (s : State) {pa : Nat} (patrol : Bool)
    (h : Tab.get? s.faults (paLa pa / 64) ≠ some .corrected) : s.noteCorrected pa patrol = s := by
  simp [State.noteCorrected, h]

theorem SameBytes.noteCorrected {s : State} (h : Silent s) (pa : Nat) (patrol : Bool) :
    SameBytes s (s.noteCorrected pa patrol) := by
  rw [State.noteCorrected_silent h]
  split
  · exact .of_dies rfl rfl rfl rfl
  · exact .refl s

theorem SameBytes.noteRoute {s : State} (h : Silent s) (pa : Nat) : SameBytes s (s.noteRoute pa) :=
  have h1 := noteCorrected h (s.windowAddr pa) false
  h1.trans (noteCorrected (h1.silent h) _ false)

/-! ### Bytes of local memory and of what lies outside the package -/

/-- Two addresses of local memory, or two outside it: a byte written at one of them is read at the other only if they are
the same. -/
def Alike (pa q : Nat) : Prop := (pa < 2 ^ 40 ∧ q < 2 ^ 40) ∨ (paRegion pa ≠ 0 ∧ paRegion q ≠ 0)

theorem paRegion_local {pa : Nat} (h : pa < 2 ^ 40) : paRegion pa = 0 := by unfold paRegion; omega

theorem paLa_local {pa : Nat} (h : pa < 2 ^ 40) : paLa pa = pa := Nat.mod_eq_of_lt h

theorem homeDie_local {pa : Nat} (h : pa < 2 ^ 40) : homeDie pa = pa / 2 ^ 38 % 4 := by simp [homeDie, paRegion_local h]

theorem State.setPaByte_paByte {s : State} {pa q : Nat} (v : Byte) (hw : Memory.wf s = true) (h : Alike pa q) :
    (s.setPaByte pa v).paByte q = if q = pa then v else s.paByte q := by
  rcases h with ⟨hp, hq⟩ | ⟨hp, hq⟩
  · simp [State.paByte, State.setPaByte, paRegion_local hp, paRegion_local hq, paLa_local hp, paLa_local hq,
      cellRead_cellWrite s.mem 0 pa q v ((wf_iff s).1 hw).1]
  · simp only [State.paByte, State.setPaByte, beq_iff_eq, hp, hq, if_false, Tab.get?_set]
    by_cases e : q = pa <;> simp [e]

/-- Bytes stored little-endian from `pa` on; every other byte stands (00 R2). -/
theorem State.setPaBytes_paByte {s : State} {pa q n : Nat} (v : Nat) (hw : Memory.wf s = true)
    (h : ∀ k, k < n → Alike (pa + k) q) :
    (s.setPaBytes pa v n).paByte q =
      if pa ≤ q ∧ q < pa + n then BitVec.ofNat 8 (v / 2 ^ (8 * (q - pa))) else s.paByte q := by
  induction n generalizing s pa v with
  | zero => rw [if_neg (by omega)]; rfl
  | succ n ih =>
    have h1 : ∀ k, k < n → Alike (pa + 1 + k) q := fun k hk => by
      rw [show pa + 1 + k = pa + (k + 1) by omega]; exact h (k + 1) (by omega)
    have h0 : Alike pa q := h 0 (by omega)
    rw [State.setPaBytes, ih _ (wf_setPaByte pa _ hw) h1, State.setPaByte_paByte _ hw h0]
    by_cases he : q = pa
    · subst he
      rw [if_neg (by omega), if_pos rfl, if_pos (by omega), Nat.sub_self, Nat.mul_zero, Nat.pow_zero, Nat.div_one]
    by_cases hq : pa + 1 ≤ q ∧ q < pa + 1 + n
    · rw [if_pos hq, if_pos (by omega), Nat.div_div_eq_div_mul, show 256 = 2 ^ 8 from rfl, ← Nat.pow_add,
        show 8 + 8 * (q - (pa + 1)) = 8 * (q - pa) by omega]
    · rw [if_neg hq, if_neg he, if_neg (by omega)]

/-- Bytes stored leave the dies, and with them the event logs, as they were. -/
theorem State.setPaBytes_dies (s : State) (pa v n : Nat) : (s.setPaBytes pa v n).dies = s.dies := by
  induction n generalizing s pa v with
  | zero => rfl
  | succ n ih => rw [State.setPaBytes, ih]; unfold State.setPaByte; split <;> rfl

theorem Silent.setPaBytes {s : State} (h : Silent s) (pa v n : Nat) : Silent (s.setPaBytes pa v n) := fun d => by
  simpa [State.die, State.setPaBytes_dies] using h d

/-- What is stored outside local memory leaves it as it was. -/
theorem State.setPaBytes_mem {s : State} {pa n : Nat} (v : Nat) (h : ∀ k, k < n → paRegion (pa + k) ≠ 0) :
    (s.setPaBytes pa v n).mem = s.mem := by
  induction n generalizing s pa v with
  | zero => rfl
  | succ n ih =>
    have h0 : paRegion pa ≠ 0 := h 0 (by omega)
    have h1 : ∀ k, k < n → paRegion (pa + 1 + k) ≠ 0 := fun k hk => by
      rw [show pa + 1 + k = pa + (k + 1) by omega]; exact h (k + 1) (by omega)
    rw [State.setPaBytes, ih _ h1, State.setPaByte_mem, if_neg h0]

/-! ### Ways to a home (19 R450, 21 R484) -/

theorem State.homeOf_local (s : State) {pa : Nat} (h : paRegion pa = 0) : s.homeOf pa = homeDie pa := by
  simp [State.homeOf, h]

/-- A die reaches what it is the home of. -/
theorem State.reaches_home (s : State) {d pa : Nat} (h : s.homeOf pa = d) : s.reaches d pa = true := by
  simp [State.reaches, State.route, h]

/-- What stands in one sector is routed alike: the first byte of the sector stands for it. -/
theorem paRegion_sector (pa : Nat) : paRegion (pa / 64 * 64) = paRegion pa := by unfold paRegion; omega

theorem homeDie_sector (pa : Nat) : homeDie (pa / 64 * 64) = homeDie pa := by
  unfold homeDie
  rw [paRegion_sector]
  split
  · omega
  · split <;> omega

theorem laneOf_sector (pa : Nat) : laneOf (paLa (pa / 64 * 64)) = laneOf (paLa pa) := by
  have h : ∀ i, 9 ≤ i → bitsOf (paLa (pa / 64 * 64)) i 4 = bitsOf (paLa pa) i 4 := fun i hi => by
    obtain ⟨j, rfl⟩ := Nat.exists_eq_add_of_le hi
    have he : paLa (pa / 64 * 64) / 2 ^ 9 = paLa pa / 2 ^ 9 := by unfold paLa; omega
    simp only [bitsOf, Nat.pow_add, ← Nat.div_div_eq_div_mul, he]
  simp [laneOf, h]

theorem State.windowAddr_sector (s : State) (pa : Nat) : s.windowAddr (pa / 64 * 64) = s.windowAddr pa := by
  have h : bitsOf (pa / 64 * 64) 40 11 = bitsOf pa 40 11 := by unfold bitsOf; omega
  simp [State.windowAddr, h]

theorem State.routeAddr_sector (s : State) (pa : Nat) : s.routeAddr (pa / 64 * 64) = s.routeAddr pa := by
  simp [State.routeAddr, State.windowOf, State.windowAddr_sector]

theorem State.onezaPort_sector (s : State) (pa : Nat) : s.onezaPort (pa / 64 * 64) = s.onezaPort pa := by
  simp [State.onezaPort, State.windowOf, State.windowAddr_sector, State.routeAddr_sector, laneOf_sector]

theorem State.homeOf_sector (s : State) (pa : Nat) : s.homeOf (pa / 64 * 64) = s.homeOf pa := by
  simp [State.homeOf, paRegion_sector, State.onezaPort_sector, homeDie_sector]

theorem State.reaches_sector (s : State) (d pa : Nat) : s.reaches d (pa / 64 * 64) = s.reaches d pa := by
  simp [State.reaches, State.homeOf_sector]

theorem State.remoteOk_sector (s : State) (pa : Nat) : s.remoteOk (pa / 64 * 64) = s.remoteOk pa := by
  simp [State.remoteOk, State.onezaPort_sector]

theorem State.noteRoute_sector (s : State) (pa : Nat) : s.noteRoute (pa / 64 * 64) = s.noteRoute pa := by
  simp [State.noteRoute, State.windowAddr_sector, State.routeAddr_sector]

/-! ### Reads at a home (16 R385, 18 R432, 21 R484) -/

/-- Without a path nothing is read. -/
theorem State.readHome_unreached {s : State} {d pa : Nat} (h : s.reaches d pa = false) : (s.readHome d pa).1 = s := by
  simp [State.readHome, State.reaches_sector, h]

/-- Local memory is read at its home: what is in error there is corrected, and nothing else happens. -/
theorem State.readHome_local {s : State} {d pa : Nat} (hp : pa < 2 ^ 40) (hd : homeDie pa = d)
    (hf : Tab.get? s.faults (pa / 64) ≠ some .corrected) : (s.readHome d pa).1 = s := by
  have hr : paRegion (pa / 64 * 64) = 0 := (paRegion_sector pa).trans (paRegion_local hp)
  have hh : s.homeOf (pa / 64 * 64) = d := by rw [State.homeOf_local s hr, homeDie_sector, hd]
  have hl : paLa (pa / 64 * 64) / 64 = pa / 64 := by unfold paLa; omega
  simp [State.readHome, State.reaches_home s hh, hr, State.crossing_home s hh,
    State.noteCorrected_sound s (pa := pa / 64 * 64) false (by rwa [hl])]

/-- Another package's memory is read through its window and route, at the die where it leaves the package. -/
theorem State.readHome_remote (s : State) {pa : Nat} (hr : 8 ≤ paRegion pa) :
    (s.readHome (s.homeOf pa) pa).1 = if s.remoteOk pa = true then s.noteRoute pa else s := by
  have hh : s.homeOf (pa / 64 * 64) = s.homeOf pa := s.homeOf_sector pa
  have h8 : 8 ≤ paRegion (pa / 64 * 64) := paRegion_sector pa ▸ hr
  unfold State.readHome
  simp only [State.reaches_home s hh, State.remoteOk_sector, h8, decide_true, Bool.not_true, Bool.false_or, Bool.true_and,
    State.crossing_home s hh, State.noteRoute_sector]
  cases s.remoteOk pa with
  | false => simp
  | true =>
    simp only [Bool.not_true, Bool.false_eq_true, if_false, if_true]
    split
    · omega
    · omega
    · rfl

/-- A read leaves every byte. -/
theorem SameBytes.readHome {s : State} (h : Silent s) (d pa : Nat) : SameBytes s (s.readHome d pa).1 := by
  have hc := crossing s d (pa / 64 * 64)
  unfold State.readHome
  dsimp only
  split
  · exact .refl s
  · split
    · exact hc.trans (noteCorrected (hc.silent h) _ _)
    · exact hc
    · exact hc.trans (noteRoute (hc.silent h) _)

/-! ### Writes at a home (16 R386, 18 R419, R431, 21 R484) -/

/-- Without a path nothing is written. -/
theorem State.writeHome_unreached {s : State} {d pa v n : Nat} (h : s.reaches d pa = false) :
    s.writeHome d (bareAddr pa) v n 0 = (s, .refused 0x09) := by simp [State.writeHome, bareAddr, h]

/-- A part of a sector whose line finds no sectors is not written yet (18 R419). -/
theorem State.writeHome_waits {s : State} {d pa v n : Nat} (hp : pa < 2 ^ 40) (hn : n < 64) (hr : s.reaches d pa = true)
    (hs : s.sectorStatus pa = 0) (hf : Tab.get? s.faults (pa / 64) ≠ some .corrected) (hb : s.backLine (pa / 512) = none) :
    s.writeHome d (bareAddr pa) v n 0 = (s, .waits (homeDie pa)) := by
  have hc : s.noteCorrected pa false = s := State.noteCorrected_sound s false (by rwa [paLa_local hp])
  simp [State.writeHome, bareAddr, hr, paRegion_local hp, hs, hn, hc, paLa_local hp, hb]

/-- A part of a sector whose line finds its sectors is written, and nothing else. -/
theorem State.writeHome_local {s : State} {d pa v n : Nat} (h : Silent s) (hw : Memory.wf s = true) (hp : pa + n ≤ 2 ^ 40)
    (h0 : 0 < n) (hn : n < 64) (hr : s.reaches d pa = true) (hs : s.sectorStatus pa = 0)
    (hb : ((s.noteCorrected pa false).backLine (pa / 512)).isSome = true) :
    ∃ t g, s.writeHome d (bareAddr pa) v n 0 = (t, .done g) ∧ ∀ q, q < 2 ^ 40 →
      t.paByte q = if pa ≤ q ∧ q < pa + n then BitVec.ofNat 8 (v / 2 ^ (8 * (q - pa))) else s.paByte q := by
  have hl : pa < 2 ^ 40 := by omega
  obtain ⟨u, hu⟩ := Option.isSome_iff_exists.1 hb
  have hsu : SameBytes s (u.crossing d pa) :=
    ((SameBytes.noteCorrected h pa false).trans (.backLine hu)).trans (.crossing u d pa)
  have hq := (hsu.silent h).setPaBytes pa v n
  have ht := SameBytes.triggerDevice ((u.crossing d pa).setPaBytes pa v n) pa
  have hx : s.writeHome d (bareAddr pa) v n 0 =
      (((((u.crossing d pa).setPaBytes pa v n).triggerDevice pa).notePress (homeDie pa)),
        .done (((u.crossing d pa).setPaBytes pa v n).gwct pa)) := by
    simp [State.writeHome, bareAddr, hr, paRegion_local hl, hs, hn, paLa_local hl, hu, Xlate.tagged, pteTag, bitOf, bitsOf]
  refine ⟨_, _, hx, fun q hq' => ?_⟩
  rw [(ht.trans (.notePress (ht.silent hq) _)).paByte, State.setPaBytes_paByte v (hsu.wf hw) fun k hk => .inl ⟨by omega, hq'⟩,
    hsu.paByte]

/-- Bytes of another package are written at their place there. -/
theorem State.writeHome_remote {s : State} {pa v n : Nat} (h8 : 8 ≤ paRegion pa) (hr : s.remoteOk pa = true) :
    ∃ g, s.writeHome (s.homeOf pa) (bareAddr pa) v n 0 =
      (((s.noteRoute pa).setPaBytes (s.placeOf pa) v n).triggerDevice (s.placeOf pa), .done g) := by
  refine ⟨s.gwct pa, ?_⟩
  unfold State.writeHome
  simp only [bareAddr, State.reaches_home s rfl, h8, hr, decide_true, Bool.not_true, Bool.and_false, Bool.or_false,
    Bool.false_eq_true, if_false, State.crossing_home s rfl]
  split
  · omega
  · omega
  · rfl

/-- A window that is not valid, or a package without a route, refuses the write. -/
theorem State.writeHome_unrouted {s : State} {d pa v n : Nat} (h8 : 8 ≤ paRegion pa) (hr : s.remoteOk pa = false) :
    s.writeHome d (bareAddr pa) v n 0 = (s, .refused 0x09) := by simp [State.writeHome, bareAddr, h8, hr]

/-! ### A word of the control space takes 64 bits (21 R476) -/

section
variable {v w : Nat}

/-- Two numbers whose low 64 bits are the same, field by field. -/
def SameWord (v w : Nat) : Prop := ∀ lo n, lo + n ≤ 64 → bitsOf v lo n = bitsOf w lo n

theorem SameWord.bit (h : SameWord v w) {i : Nat} (hi : i + 1 ≤ 64) : bitOf v i = bitOf w i := by
  rw [bitOf, bitOf, h i 1 hi]

theorem SameWord.ofNat (h : SameWord v w) {n : Nat} (hn : n ≤ 64) : BitVec.ofNat n v = BitVec.ofNat n w := by
  have := h 0 n (by omega)
  apply BitVec.eq_of_toNat_eq
  simpa [bitsOf] using this

/-- A word of which all eight bytes are written keeps nothing of its old value. -/
theorem sameWord_setBits (x v : Nat) : SameWord (setBits x 0 64 v) v := by
  intro lo n hn
  have hm : setBits x 0 64 v % 2 ^ 64 = v % 2 ^ 64 := by unfold setBits bitsOf; omega
  have hp : ∀ y, bitsOf y lo n = bitsOf (y % 2 ^ 64) lo n := fun y => by
    unfold bitsOf
    obtain ⟨k, hk⟩ := Nat.exists_eq_add_of_le hn
    rw [hk, Nat.pow_add, Nat.pow_add, Nat.mul_assoc, Nat.mod_mul_right_div_self, Nat.mod_mul_right_mod]
  rw [hp, hm, ← hp]

theorem Graph.setWord_congr (h : SameWord v w) (g : Graph) (i : Nat) : g.setWord i v = g.setWord i w := by
  unfold Graph.setWord
  split <;> simp [h _ _, h.bit]

theorem Preempt.setWord_congr (h : SameWord v w) (p : Preempt) (i : Nat) : p.setWord i v = p.setWord i w := by
  unfold Preempt.setWord
  split <;> simp [h _ _, h.bit]

theorem Control.setWord_congr (h : SameWord v w) (c : Control) (i : Nat) : c.setWord i v = c.setWord i w := by
  unfold Control.setWord
  split <;> simp [h _ _, h.bit]

theorem Die.setLogWord_congr (h : SameWord v w) (di : Die) (i : Nat) : di.setLogWord i v = di.setLogWord i w := by
  unfold Die.setLogWord
  split <;> simp [h _ _, h.bit, h.ofNat]

theorem Manage.setLimits_congr (h : SameWord v w) (m : Manage) (lo n : Nat) : m.setLimits v lo n = m.setLimits w lo n := by
  simp [Manage.setLimits, h _ _]

variable (s : State)

theorem State.setQueueWord_congr (h : SameWord v w) (d q i lo n : Nat) :
    s.setQueueWord d q i v lo n = s.setQueueWord d q i w lo n := by
  unfold State.setQueueWord
  split <;> simp [h _ _, h.bit]

theorem State.setFreeWord_congr (h : SameWord v w) (d i : Nat) : s.setFreeWord d i v 0 8 = s.setFreeWord d i w 0 8 := by
  unfold State.setFreeWord
  split <;> simp [byteMerge, h _ _]

theorem State.setFirmWord_congr (h : SameWord v w) (i lo n : Nat) : s.setFirmWord i v lo n = s.setFirmWord i w lo n := by
  unfold State.setFirmWord
  split <;> simp [h _ _, h.bit]

theorem State.putRegWord_congr (h : SameWord v w) (d off : Nat) : s.putRegWord d off v 0 8 = s.putRegWord d off w 0 8 := by
  simp [State.putRegWord, s.setQueueWord_congr h, Graph.setWord_congr h, Preempt.setWord_congr h, s.setFreeWord_congr h,
    Die.setLogWord_congr h, Manage.setLimits_congr h, Control.setWord_congr h, s.setFirmWord_congr h, h _ _, h.bit, h.ofNat]
end

/-- Eight bytes at a word of the control space are written as REGISTER_WRITE writes them. -/
theorem State.ctlStore_word (s : State) {pa d off : Nat} (v : Nat) (hr : regAddr pa = some (d, off)) (h8 : pa % 8 = 0) :
    s.ctlStore pa v 8 8 = s.setRegWord d (off / 8 * 8) v 0 8 := by
  have hone : s.ctlStore pa v 8 8 = s.ctlStoreWord pa v 8 := by simp [State.ctlStore, h8]
  rw [hone, State.ctlStoreWord, hr]
  simp only [h8, Nat.mul_zero, State.setRegWord]
  rw [State.putRegWord_congr s (sameWord_setBits _ v)]

/-- Where BAR0 reaches the control space (21 R477). -/
theorem regAddr_bar0 (a : Nat) : regAddr (2 ^ 48 + a % 2 ^ 30) = some (a / 2 ^ 28 % 4, a % 2 ^ 28) := by
  have h : bitsOf (2 ^ 48 + a % 2 ^ 30) 30 18 = 0 := by unfold bitsOf; omega
  have hd : bitsOf (2 ^ 48 + a % 2 ^ 30) 28 2 = a / 2 ^ 28 % 4 := by unfold bitsOf; omega
  have ho : bitsOf (2 ^ 48 + a % 2 ^ 30) 0 28 = a % 2 ^ 28 := by unfold bitsOf; omega
  rw [regAddr, h, hd, ho]
  rfl

end Sys2Proof.Machine

namespace Sys2Proof.Slice0
open Sys2Proof Sys2Proof.Machine

/-! ### Writes of the host and of other packages (21 R483, R484) -/

section
variable {s : State} {d pa : Nat} (v : Nat)

theorem outerWrite_refused {st : Nat} (h : s.writeHome d (bareAddr pa) v 8 0 = (s, .refused st)) :
    s.outerWrite d pa v = s.endWait (.outer d pa v) := by simp [State.outerWrite, h]

/-- The write waits for sectors, and is noted so. -/
theorem outerWrite_waits (hp : pa < 2 ^ 40) (hr : s.reaches d pa = true) (hs : s.sectorStatus pa = 0)
    (hf : Tab.get? s.faults (pa / 64) ≠ some .corrected) (hb : s.backLine (pa / 512) = none) :
    s.outerWrite d pa v = s.noteWait (.outer d pa v) (homeDie pa) := by
  simp [State.outerWrite, State.writeHome_waits hp (show 8 < 64 by omega) hr hs hf hb]

/-- The line finds its sectors, once an error in the sector is corrected. -/
theorem backs_noteCorrected (h : Silent s) (hp : pa < 2 ^ 40) (hb : Backs s pa) :
    ((s.noteCorrected pa false).backLine (pa / 512)).isSome = true := by
  rcases hb with hfree | ⟨hsome, hf⟩
  · refine State.backLine_isSome ?_
    have hd : pa / 512 * 512 / 2 ^ 38 % 4 = homeDie pa := by rw [homeDie_local hp]; omega
    rw [hd, State.noteCorrected_silent h]
    split <;> exact hfree
  · rwa [State.noteCorrected_sound s false (by rwa [paLa_local hp])]

theorem outerWrite_stores (hu : Unlogged s) (hp : pa + 8 ≤ 2 ^ 40) (hr : s.reaches d pa = true) (hs : s.sectorStatus pa = 0)
    (hb : Backs s pa) : EightStored s (s.outerWrite d pa v) pa v := by
  obtain ⟨-, hw, hq⟩ := hu
  obtain ⟨t, g, ht, hbytes⟩ := State.writeHome_local (v := v) hq hw hp (by omega) (show 8 < 64 by omega) hr hs
    (backs_noteCorrected hq (by omega) hb)
  intro q hq40
  rw [show s.outerWrite d pa v = t.endWait (.outer d pa v) by simp [State.outerWrite, ht],
    (SameBytes.endWait t _).paByte, hbytes q hq40]

/-- A write to another package stores its bytes at their place there, and nothing in this one. -/
theorem outerWrite_remote (hu : Unlogged s) (h8 : 8 ≤ paRegion pa) (hr : s.remoteOk pa = true)
    (hp : ∀ k, k < 8 → paRegion (s.placeOf pa + k) ≠ 0) :
    (s.outerWrite (s.homeOf pa) pa v).mem = s.mem ∧ ∀ q, paRegion q ≠ 0 → (s.outerWrite (s.homeOf pa) pa v).paByte q =
      if s.placeOf pa ≤ q ∧ q < s.placeOf pa + 8 then BitVec.ofNat 8 (v / 2 ^ (8 * (q - s.placeOf pa))) else s.paByte q := by
  obtain ⟨-, hw, hq⟩ := hu
  obtain ⟨g, hx⟩ := State.writeHome_remote (v := v) (n := 8) h8 hr
  have hn := SameBytes.noteRoute hq pa
  have ht := (SameBytes.triggerDevice ((s.noteRoute pa).setPaBytes (s.placeOf pa) v 8) (s.placeOf pa)).trans
    (.endWait _ (.outer (s.homeOf pa) pa v))
  rw [show s.outerWrite (s.homeOf pa) pa v =
    (((s.noteRoute pa).setPaBytes (s.placeOf pa) v 8).triggerDevice (s.placeOf pa)).endWait (.outer (s.homeOf pa) pa v) by
      simp [State.outerWrite, hx]]
  refine ⟨by rw [ht.mem, State.setPaBytes_mem v hp, hn.mem], fun q hq0 => ?_⟩
  rw [ht.paByte, State.setPaBytes_paByte v (hn.wf hw) fun k hk => .inr ⟨hp k hk, hq0⟩, hn.paByte]
end

/-- R484: where a byte of another package stands, by package and address. -/
theorem placeOf_remote (s : State) {pa : Nat} (h8 : 8 ≤ paRegion pa) :
    s.placeOf pa = 2 ^ 52 * (1 + s.windowOf pa % 2 ^ 13) + 2 ^ 51 + pa % 2 ^ 40 := by
  simp [State.placeOf, h8, bitsOf, paLa]

end Sys2Proof.Slice0

namespace Sys2Proof.Machine

/-! ### Images and the safe state (21 R486, R487) -/

/-- The safe state's limits, entered at `now`. -/
def Manage.inSafe (m : Manage) (now : Nat) : Manage :=
  { m with safe := true, plim := 900, clim := 1000, pending := true, kicked := now }

/-- The management plane's registers are no part of an event log. -/
theorem Silent.manage_log {s : State} (h : Silent s) (m : Manage) (d src kind : Nat) (p : List (Nat × Nat)) :
    ({ s with manage := m } : State).log d src kind p = { s with manage := m } :=
  Silent.log (s := { s with manage := m }) h d src kind p

theorem Silent.enterSafe {s : State} (h : Silent s) (d reason : Nat) :
    s.enterSafe d reason = { s with manage := s.manage.inSafe (s.gtc 0) } :=
  h.manage_log (s.manage.inSafe (s.gtc 0)) d _ _ _

/-- A refused image leaves the package in the safe state, an accepted one as it was. -/
theorem Silent.verify {s : State} (h : Silent s) (d : Nat) (signed : Bool) (svn : Nat) : s.verify d signed svn =
    if imageOk signed (svn % 2 ^ 32) = true then s else { s with manage := s.manage.inSafe (s.gtc 0) } := by
  simp only [State.verify, h.log]
  split
  · rfl
  · exact h.enterSafe d 1

/-- Several controllers verify their images one after another: one refused is enough for the safe state. -/
theorem Silent.foldl_verify {s : State} (h : Silent s) (signed : Nat → Bool) (svn : Nat → Nat) (ds : List Nat) :
    ds.foldl (fun w d => w.verify d (signed d) (svn d)) s =
      if ∀ d ∈ ds, imageOk (signed d) (svn d % 2 ^ 32) = true then s
      else { s with manage := s.manage.inSafe (s.gtc 0) } := by
  induction ds generalizing s with
  | nil => simp
  | cons d ds ih =>
    rw [List.foldl_cons, h.verify]
    by_cases hd : imageOk (signed d) (svn d % 2 ^ 32) = true
    · simp only [hd, if_true, ih h, List.forall_mem_cons, true_and]
    · simp only [hd, Bool.false_eq_true, if_false, List.forall_mem_cons, false_and]
      have hs : Silent { s with manage := s.manage.inSafe (s.gtc 0) } := h
      rw [ih hs]
      split <;> rfl

theorem clampTo_eq {lo hi : Nat} (v : Nat) (h : lo ≤ hi) : clampTo lo hi v = max lo (min hi v) := by
  unfold clampTo; split <;> (try split) <;> omega

/-! ### Time (19 R459) -/

/-- A die's counter is found `n` ahead of the base; if it must lose ticks, the others gain them. -/
def State.synced (s : State) (die n : Nat) : State :=
  { s.draw with time := s.time + (Tab.getD s.gtcOff die 0 - n), gtcOff := Tab.set s.gtcOff die n }

theorem State.synced_offset (s : State) (die n d : Nat) :
    Tab.getD (s.synced die n).gtcOff d 0 = if d = die then n else Tab.getD s.gtcOff d 0 := Tab.getD_set _ _ _ _ _

theorem State.synced_gtc_self (s : State) (die n : Nat) :
    (s.synced die n).gtc die = min (s.time + max n (Tab.getD s.gtcOff die 0)) (2 ^ 64 - 1) := by
  rw [State.gtc, State.synced_offset, if_pos rfl]
  simp only [State.synced]
  omega

theorem State.synced_gtc_ne (s : State) {die d : Nat} (n : Nat) (h : d ≠ die) : s.gtc d ≤ (s.synced die n).gtc d := by
  rw [State.gtc, State.gtc, State.synced_offset, if_neg h]
  simp only [State.synced]
  omega

/-! ### Waking (01 R14, 19 R459) -/

/-- The time at which a sleeping package wakes. -/
def State.wakeTime (s : State) (reference : Nat) : Nat := max reference (s.time + gtcSkew + 1)

/-- The package as it wakes, before its controllers verify their images. -/
def State.woken (s : State) (reference : Nat) : State :=
  { State.reset with
    time := s.wakeTime reference, gtcOff := (List.range 4).map fun d => (d, Config.choice (s.free + d) % (gtcSkew + 1))
    outside := s.outside, seq := s.seq, agenda := s.agenda, free := s.free + 12
    manage := { leaves := s.manage.leaves, kicked := s.wakeTime reference } }

/-- The image that a die's controller finds at a waking bears a good signature: die 0's is what the waking says. -/
def State.wakeSigned (s : State) (signed : Bool) (d : Nat) : Bool :=
  if d = 0 then signed else Config.choice (s.free + 4 + d) % 2 == 0

theorem State.woken_silent (s : State) (reference : Nat) : Silent (s.woken reference) := fun _ => ⟨rfl, rfl⟩

theorem State.woken_offset (s : State) (reference : Nat) {d : Nat} (h : d < 4) :
    Tab.getD (s.woken reference).gtcOff d 0 ≤ 4 := by
  have hc : ∀ n, Config.choice n % (gtcSkew + 1) ≤ 4 := fun n => by unfold gtcSkew; omega
  match d, h with
  | 0, _ => exact hc _
  | 1, _ => exact hc _
  | 2, _ => exact hc _
  | 3, _ => exact hc _

/-- Each die's counter stands past every value that it had. -/
theorem State.woken_gtc (s : State) (reference : Nat) {d : Nat} (h : Tab.getD s.gtcOff d 0 ≤ 4) :
    s.gtc d ≤ (s.woken reference).gtc d ∧ (s.gtc d < 2 ^ 64 - 1 → s.gtc d < (s.woken reference).gtc d) := by
  have ht : s.time + 5 ≤ (s.woken reference).time := by simp only [State.woken, State.wakeTime, gtcSkew]; omega
  unfold State.gtc
  omega

theorem exec_packageWake (s : State) (reference : Nat) (signed : Bool) :
    exec (.packageWake reference signed) s = .next (if !s.asleep then s else
      (List.range 4).foldl (fun w d => w.verify d (if d == 0 then signed else Config.choice (s.free + 4 + d) % 2 == 0)
        (Config.choice (s.free + 8 + d))) (s.woken reference)) := rfl

/-- Every controller accepts its image at a waking (21 R486). -/
def State.ImagesGood (s : State) (signed : Bool) : Prop :=
  ∀ d, d < 4 → s.wakeSigned signed d = true ∧ Config.fusedSvn.toNat ≤ Config.choice (s.free + 8 + d) % 2 ^ 32

theorem packageWake_good {s : State} (h : s.asleep = true) (reference : Nat) {signed : Bool} (hg : s.ImagesGood signed) :
    exec (.packageWake reference signed) s = .next (s.woken reference) := by
  rw [exec_packageWake, h]
  refine congrArg _ (((s.woken_silent reference).foldl_verify _ _ _).trans (if_pos ?_))
  simpa [imageOk, State.ImagesGood, State.wakeSigned] using hg

/-- One refused image is enough for the package to wake in the safe state. -/
theorem packageWake_refused {s : State} (h : s.asleep = true) (reference : Nat) {signed : Bool} (hg : ¬ s.ImagesGood signed) :
    exec (.packageWake reference signed) s = .next { s.woken reference with
      manage := (s.woken reference).manage.inSafe ((s.woken reference).gtc 0) } := by
  rw [exec_packageWake, h]
  refine congrArg _ (((s.woken_silent reference).foldl_verify _ _ _).trans (if_neg ?_))
  simpa [imageOk, State.ImagesGood, State.wakeSigned] using hg

end Sys2Proof.Machine

namespace Sys2Proof.Slice0
open Sys2Proof Sys2Proof.Machine

/-! ### Sleep, heat and time (01 R25, 19 R459, 21 R489) -/

/-- While the package sleeps, it allows its waking alone (R25). -/
theorem allows_asleep {s : State} {t : Turn} (h : s.asleep = true) (hn : ∀ ref ok, t ≠ .event (.packageWake ref ok)) :
    s.allows t = false := by
  cases t with
  | event i =>
    simp only [State.allows]
    split
    · next ref ok => exact absurd rfl (hn ref ok)
    · simp [h]
  | issue k slot => simp [State.allows, h]
  | upset u => simp [State.allows, h]
  | placeFlat frame => simp [State.allows, h]
  | arrive id sector => simp [State.allows, h]
  | firmwareWrite die addr v => simp [State.allows, h]

/-- A sleeping package does nothing in a step that is not its waking: time passes. -/
theorem step_asleep {s : State} (h : s.asleep = true) (hn : ∀ ref ok, s.takeTurn.1 ≠ .event (.packageWake ref ok)) :
    ∃ t, step s = .next t ∧ t.asleep = true ∧
      t = { s with cycle := t.cycle, time := t.time, free := t.free, agenda := t.agenda, manage := t.manage } := by
  have hs : s.takeTurn.2 = { s with agenda := s.takeTurn.2.agenda } := by unfold State.takeTurn; split <;> rfl
  have ha : s.takeTurn.2.asleep = true := by rw [hs]; exact h
  have hx : step s = .next s.takeTurn.2.tick := by simp [step, allows_asleep ha hn, State.attend, ha]
  refine ⟨_, hx, by simp [State.tick, ha], ?_⟩
  rw [hs]
  simp [State.tick, h]

theorem thermalTrip_cool {s : State} {die : Nat} (h : s.manage.tj.getD die 0 < 115) : exec (.thermalTrip die) s = .next s := by
  change execThermalTrip die s = _
  simp only [execThermalTrip, h, if_true]

theorem thermalTrip_hot {s : State} {die : Nat} (h : 115 ≤ s.manage.tj.getD die 0) :
    exec (.thermalTrip die) s = .next { s with asleep := true } := by
  change execThermalTrip die s = _
  simp only [execThermalTrip, Nat.not_lt.2 h, if_false]

/-- A controller's write outside the window that the host has set is dropped (21 R487). -/
theorem firmwareWrite_dropped {s : State} (d addr v : Nat)
    (h : s.manage.hwsize.getD 0 < 8 ∨ addr % 2 ^ 48 / 8 * 8 < s.manage.hwbase.getD 0 ∨
      s.manage.hwbase.getD 0 + s.manage.hwsize.getD 0 < addr % 2 ^ 48 / 8 * 8 + 8) : s.firmwareWrite d addr v = s := by
  unfold State.firmwareWrite
  dsimp only
  rw [if_neg]
  simp only [Bool.and_eq_true, decide_eq_true_eq]
  omega

theorem exec_gtcSync (s : State) {die : Nat} (h : die ≠ 0) :
    exec (.gtcSync die) s = .next (s.synced die (Config.choice s.free % (gtcSkew + 1))) := by
  change execGtcSync die s = _
  simp [execGtcSync, h, State.synced]

/-- A die's counter is set again, and no die's counter goes back (19 R459). -/
theorem gtcSync_sets (s : State) {die : Nat} (h : die ≠ 0) : ∃ t n, exec (.gtcSync die) s = .next t ∧ n ≤ 4 ∧
    t = { s with time := t.time, gtcOff := t.gtcOff, free := t.free } ∧ Tab.getD t.gtcOff die 0 = n ∧
    t.gtc die = min (s.time + max n (Tab.getD s.gtcOff die 0)) (2 ^ 64 - 1) ∧
    ∀ d, d ≠ die → Tab.getD t.gtcOff d 0 = Tab.getD s.gtcOff d 0 ∧ s.gtc d ≤ t.gtc d :=
  ⟨_, _, exec_gtcSync s h, by unfold gtcSkew; omega, rfl, by rw [State.synced_offset, if_pos rfl], s.synced_gtc_self die _,
    fun d hd => ⟨by rw [State.synced_offset, if_neg hd], s.synced_gtc_ne _ hd⟩⟩

/-- A waking resets the package, and sets its time past every value read before. -/
theorem packageWake_resets {s : State} (h : s.asleep = true) (ref : Nat) (ok : Bool) :
    ∃ t, exec (.packageWake ref ok) s = .next t ∧ ref ≤ t.time ∧ s.time + 5 ≤ t.time ∧
      (∀ d, d < 4 → Tab.getD s.gtcOff d 0 ≤ 4 →
        Tab.getD t.gtcOff d 0 ≤ 4 ∧ s.gtc d ≤ t.gtc d ∧ (s.gtc d < 2 ^ 64 - 1 → s.gtc d < t.gtc d)) ∧
      t = { State.reset with
        time := t.time, gtcOff := t.gtcOff, outside := s.outside, seq := s.seq, agenda := s.agenda, free := t.free, manage := t.manage } ∧
      t.manage.leaves = s.manage.leaves ∧ (s.ImagesGood ok → t.manage = { leaves := s.manage.leaves, kicked := t.time }) ∧
      (¬ s.ImagesGood ok → t.manage.safe = true ∧ t.manage.plim = 900 ∧ t.manage.clim = 1000 ∧ t.manage.pending = true) := by
  have htime : ref ≤ s.wakeTime ref ∧ s.time + 5 ≤ s.wakeTime ref := by unfold State.wakeTime gtcSkew; omega
  have hgtc := fun d (hd : d < 4) ho => And.intro (s.woken_offset ref hd) (s.woken_gtc ref (d := d) ho)
  by_cases hg : s.ImagesGood ok
  · exact ⟨_, packageWake_good h ref hg, htime.1, htime.2, hgtc, rfl, rfl, fun _ => rfl, fun hn => absurd hg hn⟩
  · exact ⟨_, packageWake_refused h ref hg, htime.1, htime.2, hgtc, rfl, rfl, fun hn => absurd hn hg,
      fun _ => ⟨rfl, rfl, rfl, rfl⟩⟩

end Sys2Proof.Slice0

namespace Sys2Proof.Machine

/-- Where BAR2 reaches local memory (21 R483). -/
def State.bar2At (s : State) (addr : Nat) : Nat := (s.bar2 + addr / 8 * 8 % 2 ^ 36) % 2 ^ 40

theorem State.bar2At_lt (s : State) (addr : Nat) : s.bar2At addr < 2 ^ 40 := Nat.mod_lt _ (by decide)

/-- The address of a request between packages (21 R484). -/
def remoteAt (addr : Nat) : Nat := addr % 2 ^ 52 / 8 * 8

end Sys2Proof.Machine

namespace Sys2Proof.Slice0
open Sys2Proof Sys2Proof.Machine

/-! ### The host's port (21 R477, R483) -/

theorem exec_hostRead_bar2 (s : State) (addr : Nat) (v : BitVec 64) :
    exec (.hostAccess false 2 addr v) s = .next (s.readHome 0 (s.bar2At addr)).1 := rfl

theorem exec_hostWrite_bar2 (s : State) (addr : Nat) (v : BitVec 64) :
    exec (.hostAccess true 2 addr v) s = .next (s.outerWrite 0 (s.bar2At addr) v.toNat) := rfl

theorem exec_hostWrite_bar0 (s : State) (addr : Nat) (v : BitVec 64) : exec (.hostAccess true 0 addr v) s =
    .next (if s.reaches 0 (2 ^ 48 + addr / 8 * 8 % 2 ^ 30) = true then
      s.ctlStore (2 ^ 48 + addr / 8 * 8 % 2 ^ 30) v.toNat 8 8 else s) := rfl

/-- A write through BAR0 that finds its way is a register's write. -/
theorem hostWrite_register {s : State} {addr : Nat} (v : BitVec 64)
    (h : s.reaches 0 (2 ^ 48 + addr / 8 * 8 % 2 ^ 30) = true) :
    exec (.hostAccess true 0 addr v) s = exec (.registerWrite (addr / 2 ^ 28 % 4) (addr % 2 ^ 28) v) s := by
  have hd : addr / 8 * 8 / 2 ^ 28 % 4 = addr / 2 ^ 28 % 4 := by omega
  have ho : addr / 8 * 8 % 2 ^ 28 / 8 * 8 = addr % 2 ^ 28 / 8 * 8 := by omega
  rw [exec_hostWrite_bar0, if_pos h, State.ctlStore_word s v.toNat (regAddr_bar0 _) (by omega), hd, ho]
  rfl

theorem hostWrite_mask (s : State) {addr : Nat} (v : BitVec 64) (h : addr < 64) :
    exec (.hostAccess true 4 addr v) s = .next { s with
      msixMask := Tab.set s.msixMask addr ((List.range 64).filter fun k => v.getLsbD k) } := by
  change execHostAccess true 4 addr v s = _
  simp [execHostAccess, h, bitOf_toNat]

theorem hostWrite_base (s : State) {addr : Nat} (v : BitVec 64) (h : 64 ≤ addr) :
    exec (.hostAccess true 4 addr v) s = .next { s with bar2 := v.toNat % 2 ^ 40 } := by
  change execHostAccess true 4 addr v s = _
  simp [execHostAccess, Nat.not_lt.2 h]

/-! ### Requests between packages (21 R484) -/

theorem exec_remoteRequest (s : State) (write : Bool) (addr : Nat) (v : BitVec 64) :
    exec (.remotePackageRequest write addr v) s = .next (
      if (paRegion (remoteAt addr) == 0 && bitsOf (remoteAt addr) 40 8 != 0) = true then s
      else if (paRegion (remoteAt addr) == 0 || decide (8 ≤ paRegion (remoteAt addr))) = true then
        (if write = true then s.outerWrite (s.homeOf (remoteAt addr)) (remoteAt addr) v.toNat
          else (s.readHome (s.homeOf (remoteAt addr)) (remoteAt addr)).1)
      else s) := rfl

/-- A request to local memory, or to another package, is served at its home. -/
theorem remoteRequest_served {addr : Nat} (h : remoteAt addr < 2 ^ 40 ∨ 8 ≤ paRegion (remoteAt addr)) (s : State)
    (write : Bool) (v : BitVec 64) : exec (.remotePackageRequest write addr v) s =
      .next (if write = true then s.outerWrite (s.homeOf (remoteAt addr)) (remoteAt addr) v.toNat
        else (s.readHome (s.homeOf (remoteAt addr)) (remoteAt addr)).1) := by
  have hno : ¬ (paRegion (remoteAt addr) = 0 ∧ bitsOf (remoteAt addr) 40 8 ≠ 0) := by unfold bitsOf paRegion at *; omega
  have hyes : paRegion (remoteAt addr) = 0 ∨ 8 ≤ paRegion (remoteAt addr) := h.imp paRegion_local id
  rw [exec_remoteRequest, if_neg (by simpa using hno), if_pos (by simpa using hyes)]

/-- An address that is neither is ignored. -/
theorem remoteRequest_ignored {addr : Nat} (hlo : 2 ^ 40 ≤ remoteAt addr) (hhi : remoteAt addr < 8 * 2 ^ 48) (s : State)
    (write : Bool) (v : BitVec 64) : exec (.remotePackageRequest write addr v) s = .next s := by
  by_cases h0 : paRegion (remoteAt addr) = 0
  · have hb : bitsOf (remoteAt addr) 40 8 ≠ 0 := by unfold bitsOf paRegion at *; omega
    rw [exec_remoteRequest, if_pos (by simp [h0, hb])]
  · have h8 : ¬ 8 ≤ paRegion (remoteAt addr) := by unfold paRegion; omega
    rw [exec_remoteRequest, if_neg (by simp [h0]), if_neg (by simp [h0, h8])]

/-- The eight bytes of another package lie outside local memory. -/
theorem paRegion_place (s : State) {pa : Nat} (h8 : 8 ≤ paRegion pa) (ha : pa % 8 = 0) (k : Nat) (hk : k < 8) :
    paRegion (s.placeOf pa + k) ≠ 0 := by
  rw [placeOf_remote s h8]
  unfold paRegion
  omega

/-! ### Limits, the watchdog, scrubs and attestation (01 R23, 21 R485-R489) -/

theorem limitRegisterWrite_writes (s : State) (v : BitVec 11) :
    exec (.limitRegisterWrite true v) s = .next { s with manage := { s.manage with clim := v.toNat, pending := true } } ∧
    exec (.limitRegisterWrite false v) s = .next { s with manage := { s.manage with plim := v.toNat, pending := true } } := by
  have hv : v.toNat % 2 ^ 11 = v.toNat := Nat.mod_eq_of_lt v.isLt
  constructor
  · change execLimitRegisterWrite true v s = _
    simp only [execLimitRegisterWrite, Manage.setLimit, if_true, hv]
  · change execLimitRegisterWrite false v s = _
    simp only [execLimitRegisterWrite, Manage.setLimit, Bool.false_eq_true, if_false, hv]

theorem limitInForce_idle {s : State} (h : s.manage.pending = false) : exec .limitInForce s = .next s := by
  change execLimitInForce s = _
  simp [execLimitInForce, h]

/-- The limits that were written come into force, between floor and ceiling. -/
theorem limitInForce_clamps {s : State} (hq : Silent s) (h : s.manage.pending = true) :
    exec .limitInForce s = .next { s with manage := { s.manage with
      plimNow := max 300 (min 1800 s.manage.plim), plimOld := (s.manage.powerLimit (s.gtc 0), s.gtc 0 + 1000000)
      climNow := max 200 (min 1700 s.manage.clim), cclk := max 200 (min 1700 s.manage.clim), pending := false } } := by
  change execLimitInForce s = _
  simp only [execLimitInForce, h, Bool.not_true, Bool.false_eq_true, if_false]
  rw [hq.manage_log, clampTo_eq _ (by decide), clampTo_eq _ (by decide)]

theorem watchdogExpiry_early {s : State} (h : s.gtc 0 < s.manage.kicked + 1000000000) :
    exec .watchdogExpiry s = .next s := by
  change execWatchdogExpiry s = _
  simp [execWatchdogExpiry, h]

/-- An expired watchdog leaves the package in the safe state, whatever the image that is found. -/
theorem watchdogExpiry_due {s : State} (hq : Silent s) (h : s.manage.kicked + 1000000000 ≤ s.gtc 0) :
    exec .watchdogExpiry s = .next { s with free := s.free + 2, manage := s.manage.inSafe (s.gtc 0) } := by
  have hs : Silent { s with free := s.free + 2, manage := s.manage.inSafe (s.gtc 0) } := hq
  change execWatchdogExpiry s = _
  rw [execWatchdogExpiry, if_neg (Nat.not_lt.2 h), hq.enterSafe]
  refine congrArg _ ((hs.verify _ _ _).trans ?_)
  split <;> rfl

theorem patrolScrub_clean {s : State} {sector : Nat} (hx : sector < 2 ^ 34)
    (h : Tab.get? s.faults sector = none ∨ Tab.get? s.faults sector = some .mismatch) :
    exec (.patrolScrub sector) s = .next s := by
  change execPatrolScrub sector s = _
  rcases h with h | h <;> simp only [execPatrolScrub, Nat.mod_eq_of_lt hx, h]

/-- A corrected error that the patrol finds is written back. -/
theorem patrolScrub_corrects {s : State} {sector : Nat} (hq : Silent s) (hx : sector < 2 ^ 34)
    (h : Tab.get? s.faults sector = some .corrected) : exec (.patrolScrub sector) s =
      .next { s with faults := Tab.erase s.faults sector, free := s.free + 1 } := by
  have hl : paLa (64 * sector) / 64 = sector := by unfold paLa; omega
  have hr : paRegion (64 * sector) = 0 := paRegion_local (by omega)
  change execPatrolScrub sector s = _
  simp only [execPatrolScrub, Nat.mod_eq_of_lt hx, h, State.noteCorrected_silent hq, hl, hr, and_self, if_true]

theorem patrolScrub_uncorrectable {s : State} {sector : Nat} (hq : Silent s) (hx : sector < 2 ^ 34)
    (h : Tab.get? s.faults sector = some .uncorrectable) : exec (.patrolScrub sector) s = .next s.draw := by
  change execPatrolScrub sector s = _
  simp only [execPatrolScrub, Nat.mod_eq_of_lt hx, h, Silent.log (s := s.draw) hq]

theorem spdmRequest_exhausted {s : State} {die : Nat} (h : 2 ^ 30 ≤ Tab.getD s.manage.leaves die 0) :
    exec (.spdmRequest die) s = .next s := by
  change execSpdmRequest die s = _
  simp only [execSpdmRequest, keyLeaves, h, if_true]

theorem spdmRequest_signs {s : State} {die : Nat} (hq : Silent s) (h : Tab.getD s.manage.leaves die 0 < 2 ^ 30) :
    exec (.spdmRequest die) s = .next { s with manage :=
      { s.manage with leaves := Tab.set s.manage.leaves die (Tab.getD s.manage.leaves die 0 + 1) } } := by
  change execSpdmRequest die s = _
  simp only [execSpdmRequest, keyLeaves, Nat.not_le.2 h, if_false]
  rw [hq.manage_log]

theorem thermalClockReduction_idle {s : State} {die tj clim : Nat} (h : tj ≤ 100 ∨ 256 ≤ tj ∨ s.manage.clim ≤ clim) :
    exec (.thermalClockReduction die tj clim) s = .next s := by
  change execThermalClockReduction die tj clim s = _
  rw [execThermalClockReduction, if_pos (by simpa [or_assoc] using h)]

theorem thermalClockReduction_lowers {s : State} {die tj clim : Nat} (hq : Silent s) (hlo : 100 < tj) (hhi : tj < 256)
    (hc : clim < s.manage.clim) (hb : clim < 2 ^ 11) : exec (.thermalClockReduction die tj clim) s = .next { s with manage :=
      { s.manage with clim := clim, pending := true, tj := s.manage.tj.set die tj } } := by
  change execThermalClockReduction die tj clim s = _
  rw [execThermalClockReduction, if_neg (by simp; omega), hq.manage_log]
  simp only [Manage.setLimit, if_true, Nat.mod_eq_of_lt hb]

/-! ### The clauses of the statement -/

/-- The accesses through BAR2 (R483). -/
theorem hostAccess_bar2 (s : State) (addr : Nat) (v : BitVec 64) :
    (homeDie (s.bar2At addr) = 0 → Tab.get? s.faults (s.bar2At addr / 64) ≠ some .corrected →
      exec (.hostAccess false 2 addr v) s = .next s) ∧
    (s.reaches 0 (s.bar2At addr) = false → exec (.hostAccess false 2 addr v) s = .next s ∧
      exec (.hostAccess true 2 addr v) s = .next (s.endWait (.outer 0 (s.bar2At addr) v.toNat))) ∧
    (s.reaches 0 (s.bar2At addr) = true → s.sectorStatus (s.bar2At addr) = 0 →
      Tab.get? s.faults (s.bar2At addr / 64) ≠ some .corrected → s.backLine (s.bar2At addr / 512) = none →
      exec (.hostAccess true 2 addr v) s =
        .next (s.noteWait (.outer 0 (s.bar2At addr) v.toNat) (homeDie (s.bar2At addr)))) ∧
    (Unlogged s → ∃ t, exec (.hostAccess false 2 addr v) s = .next t ∧ t.mem = s.mem ∧ t.outside = s.outside) ∧
    (Unlogged s → s.bar2At addr + 8 ≤ 2 ^ 40 → s.reaches 0 (s.bar2At addr) = true → s.sectorStatus (s.bar2At addr) = 0 →
      Backs s (s.bar2At addr) →
      ∃ t, exec (.hostAccess true 2 addr v) s = .next t ∧ EightStored s t (s.bar2At addr) v.toNat) := by
  have hp := s.bar2At_lt addr
  rw [exec_hostRead_bar2, exec_hostWrite_bar2]
  refine ⟨fun hd hf => ?_, fun hr => ⟨?_, ?_⟩, fun hr hs hf hb => ?_, fun hu => ?_, fun hu h8 hr hs hb => ?_⟩
  · rw [State.readHome_local hp hd hf]
  · rw [State.readHome_unreached hr]
  · rw [outerWrite_refused _ (State.writeHome_unreached hr)]
  · rw [outerWrite_waits _ hp hr hs hf hb]
  · have hb : SameBytes s (s.readHome 0 (s.bar2At addr)).1 := .readHome hu.2.2 _ _
    exact ⟨_, rfl, hb.mem, hb.outside⟩
  · exact ⟨_, rfl, outerWrite_stores _ hu h8 hr hs hb⟩

/-- Another package's requests to this one's memory (R484). -/
theorem remoteRequest_local (s : State) {addr : Nat} (v : BitVec 64) (hp : remoteAt addr < 2 ^ 40) :
    (Tab.get? s.faults (remoteAt addr / 64) ≠ some .corrected → exec (.remotePackageRequest false addr v) s = .next s) ∧
    (Unlogged s → s.sectorStatus (remoteAt addr) = 0 → Backs s (remoteAt addr) →
      ∃ t, exec (.remotePackageRequest true addr v) s = .next t ∧ EightStored s t (remoteAt addr) v.toNat) ∧
    (s.sectorStatus (remoteAt addr) = 0 → Tab.get? s.faults (remoteAt addr / 64) ≠ some .corrected →
      s.backLine (remoteAt addr / 512) = none → exec (.remotePackageRequest true addr v) s =
        .next (s.noteWait (.outer (homeDie (remoteAt addr)) (remoteAt addr) v.toNat) (homeDie (remoteAt addr)))) := by
  have hhome : s.homeOf (remoteAt addr) = homeDie (remoteAt addr) := s.homeOf_local (paRegion_local hp)
  have hr : s.reaches (homeDie (remoteAt addr)) (remoteAt addr) = true := s.reaches_home hhome
  have h8 : remoteAt addr + 8 ≤ 2 ^ 40 := by unfold remoteAt at *; omega
  rw [remoteRequest_served (.inl hp), remoteRequest_served (.inl hp), hhome, if_pos rfl, if_neg Bool.false_ne_true]
  refine ⟨fun hf => ?_, fun hu hs hb => ?_, fun hs hf hb => ?_⟩
  · rw [State.readHome_local hp rfl hf]
  · exact ⟨_, rfl, outerWrite_stores _ hu h8 hr hs hb⟩
  · rw [outerWrite_waits _ hp hr hs hf hb]

/-- This package's requests to another (R484). -/
theorem remoteRequest_other (s : State) {addr : Nat} (v : BitVec 64) (hp : 8 * 2 ^ 48 ≤ remoteAt addr) :
    (s.remoteOk (remoteAt addr) = false → exec (.remotePackageRequest false addr v) s = .next s ∧
      exec (.remotePackageRequest true addr v) s =
        .next (s.endWait (.outer (s.homeOf (remoteAt addr)) (remoteAt addr) v.toNat))) ∧
    (s.remoteOk (remoteAt addr) = true → exec (.remotePackageRequest false addr v) s = .next (s.noteRoute (remoteAt addr)) ∧
      (Unlogged s → ∃ t, exec (.remotePackageRequest true addr v) s = .next t ∧ t.mem = s.mem ∧
        ∀ q, paRegion q ≠ 0 → t.paByte q =
          if s.placeOf (remoteAt addr) ≤ q ∧ q < s.placeOf (remoteAt addr) + 8 then
            BitVec.ofNat 8 (v.toNat / 2 ^ (8 * (q - s.placeOf (remoteAt addr)))) else s.paByte q)) := by
  have h8 : 8 ≤ paRegion (remoteAt addr) := by unfold paRegion remoteAt at *; omega
  rw [remoteRequest_served (.inr h8), remoteRequest_served (.inr h8), if_pos rfl, if_neg Bool.false_ne_true,
    State.readHome_remote s h8]
  refine ⟨fun hr => ⟨?_, ?_⟩, fun hr => ⟨?_, fun hu => ⟨_, rfl, ?_⟩⟩⟩
  · rw [if_neg (by simp [hr])]
  · rw [outerWrite_refused _ (State.writeHome_unrouted h8 hr)]
  · rw [if_pos hr]
  · exact outerWrite_remote v.toNat hu h8 hr (paRegion_place s h8 (by unfold remoteAt; omega))

/-- Settles O55: the form of each clause by itself; what is written from outside, by what a write at a home stores. -/
theorem packageIsManaged : Obligations.PackageIsManaged := by
  unfold Obligations.PackageIsManaged
  intro s
  refine ⟨step_asleep, rfl, fun die => ⟨thermalTrip_cool, thermalTrip_hot⟩, rfl, firmwareWrite_dropped,
    fun ref ok => ⟨?awake, fun h => packageWake_resets h ref ok⟩, ⟨rfl, fun die => gtcSync_sets s⟩, ?host, ?remote,
    limitRegisterWrite_writes s, rfl, limitInForce_idle, watchdogExpiry_early, fun sector => patrolScrub_clean,
    fun die => spdmRequest_exhausted, fun die tj clim => thermalClockReduction_idle, ?unlogged⟩
  case awake => intro h; rw [exec_packageWake, h]; rfl
  case host =>
    intro addr v
    refine ⟨rfl, hostWrite_register v, fun h => ?cut, rfl, hostWrite_mask s v, hostWrite_base s v, hostAccess_bar2 s addr v⟩
    case cut => rw [exec_hostWrite_bar0, h]; rfl
  case remote =>
    intro addr v
    refine ⟨fun hp => (remoteRequest_local s v hp).1, fun hu hp => (remoteRequest_local s v hp).2.1 hu,
      fun hp => (remoteRequest_local s v hp).2.2, fun hlo hhi => remoteRequest_ignored hlo hhi s true v, fun hp => ?other⟩
    case other =>
      have h8 : 8 ≤ paRegion (remoteAt addr) := by unfold paRegion remoteAt; omega
      obtain ⟨hbad, hok⟩ := remoteRequest_other s (addr := addr) v hp
      rw [placeOf_remote s h8] at hok
      exact ⟨hbad, fun hr => ⟨(hok hr).1, fun hu =>
        have ⟨t, ht, hmem, hbytes⟩ := (hok hr).2 hu
        ⟨t, ht, hmem, fun q _ => hbytes q⟩⟩⟩
  case unlogged =>
    rintro ⟨-, -, hq⟩
    refine ⟨limitInForce_clamps hq, fun h => ⟨_, watchdogExpiry_due hq h, rfl⟩, fun sector hx => ⟨fun h => ?_, fun h => ?_⟩,
      fun die => spdmRequest_signs hq, fun die tj clim => thermalClockReduction_lowers hq⟩
    · refine ⟨_, patrolScrub_corrects hq hx h, rfl, ?_, fun x hne => ?_⟩
      · rw [Tab.get?_erase, if_pos rfl]
      · rw [Tab.get?_erase, if_neg hne]
    · exact ⟨_, patrolScrub_uncorrectable hq hx h, rfl⟩

end Sys2Proof.Slice0

namespace Sys2Proof.Machine

/-! ### Flags that are the same for every lane (R110, R171-R173) -/

/-- Sets sticky flags in the group of the first of the slot lanes. -/
def State.orFlagsHead (u : State) (ls : List Nat) (fl : Flags) : State :=
  match ls with
  | [] => u
  | l :: _ => if fl == 0 then u else u.orFlags l fl

theorem foldl_or_const (ls : List Nat) (fl : Flags) : ls.foldl (fun a _ => a ||| fl) fl = fl := by
  induction ls with
  | nil => rfl
  | cons l r ih => rw [List.foldl_cons, BitVec.or_self, ih]

/-- Lanes that all bring the same flags set these flags once. -/
theorem State.forLanes_common (s : State) (ls : List Nat) (val : Nat → Nat) (fl : Flags) (wr : State → Nat → Nat → State) :
    s.forLanes ls (fun l => (val l, fl)) wr = (ls.foldl (fun u l => wr u l (val l)) s).orFlagsHead ls fl := by
  cases ls with
  | nil => rfl
  | cons l r =>
    have hfl : (l :: r).foldl (fun a _ => a ||| fl) (0 : Flags) = fl := by simp [foldl_or_const]
    simp only [State.forLanes, hfl, State.orFlagsHead]

/-! ### The executions of a form that executes once (R129), by the lanes of active -/

theorem State.onceUnits_stream {s : State} (h : s.iss.stream = true) (g : Guard) : s.onceUnits g = s.active g := if_pos h

theorem State.onceUnits_nil {s : State} {g : Guard} (h : s.active g = []) : s.onceUnits g = [] := by
  simp [State.onceUnits, h]

theorem State.onceUnits_cons {s : State} {g : Guard} {l : Nat} {r : List Nat} (hst : s.iss.stream = false)
    (h : s.active g = l :: r) : s.onceUnits g = [l] := by
  simp [State.onceUnits, hst, h]

/-- The first execution is in the first lane of active. -/
theorem State.orFlagsHead_onceUnits (u s : State) (g : Guard) (fl : Flags) :
    u.orFlagsHead (s.onceUnits g) fl = u.orFlagsHead (s.active g) fl := by
  cases hst : s.iss.stream with
  | true => rw [State.onceUnits_stream hst]
  | false =>
    cases h : s.active g with
    | nil => rw [State.onceUnits_nil h]
    | cons l r => rw [State.onceUnits_cons hst h]; rfl

/-- No lane in active: no scalar execution. -/
theorem State.scalarUnits_nil {s : State} {g : Guard} (h : s.active g = []) : s.scalarUnits g = [] := by
  unfold State.scalarUnits
  split
  case isTrue => exact h
  case isFalse =>
    split
    next => rfl
    next l _ he =>
      refine if_neg fun hl => ?_
      have hmem : l ∈ s.active g := List.mem_filter.2 ⟨by rw [he]; exact List.mem_cons_self, hl⟩
      rw [h] at hmem
      cases hmem

/-- The executions are those of a scalar form, or in a grouped kernel the one of the lowest lane of active. -/
theorem State.onceUnits_cases (s : State) (g : Guard) : s.onceUnits g = s.scalarUnits g ∨
    s.iss.stream = false ∧ ∃ l ∈ s.active g, s.onceUnits g = [l] := by
  cases hst : s.iss.stream with
  | true => exact .inl (by rw [State.onceUnits_stream hst, State.scalarUnits, if_pos hst])
  | false =>
    cases hact : s.active g with
    | nil => exact .inl (by rw [State.onceUnits_nil hact, State.scalarUnits_nil hact])
    | cons l r => exact .inr ⟨rfl, l, List.mem_cons_self, State.onceUnits_cons hst hact⟩

/-- Without a guard, a scalar form of a grouped kernel executes in the entry's lowest fibre (R116). -/
theorem State.scalarUnits_unguarded {s : State} {g : Guard} {l : Nat} {r : List Nat} (hst : s.iss.stream = false)
    (hg : g.ge = false) (he : s.iss.entry = l :: r) : s.scalarUnits g = [l] := by
  simp [State.scalarUnits, hst, he, State.guard, hg]

/-- A scalar result, and the flags that go with it, are the same from every fibre of the group. -/
theorem State.forLanes_regroup {s : State} {l k h jl jk : Nat} (hl : s.iss.at? l = some (h, jl))
    (hk : s.iss.at? k = some (h, jk)) (f : Fields) (w : Nat) (val : Nat → Nat × Flags) :
    s.forLanes [l] val (fun u a x => u.setD .sr f w a x) =
      s.forLanes [k] (fun _ => val l) (fun u a x => u.setD .sr f w a x) := by
  have hset : s.setD .sr f w l (val l).1 = s.setD .sr f w k (val l).1 := by
    rw [State.setD_eq s .sr f w l _ hl, State.setD_eq s .sr f w k _ hk]; rfl
  have hiss : (s.setD .sr f w k (val l).1).iss = s.iss := by rw [State.setD_eq s .sr f w k _ hk]; exact State.modGroup_iss ..
  simp only [State.forLanes, List.foldl_cons, List.foldl_nil, hset, State.orFlags, hiss, hl, hk]

/-! ### The combining instructions as results over lanes (06 R171-R173) -/

section
variable (s : State) (g : Guard) (f : Fields)

/-- The reduction tree over the values of active (R111, R171). -/
def State.vredTree : LaneVals :=
  (doublings s.iss.width).foldl (fun t d => redStep (xTy f) (f.xf 12 4) d t) (s.combIn g f)

/-- The scan over the values of active (R172). -/
def State.vscanTree : LaneVals :=
  (doublings s.iss.width).foldl (fun t d => scanStep (xTy f) (f.xf 12 4) d t) (s.combIn g f)

/-- A lane's result: its own value of the scan, or in an exclusive one that of the lane below it (R172). -/
def State.vscanOut (l : Nat) : Nat :=
  if f.xf 17 1 == 1 then (if l == 0 then combId (xTy f) (f.xf 12 4) else laneAt (s.vscanTree g f) (l - 1))
  else laneAt (s.vscanTree g f) l

/-- Where a segment starts (R173). -/
def State.segHeads : List Bool :=
  (List.range s.iss.width).map fun k => k == 0 || ((s.active g).contains k && s.q k (f.xf 18 5))

/-- The segmented scan over the values of active (R173). -/
def State.vsegsTree : LaneVals :=
  ((doublings s.iss.width).foldl (fun th d => segStep (xTy f) (f.xf 12 4) d th.1 th.2) (s.combIn g f, s.segHeads g f)).1
end

theorem xf_bit (f : Fields) (k : Nat) : f.xf k 1 = 0 ∨ f.xf k 1 = 1 := by
  unfold Fields.xf bitsOf; omega

theorem State.vscanOut_eq (s : State) (g : Guard) (f : Fields) (l : Nat) : s.vscanOut g f l =
    if f.xf 17 1 = 0 then laneAt (s.vscanTree g f) l
    else if l = 0 then combId (xTy f) (f.xf 12 4) else laneAt (s.vscanTree g f) (l - 1) := by
  rcases xf_bit f 17 with h | h <;> simp [State.vscanOut, h]

section
variable {s : State} {i : Issue} (hcur : s.cur = some i) {g : Guard} {f : Fields}
include hcur

theorem exec_vred_scalar (hx : f.xf 16 1 = 1) : exec (.vred g f) s = .next (s.forLanes (s.onceUnits g)
    (fun _ => (laneAt (s.vredTree g f) 0, ((s.vredTree g f).headD (0, 0)).2)) fun u l v => u.setD .sr f (tyWidth (xTy f)) l v) := by
  rw [State.forLanes_common, State.orFlagsHead_onceUnits]
  change execVred g f s = _
  rw [execVred, issued_eq hcur, hx, ← State.iss_eq hcur]
  rfl

theorem exec_vred_vector (hx : ¬ f.xf 16 1 = 1) : exec (.vred g f) s = .next (s.forLanes (s.active g)
    (fun _ => (laneAt (s.vredTree g f) 0, ((s.vredTree g f).headD (0, 0)).2)) fun u l v => u.setD .vr f (tyWidth (xTy f)) l v) := by
  rw [State.forLanes_common]
  change execVred g f s = _
  rw [execVred, issued_eq hcur, beq_eq_false_iff_ne.2 hx, ← State.iss_eq hcur]
  rfl

theorem exec_vscan : exec (.vscan g f) s = .next (s.forLanes (s.active g)
    (fun l => (if f.xf 17 1 = 0 then laneAt (s.vscanTree g f) l
      else if l = 0 then combId (xTy f) (f.xf 12 4) else laneAt (s.vscanTree g f) (l - 1), orAll (s.vscanTree g f)))
    fun u l v => u.setD .vr f (tyWidth (xTy f)) l v) := by
  simp only [← State.vscanOut_eq]
  rw [State.forLanes_common]
  change execVscan g f s = _
  rw [execVscan, issued_eq hcur, ← State.iss_eq hcur]
  rfl

theorem exec_vsegs : exec (.vsegs g f) s = .next (s.forLanes (s.active g)
    (fun l => (laneAt (s.vsegsTree g f) l, orAll (s.vsegsTree g f))) fun u l v => u.setD .vr f (tyWidth (xTy f)) l v) := by
  rw [State.forLanes_common]
  change execVsegs g f s = _
  rw [execVsegs, issued_eq hcur, ← State.iss_eq hcur]
  rfl
end

end Sys2Proof.Machine

namespace Sys2Proof.Slice0
open Sys2Proof Sys2Proof.Machine

/-! ### A result that is delivered once (R129, R171) -/

/-- Between `s` and `t`, what `DeliversIn` says of an instruction: the result of each of the slot lanes `ls` stands in D,
all their flags are set together, and nothing else changes. -/
def Delivered (s t : State) (i : Issue) (ls : List Nat) (m : Form) (f : Fields) (w : Nat) (val : Nat → Nat × Flags) : Prop :=
  (∀ l ∈ ls, Result t i m f w l (val l).1) ∧
  (∀ l ∈ ls, ∀ h j, i.at? l = some (h, j) →
    (t.sharedOf h).flags = (s.sharedOf h).flags ||| orFlags ls fun k => (val k).2) ∧
  Frame (wroteD s i m f w ls (orFlags ls (fun k => (val k).2) != 0)) s t

/-- A scalar delivered from one fibre of a group is delivered from every other. -/
theorem Delivered.regroup {s t : State} {i : Issue} {l k h jl jk : Nat} (hl : i.at? l = some (h, jl))
    (hk : i.at? k = some (h, jk)) {f : Fields} {w : Nat} {val : Nat → Nat × Flags}
    (hd : Delivered s t i [k] .sr f w fun _ => val l) : Delivered s t i [l] .sr f w val := by
  obtain ⟨hres, hflags, hframe⟩ := hd
  have hwrote : ∀ fl, wroteD s i .sr f w [l] fl = wroteD s i .sr f w [k] fl := fun fl => by
    simp only [wroteD, flagged, carries, List.any_cons, List.any_nil, hl, hk, Form.isScalar, Bool.not_true, Bool.false_and]
  have hgroup : ∀ g j, i.at? l = some (g, j) → g = h := fun g j e => (Prod.mk.inj (Option.some.inj (e.symm.trans hl))).1
  refine ⟨fun x hx g j e => ?result, fun x hx g j e => ?flags, by rw [hwrote]; exact hframe⟩
  all_goals
    obtain rfl := List.mem_singleton.1 hx
    obtain rfl := hgroup g j e
  case result => exact hres k List.mem_cons_self g jk hk
  case flags => exact hflags k List.mem_cons_self g jk hk

/-- In a grouped kernel, the entry's lowest fibre is of the group of every other. -/
theorem Sound.lowest_groupmate {s : State} {i : Issue} (hS : Sound s i) (hst : i.stream = false) {l : Nat} (hl : l ∈ i.entry) :
    ∃ e es h jl je, i.entry = e :: es ∧ i.at? l = some (h, jl) ∧ i.at? e = some (h, je) := by
  cases he : i.entry with
  | nil => rw [he] at hl; cases hl
  | cons e es =>
    have hin : e ∈ i.entry := he ▸ List.mem_cons_self
    obtain ⟨h, jl, hjl, -⟩ := hS.seated l hl
    obtain ⟨k, je, hje, -⟩ := hS.seated e hin
    obtain rfl : h = k := by simpa [hjl, hje] using hS.grouped hst l hl e hin
    exact ⟨e, es, h, jl, je, rfl, hjl, hje⟩

/-- Scalar results of a form that executes once are delivered. In a grouped kernel the execution is that of the lowest lane
of active; its group is that of the entry's lowest fibre, where an unguarded scalar form would write the same. -/
theorem forLanes_onceUnits_delivers {s : State} {i : Issue} (hS : Sound s i) (g : Guard) (f : Fields) {w : Nat}
    (hw : w ≤ 32 ∨ w = 64) (val : Nat → Nat × Flags) :
    Delivered s (s.forLanes (s.onceUnits g) val fun u l v => u.setD .sr f w l v) i (s.onceUnits g) .sr f w val := by
  have hexecs : ∀ k : Guard, s.execs .sr k = s.scalarUnits k := fun _ => rfl
  have hi := State.iss_eq hS.cur
  rcases State.onceUnits_cases s g with hsame | ⟨hst, l, hl, hone⟩
  · rw [hsame, ← hexecs]
    exact forLanes_delivers s i hS .sr g f w hw val
  · obtain ⟨e, es, h, jl, je, he, hjl, hje⟩ := hS.lowest_groupmate (hi ▸ hst) (active_sub s hS.cur g l hl)
    have hlow := forLanes_delivers s i hS .sr { g with ge := false } f w hw fun _ => val l
    rw [hexecs, State.scalarUnits_unguarded hst rfl (hi ▸ he)] at hlow
    rw [hone, State.forLanes_regroup (hi ▸ hjl) (hi ▸ hje)]
    exact Delivered.regroup hjl hje hlow

/-- An instruction that runs its results over its executions delivers them. -/
theorem delivers_of_forLanes {ins : Instr} {m : Form} {g : Guard} {f : Fields} {w : Nat} {val : State → Nat → Nat × Flags}
    (hw : w ≤ 32 ∨ w = 64) (he : ∀ (s : State) (i : Issue), s.cur = some i →
      exec ins s = .next (s.forLanes (s.execs m g) (val s) fun u l v => u.setD m f w l v)) : Delivers ins m g f w val :=
  fun s i hS => ⟨_, he s i hS.cur, forLanes_delivers s i hS m g f w hw (val s)⟩

/-- The same for a scalar that is delivered once. -/
theorem deliversOnce_of_forLanes {ins : Instr} {g : Guard} {f : Fields} {w : Nat} {val : State → Nat → Nat × Flags}
    (hw : w ≤ 32 ∨ w = 64) (he : ∀ (s : State) (i : Issue), s.cur = some i →
      exec ins s = .next (s.forLanes (s.onceUnits g) (val s) fun u l v => u.setD .sr f w l v)) :
    DeliversIn ins (fun s => s.onceUnits g) .sr f w val :=
  fun s i hS => ⟨_, he s i hS.cur, forLanes_onceUnits_delivers hS g f hw (val s)⟩

/-- Settles O12: each of the three is a result over its executions, with the flags of the whole tree. -/
theorem combiningFollowsTheTree : Obligations.CombiningFollowsTheTree := by
  unfold Obligations.CombiningFollowsTheTree
  refine ⟨fun g f _ => ?vred, fun g f _ => ?vscan, fun g f _ => ?vsegs⟩
  case vred =>
    intro tree
    split
    case isTrue hx => exact deliversOnce_of_forLanes (ty_width _) fun s i hcur => exec_vred_scalar hcur hx
    case isFalse hx => exact delivers_of_forLanes (ty_width _) fun s i hcur => exec_vred_vector hcur hx
  case vscan => exact delivers_of_forLanes (ty_width _) fun s i hcur => exec_vscan hcur
  case vsegs => exact delivers_of_forLanes (ty_width _) fun s i hcur => exec_vsegs hcur

end Sys2Proof.Slice0
